-- ==== Sys2Proof/Word.lean ====
section
/-! DEFINITION. The word types of the Breaskud and nothing more.
Everything with a rule of its own (byte order, sign extension, fields) stands in Machine/Bits.lean. -/

namespace Sys2Proof

/-- Eight bits, the smallest addressable unit (R32). -/
abbrev Byte := BitVec 8

/-- A sequencer register's width (Table 1.6). -/
abbrev Word := BitVec 64

end Sys2Proof
end

