-- ==== Sys2Proof/Syntax.lean ====
section
/-! DEFINITION. The commands of the device: one constructor of `Instr` per row of the operation table,
with the row's operands. A command is one whole, indivisible operation or event. Where an outcome comes
from outside the rules (a self-test's finding, the number of erroneous bytes a read meets, whether a
signature verifies, a measured power), the command carries it as an operand. Every clock of the device
is separate (R397), so a command that is timed carries the count of its own clock. -/

namespace Sys2Proof

/-- Where and when a bundle's slot issues: device ring index (R20) and ring cycle since power-up. -/
structure Issue where
  ring : Fin 256
  cycle : Nat
  deriving DecidableEq, Repr

/-- A stream engine of a cluster, at a ring cycle. -/
structure EngAt where
  cl : Fin 4096
  eng : Fin 4
  cycle : Nat
  deriving DecidableEq, Repr

/-- An edge of the fabric, by the die a flit leaves and the side it leaves by (R265). -/
structure EdgeId where
  die : Fin 23
  side : Fin 7
  deriving DecidableEq, Repr

/-- A link of a Narid port (R274). -/
structure LinkId where
  port : Fin 16
  half : Bool
  deriving DecidableEq, Repr

/-- What both ends of a handshake that verified have exchanged: the far end's share and the transcript hash (R366). -/
structure KeyShare where
  share : Nat
  transcript : Nat
  deriving DecidableEq, Repr

/-- Pre-FEC symbol errors seen among symbols (R278). -/
structure SymbolErrors where
  errors : Nat
  symbols : Nat
  deriving DecidableEq, Repr

/-- A channel of a deck, in a deck cycle. -/
structure ChanAt where
  ch : Fin 64
  cycle : Nat
  deriving DecidableEq, Repr

/-- A destination of the checkpoint with a serial number (R319). -/
structure CkptDest where
  serial : BitVec 64
  dest : Fin 4
  deriving DecidableEq, Repr

/-- The two FMA pipes (Table 5.1). -/
inductive FmaPipe where
  | va | vb
  deriving DecidableEq, Repr

/-- The fields of a vector slot (Table 5.3) other than OP. -/
structure VSlot where
  sfmt : BitVec 4
  dfmt : BitVec 4
  dst : BitVec 6
  src1 : BitVec 6
  src2 : BitVec 6
  src3 : BitVec 6
  men : Bool
  msk : BitVec 3
  rm : BitVec 3
  satb : Bool
  deriving DecidableEq, Repr

/-- Element widths of `VSETVL` (R108). -/
inductive VWidth where
  | w16 | w32 | w64
  deriving DecidableEq, Repr

/-- Token scopes, coded as SCOPE of Table 7.5. -/
inductive Scope where
  | cluster | ring | span | device
  deriving DecidableEq, Repr

/-- The `MMUL` fields of the matrix slot (Table 4.9). -/
structure MmulF where
  sgna : Bool
  ovw : Bool
  sa : Fin 32
  sc : Fin 32
  accw : BitVec 16
  deriving DecidableEq, Repr

/-- The `MWR` fields of the matrix slot (Table 4.9). -/
structure MwrF where
  sw : Fin 32
  mode : BitVec 4
  ofmt : BitVec 4
  rm : BitVec 3
  pair : Bool
  satb : Bool
  clr : Bool
  bout : Byte
  deriving DecidableEq, Repr

/-- Direction of a stream (Table 8.2, `S.CFG`). -/
inductive Dir where
  | inbound | outbound
  deriving DecidableEq, Repr

/-- The header of a management message (R368, R421): session, sequence number, whether its HMAC tag
verifies, and the standing clock tick at which it is evaluated. -/
structure Mgmt where
  sess : Fin 4
  seq : Nat
  tagOk : Bool
  tick : Nat
  deriving DecidableEq, Repr

/-- Where an order came from: an order slot of a function, or a management message. -/
inductive Origin where
  | slot (fn : Fin 64) (slot : Fin 64)
  | mgmt (h : Mgmt)
  deriving DecidableEq, Repr

/-- What the ring controller's self-test finds in a cluster (R95, R244). -/
inductive SelfTest where
  /-- no fault found -/
  | clean
  /-- one faulty physical cell column -/
  | column (col : Fin 84)
  /-- more than one faulty column, a faulty cell row, or a failing local store line -/
  | broken
  deriving DecidableEq, Repr

/-- A requester of the deck or of a local store's free bank cycles (R243, R254). -/
inductive Client where
  | stream (cl : Fin 4096) (eng : Fin 4)
  | transfer (cl : Fin 4096) (idx : Fin 16)
  | trestle (ring : Fin 256)
  | collective (group : Fin 16)
  | other
  deriving DecidableEq, Repr

/-- A read or write request to a deck controller: span, partition identifier, byte offset in the span's deck (R247), and the
deck cycle in which it reaches the controller. -/
structure DeckAcc where
  span : Fin 16
  part : Fin 64
  addr : BitVec 32
  who : Client
  cycle : Nat
  deriving DecidableEq, Repr

/-- Where a restore takes its copy from (R321, Table 17.7): the host's bytes as they arrive, or a siding
copy. -/
inductive RestoreSrc where
  | host (base : BitVec 64)
  | siding (gid : BitVec 16) (pos : BitVec 16) (serial : BitVec 64)
  deriving DecidableEq, Repr

/-- A wire flit as a router or endpoint sees it on arrival (R267, Table 11.2): header fields, payload, the 16 bits of the
header check and the number of erroneous bytes among the payload and its check bytes. -/
structure Flit where
  type : BitVec 4
  part : BitVec 6
  deflt : Bool
  route : BitVec 10
  hop : BitVec 4
  dst : BitVec 5
  srcd : BitVec 5
  srcu : BitVec 12
  tag : BitVec 10
  seq : BitVec 2
  payload : List Byte
  check : BitVec 16
  wrong : Nat
  deriving DecidableEq, Repr

/-- What the FEC of a link made of a frame: the symbols that it corrected, or the codewords it could not correct (R277, R280). -/
inductive Fec where
  | corrected (symbols : Nat)
  | failed (codewords : Nat)
  deriving DecidableEq, Repr

/-- A Narid frame (Table 11.4); in `NARID_FRAME_RECEIVE` its data are as they come over the link, encrypted where R276 says so. -/
structure NFrame where
  cls : BitVec 8
  seq : BitVec 16
  ack : BitVec 16
  gtag : BitVec 64
  offset : Nat
  data : List Byte
  deriving DecidableEq, Repr

/-- A verdict frame's data (Table 12.4). -/
structure Verdict where
  pass : Bool
  cause : BitVec 3
  flags : BitVec 7
  slowPos : BitVec 16
  lag : BitVec 64
  deriving DecidableEq, Repr

/-- A firmware image as its header gives it (R351), what the signature engines say of it, and whether it is the manufacturing
image that a BLANK device boots (R349). -/
structure FwImage where
  svn : Nat
  keySlot : Fin 4
  keyHashOk : Bool
  ecdsaOk : Bool
  hssOk : Bool
  meas : Nat
  mfg : Bool
  deriving DecidableEq, Repr

/-- A partition event frame's kind (R377). -/
inductive PEvent where
  | creation | bind | unbind | teardown
  deriving DecidableEq, Repr

/-- A work frame (Table 15.3); `crcOk` says whether its CRC checks. -/
structure WorkFrame where
  span : Fin 16
  part : Byte
  epoch : Byte
  seq : BitVec 32
  cumwork : BitVec 64
  crcOk : Bool
  deriving DecidableEq, Repr

/-- What a frame carries, and whether it is well formed and its CRC checks (R388, R390). -/
structure Framed (α : Type) where
  ok : Bool
  body : α
  deriving DecidableEq, Repr

/-- A start of the meter: whether a metered group was already powered, and the meter millisecond (R373). -/
structure MeterStart where
  powered : Bool
  ms : Nat
  deriving DecidableEq, Repr

/-- A change order's contents (R386): SEAL values by `QM_` offset, a firmware image's measurement, the
nonce, the BREAKS value, what the checks say, and the millisecond in which the signature check completes. -/
structure ChangeOrder where
  values : List (Nat × BitVec 32)
  firmware : Option Nat
  nonce : Nat
  breaks : Nat
  credentialOk : Bool
  wellFormed : Bool
  fwCarriesBoth : Bool
  fwVerifies : Bool
  ms : Nat
  deriving DecidableEq, Repr

/-- IDE_KM exchanges (R364, Table 14.12); `link` names the link stream, which the PF's mailbox keys, and else the function's
selective stream is meant. -/
inductive IdeKm where
  /-- program the alternate key set of a stream, of whose keys these are the bytes -/
  | keyProg (link : Bool) (keys : List Byte)
  /-- switch to it -/
  | ksetGo (link : Bool)
  /-- stop the stream -/
  | ksetStop (link : Bool)
  deriving DecidableEq, Repr

/-- What TLPs of the host bring, and whether they came in the function's selective IDE stream (R364, R365). -/
structure Tlp (α : Type) where
  body : α
  inStream : Bool
  deriving DecidableEq, Repr

/-- A host's write to a function's MSI-X state, the vector control or another four bytes of the table, or to its configuration
space: the enable and mask bits of the capability (R413, R417), or the power state, D0 or D3hot (R411), for whose write the
table of commands has no row of its own (log entry 89). -/
inductive MsixAct where
  | unmask (vec : Fin 4)
  | mask (vec : Fin 4)
  | entry (offset : Fin 64) (value : BitVec 32)
  | enable (on : Bool)
  | functionMask (on : Bool)
  | power (d3hot : Bool)
  deriving DecidableEq, Repr

/-- What befalls a TLP on its way: nothing, a poisoned payload, or an error of the link, which delivers it by its own retry (R414,
R420). -/
inductive TlpFault where
  | clean | poisoned | link
  deriving DecidableEq, Repr

/-- What brings the test port to Test-Logic-Reset or lets it leave: TMS held high, or a level of TRST_N (R432, R434). -/
inductive TapReset where
  | tms
  | trst (high : Bool)
  deriving DecidableEq, Repr

/-- What wakes the signal box CORES domain (R395). -/
inductive WakeCause where
  | orderBook | management | i3c | fault | timer
  deriving DecidableEq, Repr

/-- Causes of a device reset (Table 16.7). -/
inductive ResetCause where
  | perst | sysRst | order | refLoss | thermTrip
  deriving DecidableEq, Repr

/-- The commands, one constructor per row of the operation table, in its order. An operand with a default says what befalls the
command beside its own operands, or is one that it may do without: with the default it brings nothing. -/
inductive Instr where
  -- orders and the host (17_host_and_management.md)
  | orderPost (fn slot : Fin 64) (op : Byte) (tag : Word) (args : Tlp (List Byte))
  | orderBookScan (wrong : List Nat := [])
  | slotWriteWhileTaken (fn slot : Fin 64) (offset : Fin 128) (value : Tlp Byte)
  | imageKey (fn slot : Fin 64) (addr : Word) (idereq : Bool) (wrong : List Nat := [])
  | imageLoad (fn slot : Fin 64) (addr len : Word)
  | step (fn slot : Fin 64) (ckpt : Word)
  | restore (fn slot : Fin 64) (src : RestoreSrc) (roff rstate : Word)
  | halt (org : Origin) (part : Fin 64)
  | certificate (fn slot : Fin 64) (dest : Word) (space : BitVec 16) (nonceLen selector : Byte)
      (nonceAddr : Word) (wrong : List Nat := [])
  | seal (fn slot : Fin 64) (src dst : Word) (len : BitVec 32) (wrong : List Nat := [])
  | unseal (fn slot : Fin 64) (src dst : Word) (len : BitVec 32) (wrong : List Nat := [])
  | registerRead (org : Origin) (addr : Word) (width : Byte)
  | registerWrite (org : Origin) (addr : Word) (width : Byte) (value : Word)
  | bind (slot : Fin 64) (vf part : Byte)
  | unbind (slot : Fin 64) (vf : Byte)
  | partitionList (slot : Fin 64)
  | setNumvfs (n : Nat)
  | vfEnableClear
  | vfFlr (fn : Fin 64)
  | pfFlr
  | bar2Read (fn : Fin 64) (addr : Word) (len : Nat) (wrong : List Nat)
  | bar2Write (fn : Fin 64) (addr : Word) (data : List Byte) (fault : TlpFault) (inStream : Bool)
      (wrong : List Nat)
  | msixUnmask (fn : Fin 64) (act : Tlp MsixAct)
  | ideKm (fn : Fin 64) (km : IdeKm)
  -- management (17_host_and_management.md)
  | create (h : Mgmt) (part : Byte) (rings : List Nat) (regions : List (Nat × Nat))
  | teardown (h : Mgmt) (part : Fin 64)
  | teardownHaltTimeout (part : Fin 64)
  | partitions (h : Mgmt)
  | hello (sess : Fin 4) (tick : Nat)
  | certs (sess : Fin 4) (chain : List Bool)
  | keyshare (sess : Fin 4) (share : Nat)
  | finish (sess : Fin 4) (transcript : Option Nat) (tick : Nat)
  | sessionTimeout (sess : Fin 4) (tick : Nat)
  | fwChunk (h : Mgmt) (offset : Nat) (data : List Byte) (last : Bool) (image : FwImage) (cut : Bool := false)
  | svnCommit (h : Mgmt)
  | reset (h : Mgmt)
  | lifecycle (h : Mgmt) (target : BitVec 2) (ecdsaOk hssOk serialOk : Bool) (token : List Byte := [])
  | anchor (h : Mgmt) (cert : List Byte) (signedByCurrent : Bool)
  | scrub (h : Mgmt) (regions : List (Nat × Nat))
  | telemetry (h : Mgmt) (page : Byte)
  | eventlog (h : Mgmt) (first : Nat)
  | meterRecord (h : Mgmt) (seq : Nat)
  | meterReg (h : Mgmt) (offset : Nat)
  | dkRpcmdRemapRow (h : Mgmt) (span : Fin 16) (ch : Fin 64) (bank : Fin 16) (row : Fin 2048)
  | dkRpcmdReturnChannel (h : Mgmt) (span : Fin 16) (ch : Fin 64)
  | dkRpcmdReinstateRegion (h : Mgmt) (span : Fin 16) (region : Fin 256)
  | bdcapWrite (offset : Byte) (bytes : List Byte := [])
  | i3cDynamicAddress (setdasa : Bool) (staticAddr addr : BitVec 7)
  -- the sequencer slot (07_timetables.md)
  | sadd (i : Issue) (rd ra rb : Fin 32)
  | ssub (i : Issue) (rd ra rb : Fin 32)
  | sand (i : Issue) (rd ra rb : Fin 32)
  | sor (i : Issue) (rd ra rb : Fin 32)
  | sxor (i : Issue) (rd ra rb : Fin 32)
  | sshl (i : Issue) (rd ra rb : Fin 32)
  | sshr (i : Issue) (rd ra rb : Fin 32)
  | ssra (i : Issue) (rd ra rb : Fin 32)
  | smul (i : Issue) (rd ra rb : Fin 32)
  | smin (i : Issue) (rd ra rb : Fin 32)
  | smax (i : Issue) (rd ra rb : Fin 32)
  | sslt (i : Issue) (rd ra rb : Fin 32)
  | saddi (i : Issue) (rd ra : Fin 32) (imm : BitVec 32)
  | sli (i : Issue) (rd : Fin 32) (imm : BitVec 32)
  | slih (i : Issue) (rd : Fin 32) (imm : BitVec 32)
  | sld (i : Issue) (rd ra : Fin 32) (imm : BitVec 32)
  | sst (i : Issue) (rb ra : Fin 32) (imm : BitVec 32)
  | srds (i : Issue) (rd : Fin 32) (off : BitVec 12)
  | swrs (i : Issue) (ra : Fin 32) (off : BitVec 12)
  | br (i : Issue) (target : BitVec 13)
  | beq (i : Issue) (ra rb : Fin 32) (target : BitVec 13)
  | bne (i : Issue) (ra rb : Fin 32) (target : BitVec 13)
  | blt (i : Issue) (ra rb : Fin 32) (target : BitVec 13)
  | bnzd (i : Issue) (ra : Fin 32) (target : BitVec 13)
  | vsetvl (i : Issue) (rd ra : Fin 32) (w : VWidth)
  | lpre (i : Issue) (leg : BitVec 11)
  | legStaged (ring : Fin 256) (cycle : Nat)
  -- the vector slots (05_vector_engine.md)
  | vadd (i : Issue) (p : FmaPipe) (f : VSlot)
  | vsub (i : Issue) (p : FmaPipe) (f : VSlot)
  | vmul (i : Issue) (p : FmaPipe) (f : VSlot)
  | vfma (i : Issue) (p : FmaPipe) (f : VSlot)
  | vfms (i : Issue) (p : FmaPipe) (f : VSlot)
  | vfnma (i : Issue) (p : FmaPipe) (f : VSlot)
  | vdiv (i : Issue) (p : FmaPipe) (f : VSlot)
  | vsqrt (i : Issue) (p : FmaPipe) (f : VSlot)
  | vwmul (i : Issue) (p : FmaPipe) (f : VSlot)
  | vdot2Bf (i : Issue) (p : FmaPipe) (f : VSlot)
  | vdot4 (i : Issue) (p : FmaPipe) (f : VSlot)
  | vand (i : Issue) (f : VSlot)
  | vor (i : Issue) (f : VSlot)
  | vxor (i : Issue) (f : VSlot)
  | vnot (i : Issue) (f : VSlot)
  | vshl (i : Issue) (f : VSlot)
  | vshr (i : Issue) (f : VSlot)
  | vsra (i : Issue) (f : VSlot)
  | vmin (i : Issue) (f : VSlot)
  | vmax (i : Issue) (f : VSlot)
  | vcmp (i : Issue) (f : VSlot)
  | vsel (i : Issue) (f : VSlot)
  | vcvt (i : Issue) (f : VSlot)
  | vqblk (i : Issue) (f : VSlot)
  | vdqblk (i : Issue) (f : VSlot)
  | vexp2 (i : Issue) (f : VSlot)
  | vrcp (i : Issue) (f : VSlot)
  | vrsum (i : Issue) (f : VSlot)
  | vmvsx (i : Issue) (f : VSlot)
  | mand (i : Issue) (f : VSlot)
  | mor (i : Issue) (f : VSlot)
  | mxor (i : Issue) (f : VSlot)
  | mnot (i : Issue) (f : VSlot)
  | mpop (i : Issue) (f : VSlot)
  | vaccRd (i : Issue) (f : VSlot)
  | vld (i : Issue) (f : VSlot)
  | vst (i : Issue) (f : VSlot)
  | vld2 (i : Issue) (f : VSlot)
  | vld3 (i : Issue) (f : VSlot)
  | vld4 (i : Issue) (f : VSlot)
  | vst2 (i : Issue) (f : VSlot)
  | vst3 (i : Issue) (f : VSlot)
  | vst4 (i : Issue) (f : VSlot)
  | vectorResultWrite (i : Issue)
  | freeBankAccess (cl : Fin 4096) (who : Client) (cycle : Nat) (wrong : Nat)
  -- the matrix array (04_matrix_array.md)
  | mmul (i : Issue) (f : MmulF)
  | accumulatorJoin (i : Issue)
  | mstart (i : Issue)
  | mstop (i : Issue)
  | rampStep (i : Issue)
  | mldw (i : Issue) (sd : Fin 32)
  | mldwComplete (i : Issue)
  | mswap (i : Issue)
  | mwr (i : Issue) (f : MwrF)
  | columnCheckMismatch (cl : Fin 4096) (cycle : Nat) (col : Fin 84)
  | mbr (i : Issue) (ra rb : Fin 32) (flush : Bool)
  | batchLimitExpiry (i : Issue)
  | batchComplete (i : Issue)
  -- holds, coasts and tokens (07_timetables.md, 08_streams_tokens_ordering.md)
  | coast (i : Issue) (count : BitVec 24)
  | coastEnd (i : Issue)
  | tpost (i : Issue) (scope : Scope) (name : Byte) (count : BitVec 16)
  | tokenPostApplied (i : Issue)
  | twait (i : Issue) (scope : Scope) (name : Byte) (count : BitVec 16)
  | swait (i : Issue) (mask : BitVec 4)
  | leg (i : Issue) (target : BitVec 24)
  | endHold (i : Issue)
  | holdRelease (i : Issue)
  | holdLimitExpiry (i : Issue)
  | startHold (i : Issue)
  | ringHalted (i : Issue)
  -- streams and transfers (08_streams_tokens_ordering.md)
  | stgo (i : Issue) (eng : Fin 4) (pslot : Fin 32) (sr : Fin 32)
  | strel (i : Issue) (eng : Fin 4)
  | sthalt (i : Issue) (eng : Fin 4)
  | sCfg (e : EngAt) (dir : Dir) (half : BitVec 15) (base : BitVec 21)
  | sPar (e : EngAt) (da : Fin 8)
  | sLi (e : EngAt) (da : Fin 8) (imm : BitVec 48)
  | sAddi (e : EngAt) (da sa : Fin 8) (imm : BitVec 48)
  | sAdd (e : EngAt) (da sa : Fin 8)
  | sLoop (e : EngAt) (count : BitVec 24) (n : BitVec 10)
  | sGet (e : EngAt) (sa : Fin 8) (len : BitVec 24) (inc : Bool)
  | sPut (e : EngAt) (sa : Fin 8) (len : BitVec 24) (inc : Bool)
  | sFlip (e : EngAt)
  | sPost (e : EngAt) (scope : Scope) (name : Byte)
  | sEnd (e : EngAt)
  | streamHalfFull (e : EngAt) (half : Bool)
  | xget (i : Issue) (sd : Fin 32) (tscope : Scope) (tname : Byte)
  | xput (i : Issue) (sd : Fin 32) (tscope : Scope) (tname : Byte)
  | xmove (i : Issue) (sd : Fin 32) (tscope : Scope) (tname : Byte)
  | transferComplete (cl : Fin 4096) (idx : Fin 16) (cycle : Nat)
  -- the Trestle engine (09_trestle_solver.md)
  | trestleSubmit (i : Issue) (value : BitVec 32)
  | trestleRequestStart (ring : Fin 256) (cycle : Nat)
  | residualKernelIssue (cl : Fin 4096) (pipe : FmaPipe) (cycle : Nat)
  | trestleDeadline (ring : Fin 256) (cycle : Nat) (iters : Nat)
  | trestleComplete (ring : Fin 256) (cycle : Nat)
  | scheduleCopy (ring : Fin 256)
  -- faults, recovery and the commit (13_long_runs.md)
  | faultReport (ring : Fin 256) (cycle : Nat)
  | recovery (part : Fin 64) (tests : List (Fin 4096 × SelfTest)) (badEntries : List (Fin 2 × Nat))
  | commit (part : Fin 64)
  | journaledWrite (acc : DeckAcc) (data : List Byte) (mask : List Bool)
  | journalEntryStored (siding : Fin 2)
  | checkpointStopEnd (part : Fin 64) (badExtent : Option Nat)
  | checkpointAck (part : Fin 64) (dest : CkptDest)
  | destinationTimeout (part : Fin 64) (dest : CkptDest)
  | bulkFrameReceive (port : Fin 16) (half : Bool) (f : NFrame)
  -- the deck (10_memory.md)
  | deckRead (acc : DeckAcc) (wrong : List Nat)
  | deckWrite (acc : DeckAcc) (data : List Byte) (mask : List Bool) (cycle : Nat) (wrong : Nat)
  | writeBufferDrain (span : Fin 16) (ch : Fin 64) (cycle : Nat)
  | refresh (span : Fin 16) (ch : Fin 64) (temp : Byte) (waiting : Bool)
  | scrubWrite (span : Fin 16) (addr : BitVec 32)
  | scrubComplete (span : Fin 16)
  | calibrationStep (span : Fin 16) (at_ : ChanAt) (checkOk : Bool)
  | channelRetrain (span : Fin 16) (ch : Fin 64) (errors : Nat)
  | channelRetrainDone (span : Fin 16)
  | channelOffline (span : Fin 16)
  -- the fabric and Narid (11_fabric_and_narid.md)
  | flitReceive (at_ : Fin 23) (inEdge : Fin 7) (f : Flit)
  | flitReplay (edge : EdgeId) (n fc : Nat)
  | edgeRetrain (edge : EdgeId) (fc : Nat)
  | edgeRetrainDone (die : Fin 23) (side : Fin 7) (failing : Nat)
  | naridFrameReceive (port : Fin 16) (half : Bool) (f : NFrame) (fec : Fec) (tag : List Byte) (fc : Nat)
  | naridNak (port : Fin 16) (half : Bool) (seq : BitVec 16)
  | farEndDetected (port : Fin 16) (half : Bool)
  | cableDetached (port : Fin 16) (half : Bool)
  | trainingDone (port : Fin 16) (half : Bool) (ok : Bool)
  | naridHandshake (port : Fin 16) (half : Bool) (certsOk lifecycleField : Bool) (agreed : Option KeyShare)
  | naridRekey (link : LinkId) (agreed : Option KeyShare) (certsOk lifecycleField : Bool := true)
  | linkIdle (port : Fin 16) (half : Bool)
  | linkSleep (port : Fin 16) (half : Bool)
  | linkFrameReady (port : Fin 16) (half : Bool)
  | linkRetrain (link : LinkId) (seen : SymbolErrors)
  | linkRetrainDone (port : Fin 16) (half : Bool) (ok : Bool)
  -- collectives (12_collectives.md)
  | invocationStart (group : Fin 16) (bucket : Fin 64) (fc : Nat)
  | rootJoin (group : Fin 16) (bucket : Fin 64) (chunk : Fin 1024)
  | resultReceive (group : Fin 16) (bucket : Fin 64) (chunk : Fin 1024)
  | digestCheck (group : Fin 16) (bucket : Fin 64) (chunk : Fin 1024)
  | memberVerdict (group : Fin 16) (bucket : Fin 64)
  | groupVerdictSend (group : Fin 16) (bucket : Fin 64)
  | groupVerdict (group : Fin 16) (bucket : Fin 64) (v : Verdict)
  | collectiveTimeout (group : Fin 16) (bucket : Fin 64) (fc : Nat)
  -- power, clocks and reset (16_power_clocks_reset.md)
  | capEvaluation (milliwatts : Nat) (dieTemps deckTemps : List Nat)
  | ringClockStep (ring : Fin 256)
  | thermalTrip (span : Fin 16)
  | ringSleep (ring : Fin 256)
  | ringWake (ring : Fin 256) (tests : List (Fin 17 × SelfTest))
  | uncoreOff
  | uncoreOn
  | coresSleep
  | coresWake (cause : WakeCause)
  | pwrok
  | powerOnReset
  | perst
  | sysRstN (low : Bool)
  | deviceReset (cause : ResetCause)
  | referenceLoss
  | referenceReturn
  | boot (slotA slotB : FwImage) (idCertOk repairOk : Bool)
  | lockstepMismatch
  | lmsTreeGenerated
  -- the meter (15_quinys_meter.md)
  | workFrameSend (span : Fin 16)
  | workFrameReceive (f : WorkFrame)
  | worklossTimeout (span : Fin 16)
  | partitionEventFrame (ev : Framed PEvent) (part : Fin 64) (rings : List Nat) (seq : Nat) (ms : Nat)
  | snapshotFrame (comes formed crcOk : Bool) (ms : Nat)
  | intervalBoundary (ms : Nat)
  | hourRecord (ms : Nat)
  | sealBreakAssert (ms : Nat)
  | sealBreakRelease (ms : Nat)
  | meterSupplyFail
  | meterStart (start : MeterStart)
  | crystalFail
  | crystalReturn
  | mailboxOutput
  | meterMailboxReceive
  | getReg (offset : Framed Nat)
  | getRecord (seq : Framed Nat)
  | getCert
  | getNonce
  | change (o : Framed ChangeOrder)
  -- the test access port (18_package_and_test.md)
  | extest (cells : Option (List Bool) := none)
  | idcode
  | samplePreload (preload : Option (List Bool))
  | clamp
  | highz
  | extestPulse (cells : Option (List Bool) := none)
  | extestTrain (cells : Option (List Bool) := none)
  | bypass
  | testLogicReset (by_ : TapReset := .tms)
  -- rows added at the end of the table
  | imageValidationEnd (part : Fin 64) (hwFault : Bool) (wrong : List Nat)
  | restoreComplete (part : Fin 64) (exts : List (Nat × Nat)) (data : Tlp (List Byte)) (hwFault : Bool)
  | naridPortConfiguration (h : Mgmt) (port : Fin 16) (value : BitVec 32)
  | spdmKeyExchange (fn : Fin 64) (ok : Bool)
  | energySample (samples : List (Int × Int))
  deriving DecidableEq, Repr

end Sys2Proof
end

