-- ==== Sys2Proof/Decode.lean ====
section
/-! DEFINITION. The commands that words spell. The operation table gives no row any bits, so no word spells a
command: commands arrive over their own interfaces, each with its operands. -/

namespace Sys2Proof

/-- The command that `nbits` bits `w` of the operation table spell: none, for every row. -/
def decodeTableWord (nbits w : Nat) : Option Instr :=
  match nbits, w with
  | _, _ => none

end Sys2Proof
end

