-- ==== Sys2Proof/Config.lean ====
section
/-! DEFINITION. What the manual leaves open: values without a body, so that no proof can see what they
are. Each is applied to a key that makes every use a fresh value (assumption log rows 20 to 29). -/

namespace Sys2Proof

/-- A free number for every key. The first element of a key says what the value stands for; the rest
makes each use its own. Every named open value below is this constant under a key of its own. -/
opaque Config.free : List Nat → Nat

/-- A byte a fixed-latency reader receives from a bank that made no access because of a conflict (R242
gives no value): ring, power-up, ring cycle, logical slot, local store address. -/
def Config.conflictByte (ring wake cycle slot addr : Nat) : Byte :=
  BitVec.ofNat 8 (Config.free [1, ring, wake, cycle, slot, addr])

/-- R250: whether a pattern of five or more erroneous bytes is reported as uncorrectable; the key names
the read that meets it. -/
def Config.beyondReported (key : List Nat) : Bool := Config.free (2 :: key) % 2 == 1

/-- R250: the byte at `k` of another codeword that such a pattern is decoded to. -/
def Config.beyondByte (key : List Nat) (k : Nat) : Byte := BitVec.ofNat 8 (Config.free (3 :: k :: key))

/-- R244: whether the storage of a line found in error is defective, and errs again after a write. -/
def Config.lineDefect (key : List Nat) : Bool := Config.free (8 :: key) % 2 == 1

/-- Whether a batch takes its activations as signed in the integer and scaled-integer modes: `MBR` has no
SGNA bit and R93 names none. -/
def Config.batchSgna : Bool := Config.free [7] % 2 == 1

/-- Bytes of Trestle scratch areas (Table 9.7: contents not defined). -/
def Config.workByte (n k : Nat) : Byte := BitVec.ofNat 8 (Config.free [4, n, k])

/-- Signatures, keys, keystreams, tags and random numbers of the public standards the manual cites: byte
`k` of the value named by `key`. -/
def Config.cryptoByte (key : List Nat) (k : Nat) : Byte := BitVec.ofNat 8 (Config.free (5 :: k :: key))

def Config.cryptoBytes (key : List Nat) (n : Nat) : List Byte :=
  (List.range n).map (fun k => Config.cryptoByte key k)

/-- Credits of a virtual channel on an edge (R266 gives no number); a channel has at least one. -/
def Config.vcCredits (die side vc : Nat) : Nat := 1 + Config.free [30, die, side, vc]

/-- Credits of a frame class on a Narid link, and those that a link control frame returns (R277 gives no number and no
layout). -/
def Config.linkCredits (cls : Nat) : Nat := 1 + Config.free [31, cls]
def Config.creditsIn (cls : Nat) (data : List Byte) : Nat := Config.free (32 :: cls :: data.map BitVec.toNat)

/-- The data of a link control frame that returns one credit of a class. -/
def Config.creditData (cls : Nat) : List Byte := (List.range 64).map (fun k => BitVec.ofNat 8 (Config.free [44, cls, k]))

/-- Whether the meter's hold-up suffices at a failure of its supply (R373). -/
def Config.heldUp (k : Nat) : Bool := Config.free [46, k] % 2 == 1

/-- The direction bytes of a link's two keys, the device's sending one and the far end's, and the direction bit of its nonce (R366
gives none of the values). -/
def Config.directionByte (port : Nat) (half : Bool) : Byte := BitVec.ofNat 8 (Config.free [33, port, half.toNat])
def Config.farByte (port : Nat) (half : Bool) : Byte := BitVec.ofNat 8 (Config.free [48, port, half.toNat])
def Config.directionBit (port : Nat) (half : Bool) : Bool := Config.free [34, port, half.toNat] % 2 == 1

/-- The version of the boot ROM and the serial numbers that the vendor assigns to certificates (R356, R357 give neither). -/
def Config.romVersion : Nat := Config.free [42]
def Config.vendorSerial (n : Nat) : Nat := Config.free [43, n]

/-- An open choice of the device among `n` alternatives, by the count of choices made. -/
def Config.choice (kind ctr n : Nat) : Nat := Config.free [6, kind, ctr] % n

/-- Whether a partition whose ring set a snapshot shows unchanged had one of the bindings that the meter missed (R377): the frame
does not say which. The key is the record number then and the partition. -/
def Config.rebound (recseq part : Nat) : Bool := Config.free [47, recseq, part] % 2 == 1

end Sys2Proof
end

