-- ==== Sys2Proof/Machine/Bits.lean ====
section
/-! DEFINITION. Bit fields, byte order and sign extension, on plain numbers and on bit vectors. -/

namespace Sys2Proof.Machine

/-- Bits [lo + n − 1 : lo] of a number. -/
def bits (x lo n : Nat) : Nat := (x >>> lo) % 2 ^ n

/-- Bit `k` of a number. -/
def bit (x k : Nat) : Bool := x.testBit k

/-- 1 or 0. -/
def b2n (b : Bool) : Nat := if b then 1 else 0

/-- The number that `n` low bits spell as a two's complement integer. -/
def sextInt (n x : Nat) : Int :=
  let y := x % 2 ^ n
  if 2 * y < 2 ^ n then (y : Int) else (y : Int) - (2 ^ n : Nat)

/-- An integer as an `n`-bit two's complement code. -/
def wrapInt (n : Nat) (x : Int) : Nat := (x % ((2 ^ n : Nat) : Int)).toNat

/-- Little-endian value of bytes, least significant at the lowest address (R32). -/
def leNat : List Byte → Nat
  | [] => 0
  | b :: bs => b.toNat + 256 * leNat bs

/-- The `k` little-endian bytes of a number (R32). -/
def toLe : Nat → Nat → List Byte
  | 0, _ => []
  | k + 1, x => BitVec.ofNat 8 x :: toLe k (x / 256)

/-- Big-endian value of bytes, as signatures and digests are written. -/
def beNat (l : List Byte) : Nat := leNat l.reverse

/-- The `k` big-endian bytes of a number. -/
def toBe (k x : Nat) : List Byte := (toLe k x).reverse

/-- `n` bytes from offset `o` of a byte string; bytes past its end read zero. -/
def slice (l : List Byte) (o n : Nat) : List Byte :=
  let t := (l.drop o).take n
  t ++ List.replicate (n - t.length) 0

/-- A little-endian field of a byte string. -/
def leAt (l : List Byte) (o n : Nat) : Nat := leNat (slice l o n)

/-- Write bytes over a byte string at an offset. -/
def patch (l : List Byte) (o : Nat) (d : List Byte) : List Byte :=
  slice l 0 o ++ d ++ l.drop (o + d.length)

/-- ASCII characters of a short text, one byte each. -/
def ascii (s : String) : List Byte := s.toList.map (fun c => BitVec.ofNat 8 c.toNat)

/-- Ceiling of a quotient. -/
def ceilDiv (a b : Nat) : Nat := (a + b - 1) / b
def roundUp (n k : Nat) : Nat := ceilDiv n k * k

/-- Saturating increment of a `w`-bit counter. -/
def satInc (w x : Nat) (by_ : Nat := 1) : Nat := min (x + by_) (2 ^ w - 1)

/-- Bits a write of `v` sets in the RW field of width `n` at `lo` of a register value (R6). -/
def setField (old lo n v : Nat) : Nat :=
  old - bits old lo n * 2 ^ lo + (v % 2 ^ n) * 2 ^ lo

/-- Replace element `i` of a list, if it has one. -/
def setAt {α : Type} (l : List α) (i : Nat) (v : α) : List α := l.set i v

/-- Floor of x × 2ⁿ, exact for n ≥ 0 and truncating toward −∞ below (R60). -/
def floorShift (x : Int) (n : Int) : Int :=
  if 0 ≤ n then x * (2 ^ n.toNat : Nat) else x / (2 ^ (-n).toNat : Nat)

/-- floor(log₂ x) of a positive number; 0 for 0. -/
def lg (x : Nat) : Nat := Nat.log2 x

/-- Integer square root by bits, from bit `k` down. -/
def isqrtAux (x : Nat) : Nat → Nat → Nat
  | 0, r => r
  | k + 1, r =>
    let t := r + 2 ^ k
    if t * t ≤ x then isqrtAux x k t else isqrtAux x k r

/-- floor(√x). -/
def isqrt (x : Nat) : Nat := isqrtAux x (lg x / 2 + 1) 0

end Sys2Proof.Machine
end

