-- ==== Sys2Proof/Machine/Codes.lean ====
section
/-! DEFINITION. The codes the manual names: CRC-64 (R293), CRC-32 (Table 15.3), CRC-16 (R267), the
Reed-Solomon code RS(70,64) (R249), and, from the public standards the manual cites by name (PRESUMED:
their constants are not in the manual), SHA-256, SHA-384 with HMAC and HKDF, the P-384 curve equation and the
lengths of LMS signatures. -/

namespace Sys2Proof.Machine

/-! ## Cyclic redundancy checks -/

/-- `n` bit steps of a most-significant-bit-first CRC of width `w`. -/
def crcMsbBits (w poly : Nat) : Nat → Nat → Nat
  | 0, c => c
  | n + 1, c =>
    let c' := if bit c (w - 1) then ((2 * c) % 2 ^ w) ^^^ poly else (2 * c) % 2 ^ w
    crcMsbBits w poly n c'

def crcMsb (w poly : Nat) (bs : List Byte) (c0 : Nat) : Nat :=
  bs.foldl (fun c b => crcMsbBits w poly 8 (c ^^^ (b.toNat * 2 ^ (w - 8)))) c0

/-- The digest of a collective chunk (R293). -/
def crc64 (bs : List Byte) : Nat := crcMsb 64 0x42F0E1EBA9EA3693 bs 0

/-- The header check of a wire flit (R267). -/
def crc16 (bs : List Byte) : Nat := crcMsb 16 0x1021 bs 0xFFFF

def crc32Bits : Nat → Nat → Nat
  | 0, c => c
  | n + 1, c => crc32Bits n (if bit c 0 then (c / 2) ^^^ 0xEDB88320 else c / 2)

/-- The check of work frames and meter serial frames (Table 15.3): polynomial 0x04C1_1DB7, reflected,
initial and final value all ones. -/
def crc32 (bs : List Byte) : Nat :=
  (bs.foldl (fun c b => crc32Bits 8 (c ^^^ b.toNat)) 0xFFFFFFFF) ^^^ 0xFFFFFFFF

/-! ## RS(70,64) over GF(2⁸) (R249, R250) -/

def gfMulAux (b : Nat) : Nat → Nat → Nat → Nat
  | 0, _, acc => acc
  | n + 1, a, acc =>
    gfMulAux b n (let d := 2 * a; if bit d 8 then d ^^^ 0x11D else d)
      (if bit b (7 - n) then acc ^^^ a else acc)

/-- Product in GF(2⁸) with x⁸ + x⁴ + x³ + x² + 1. -/
def gfMul (a b : Nat) : Nat := gfMulAux b 8 a 0

/-- Coefficients of g(x) below x⁶, highest first. -/
def rsGen : List Nat := [0x3F, 0x01, 0xDA, 0x20, 0xE3, 0x26]

/-- The six check bytes of a 64-byte granule: the remainder of d(x)·x⁶ modulo g(x). -/
def rsCheck (d : List Byte) : List Byte :=
  let r := d.foldl (fun (r : List Nat) b =>
    match r with
    | [] => []
    | h :: t =>
      let f := b.toNat ^^^ h
      ((t ++ [(0 : Nat)]).zip rsGen).map (fun (p : Nat × Nat) => p.1 ^^^ gfMul f p.2)) ([0, 0, 0, 0, 0, 0] : List Nat)
  r.map (BitVec.ofNat 8)

/-- What a decoder reports for a pattern of erroneous bytes (R250). -/
inductive RsVerdict where
  | clean
  | corrected
  | uncorrectable
  /-- five or more erroneous bytes: the manual gives no assurance -/
  | beyond
  deriving DecidableEq, Repr

/-- R250, by the number of erroneous bytes among the 70. -/
def rsVerdict (wrong : Nat) : RsVerdict :=
  if wrong = 0 then .clean
  else if wrong ≤ 2 then .corrected
  else if wrong ≤ 4 then .uncorrectable
  else .beyond

/-! ## SHA-2, HMAC and HKDF -/

/-- Root of degree `n` of `x`, rounded down, by bits from bit `k − 1` down. -/
def rootBits (n x : Nat) : Nat → Nat → Nat
  | 0, r => r
  | k + 1, r => rootBits n x k (if (r + 2 ^ k) ^ n ≤ x then r + 2 ^ k else r)

/-- The first 64 bits after the binary point of the root of degree `n` of a number below 2¹². -/
def rootFraction (n p : Nat) : BitVec 64 := BitVec.ofNat 64 (rootBits n (p * 2 ^ (64 * n)) 70 0)

/-- The first eighty primes, whose roots are the constants of SHA-384. -/
def shaPrimes : List Nat :=
  (List.range 410).filter (fun p => decide (2 ≤ p) && (List.range (isqrt p + 1)).all (fun d => decide (d < 2) || p % d != 0))

/-- Fractions of the cube roots: one addend per round. -/
def shaAddends : List (BitVec 64) := shaPrimes.map (rootFraction 3)

/-- How far a member of SHA-2 turns words: in a round, for its two sums; in the message schedule, for its two small sums, which
shift by the last amount besides. -/
structure ShaTurns where
  main : List Nat
  pick : List Nat
  early : List Nat × Nat
  late : List Nat × Nat
  deriving DecidableEq, Repr

def sha512Turns : ShaTurns := ⟨[28, 34, 39], [14, 18, 41], ([1, 8], 7), ([19, 61], 6)⟩
def sha256Turns : ShaTurns := ⟨[2, 13, 22], [6, 11, 25], ([7, 18], 3), ([17, 19], 10)⟩

/-- The eight working words, and the sixteen message words the next rounds take, oldest first. -/
structure ShaState (w : Nat) where
  chain : List (BitVec w)
  window : List (BitVec w)
  deriving DecidableEq, Repr

/-- Exclusive-or of a word turned right by each amount of a list. -/
def turns {w : Nat} (x : BitVec w) (ks : List Nat) : BitVec w := ks.foldl (fun acc k => acc ^^^ x.rotateRight k) 0

/-- A round: the oldest message word goes in with the round's addend, and the window moves on by the word
that the recurrence of the message schedule gives. -/
def ShaState.round {w : Nat} (k : ShaTurns) (t : ShaState w) (addend : BitVec w) : ShaState w :=
  let at_ := fun i => t.chain.getD i 0
  let word := fun i => t.window.getD i 0
  let small := fun (x : BitVec w) (r : List Nat × Nat) => turns x r.1 ^^^ (x >>> r.2)
  let pick := at_ 6 ^^^ (at_ 4 &&& (at_ 5 ^^^ at_ 6))
  let most := (at_ 0 &&& (at_ 1 ||| at_ 2)) ||| (at_ 1 &&& at_ 2)
  let enter := word 0 + addend + at_ 7 + pick + turns (at_ 4) k.pick
  let next := word 0 + word 9 + small (word 1) k.early + small (word 14) k.late
  { chain := (enter + most + turns (at_ 0) k.main) :: (t.chain.take 7).set 3 (at_ 3 + enter)
    window := t.window.drop 1 ++ [next] }

/-- The rounds over each block of sixteen words, the chain added to what it was before the block. -/
def shaChain {w : Nat} (k : ShaTurns) (addends : List (BitVec w)) : Nat → List Byte → List (BitVec w) → List (BitVec w)
  | 0, _, h => h
  | n + 1, m, h =>
    let words := (List.range 16).map (fun i => BitVec.ofNat w (beNat (slice m (w / 8 * i) (w / 8))))
    let t := addends.foldl (ShaState.round k) { chain := h, window := words }
    shaChain k addends n (m.drop (2 * w)) (List.zipWith (· + ·) h t.chain)

/-- The message as it is hashed in words of `w` bits, and its number of blocks: a bit of one, zeros, its length. -/
def shaPadded (w : Nat) (m : List Byte) : Nat × List Byte :=
  let blocks := m.length / (2 * w) + (if m.length % (2 * w) < 2 * w - w / 4 then 1 else 2)
  (blocks, slice (m ++ [0x80]) 0 (2 * w * blocks - w / 4) ++ toBe (w / 4) (8 * m.length))

/-- SHA-384 of a byte string (FIPS 180-4, cited by R136 and others): the chain starts from the fractions of
the square roots of the ninth to the sixteenth prime, and the digest is its first six words. -/
def sha384 (m : List Byte) : List Byte :=
  let x := shaPadded 64 m
  let start := ((shaPrimes.drop 8).take 8).map (rootFraction 2)
  ((shaChain sha512Turns shaAddends x.1 x.2 start).take 6).flatMap (fun x => toBe 8 x.toNat)

/-- SHA-256 of a byte string (FIPS 180-4, by the parameter sets of R354 and R360): the constants are the first 32 bits of the
fractions that the first eight and the first sixty-four primes give. -/
def sha256 (m : List Byte) : List Byte :=
  let x := shaPadded 32 m
  let start := (shaPrimes.take 8).map (fun p => (rootFraction 2 p).extractLsb' 32 32)
  let addends := (shaAddends.take 64).map (fun a => a.extractLsb' 32 32)
  (shaChain sha256Turns addends x.1 x.2 start).flatMap (fun x => toBe 4 x.toNat)

/-- HMAC-SHA-384 (R346, R368). -/
def hmac384 (key msg : List Byte) : List Byte :=
  let k := if key.length > 128 then sha384 key else key
  let k := k ++ List.replicate (128 - k.length) 0
  sha384 (k.map (· ^^^ 0x5c) ++ sha384 (k.map (· ^^^ 0x36) ++ msg))

def hkdfExtract (salt ikm : List Byte) : List Byte := hmac384 salt ikm

/-- HKDF-Expand of RFC 5869 to at most 96 bytes, all that R346 asks for. -/
def hkdfExpand (prk info : List Byte) (n : Nat) : List Byte :=
  let t1 := hmac384 prk (info ++ [1])
  let t2 := hmac384 prk (t1 ++ info ++ [2])
  (t1 ++ t2).take n

/-! ## Management messages (R421) -/

/-- The TYPE of a reply. -/
def replyType : Nat := 0x7F

/-- Whether a message opens a session: its tag is zeros. -/
def opensSession (type : Nat) : Bool := decide (1 ≤ type) && decide (type ≤ 4)

/-- The header: MAGIC, version, TYPE, reserved, length of the body, sequence number, reserved. -/
def messageHeader (type len seq : Nat) : List Byte :=
  ascii "HLNM" ++ [1, BitVec.ofNat 8 type, 0, 0] ++ toLe 4 len ++ toLe 8 seq ++ List.replicate 12 0

/-- The tag over header and body under a session's key. -/
def messageTag (key : List Byte) (type seq : Nat) (body : List Byte) : List Byte :=
  if opensSession type then List.replicate 48 0 else hmac384 key (messageHeader type body.length seq ++ body)

/-- A reply: it carries the command's sequence number and a status code. The widths of 8 and 2 bytes are the header's and
Table 0.6's (log entry 41). -/
def replyBody (seq code : Nat) (data : List Byte) : List Byte := toLe 8 seq ++ toLe 2 code ++ data

/-! ## The P-384 curve (R360) -/

def p384P : Nat := 2 ^ 384 - 2 ^ 128 - 2 ^ 96 + 2 ^ 32 - 1
def p384N : Nat :=
  0xffffffffffffffffffffffffffffffffffffffffffffffffc7634d81f4372ddf581a0db248b0a77aecec196accc52973
def p384B : Nat :=
  0xb3312fa7e23ee7e4988e056be3f82d19181d9c6efe8141120314088f5013875ac656398d8a2ed19d2a85c8edd3ec2aef

/-- A 97-byte uncompressed point that lies on the curve. -/
def p384OnCurve (pt : List Byte) : Bool :=
  let x := beNat (slice pt 1 48)
  let y := beNat (slice pt 49 48)
  pt.length == 97 && pt.head? == some 0x04 && decide (x < p384P) && decide (y < p384P)
    && (y * y) % p384P == (x * x * x + (p384P - 3) * x + p384B) % p384P

/-! ## HSS parameter sets (R360), from RFC 8554 -/

/-- Tree height of an LMS_SHA256_M32 type code. -/
def lmsHeight (t : Nat) : Option Nat :=
  match t with
  | 6 => some 10
  | 7 => some 15
  | 8 => some 20
  | _ => none

/-- One-time signature length of an LMOTS_SHA256_N32 type code: W4 has 67 chains, W8 has 34. -/
def lmotsLen (t : Nat) : Option Nat :=
  match t with
  | 3 => some (4 + 32 + 32 * 67)
  | 4 => some (4 + 32 + 32 * 34)
  | _ => none

/-- Length of one LMS signature. -/
def lmsSigLen (lms ots : Nat) : Option Nat :=
  match lmsHeight lms, lmotsLen ots with
  | some h, some o => some (4 + o + 4 + 32 * h)
  | _, _ => none

/-- R360: a 60-byte HSS public key with two levels whose top types are permitted. -/
def hssKeyOk (k : List Byte) : Bool :=
  k.length == 60 && beNat (slice k 0 4) == 2
    && (lmsSigLen (beNat (slice k 4 4)) (beNat (slice k 8 4))).isSome

/-- The length of a two-level HSS signature under a key, its second level's types read from the
signature itself; none when a type is not permitted. -/
def hssSigLen (key sig : List Byte) : Option Nat :=
  match lmsSigLen (beNat (slice key 4 4)) (beNat (slice key 8 4)) with
  | none => none
  | some top =>
    let o := 4 + top
    match lmsSigLen (beNat (slice sig o 4)) (beNat (slice sig (o + 4) 4)) with
    | none => none
    | some bot => some (4 + top + 56 + bot)

end Sys2Proof.Machine
end

