-- ==== Sys2Proof/Machine/Flags.lean ====
section
/-! DEFINITION. The number formats and their conversions (02_number_formats.md): exact values,
the five rounding modes with the Philox draws, overflow and tininess, and every arithmetic flag. -/

namespace Sys2Proof.Machine

/-- Arithmetic flags in the bit places of `CL_VFLAGS` (R51). -/
abbrev Fl := BitVec 7

def flNV : Fl := 0x01
def flDZ : Fl := 0x02
def flOF : Fl := 0x04
def flUF : Fl := 0x08
def flNX : Fl := 0x10
def flNI : Fl := 0x20
def flSAT : Fl := 0x40

/-- Rounding modes after the dynamic encoding is resolved (Table 2.6). -/
inductive Rm where
  | rne | rtz | rdn | rup | sr
  deriving DecidableEq, Repr

/-- The mode of a 3-bit field; the dynamic encoding takes `CL_FPCTRL.RM`, and codes that
validation refuses read as RNE (R44). -/
def rmOf (field dyn : Nat) : Rm :=
  let f := if field = 7 then dyn else field
  match f with
  | 1 => .rtz
  | 2 => .rdn
  | 3 => .rup
  | 4 => .sr
  | _ => .rne

/-- A floating format: width, fraction bits, bias, and whether it has infinities and IEEE NaNs
(Tables 2.1, 2.3, 2.4). -/
structure FFmt where
  width : Nat
  frac : Nat
  bias : Nat
  ieee : Bool
  deriving DecidableEq, Repr

def fp64 : FFmt := ⟨64, 52, 1023, true⟩
def fp32 : FFmt := ⟨32, 23, 127, true⟩
def fp16 : FFmt := ⟨16, 10, 15, true⟩
def bf16 : FFmt := ⟨16, 7, 127, true⟩
/-- R35: bias 8, exponent field 15 an ordinary binade, the single NaN 0x80. -/
def bx8 : FFmt := ⟨8, 3, 8, false⟩
/-- R36: bias 1, no NaN and no infinity. -/
def bx4 : FFmt := ⟨4, 1, 1, false⟩

def FFmt.ebits (F : FFmt) : Nat := F.width - 1 - F.frac
/-- Largest exponent field of a finite number. -/
def FFmt.emaxField (F : FFmt) : Nat := if F.ieee then 2 ^ F.ebits - 2 else 2 ^ F.ebits - 1
/-- Exponent of the smallest normal number. -/
def FFmt.emin (F : FFmt) : Int := 1 - (F.bias : Int)
/-- Exponent of the largest binade. -/
def FFmt.emax (F : FFmt) : Int := (F.emaxField : Int) - F.bias
def FFmt.signBit (F : FFmt) : Nat := 2 ^ (F.width - 1)
def FFmt.maxCode (F : FFmt) : Nat := F.emaxField * 2 ^ F.frac + (2 ^ F.frac - 1)
def FFmt.infCode (F : FFmt) : Nat := (2 ^ F.ebits - 1) * 2 ^ F.frac
/-- Canonical NaN (Table 2.2); 0x80 in BX8; BX4 has none and delivers 0x0 (Table 2.9). -/
def FFmt.nanCode (F : FFmt) : Nat :=
  if F.ieee then F.infCode + 2 ^ (F.frac - 1) else if F.width = 8 then 0x80 else 0

/-- The exact value of a code: a NaN, an infinity, or ±m × 2^e (zero keeps its sign). -/
inductive Val where
  | nan (signaling : Bool)
  | inf (neg : Bool)
  | fin (neg : Bool) (m : Nat) (e : Int)
  deriving DecidableEq, Repr

/-- R33 to R36: the value a code stands for. -/
def FFmt.decode (F : FFmt) (code : Nat) : Val :=
  let c := code % 2 ^ F.width
  let neg := bit c (F.width - 1)
  let e := bits c F.frac F.ebits
  let f := bits c 0 F.frac
  if !F.ieee && F.width == 8 && c == 0x80 then .nan false
  else if F.ieee && e == 2 ^ F.ebits - 1 then
    if f == 0 then .inf neg else .nan (!bit f (F.frac - 1))
  else if e == 0 then .fin neg f (F.emin - F.frac)
  else .fin neg (2 ^ F.frac + f) ((e : Int) - F.bias - F.frac)

/-- R48: one Philox-4×32 multiply step. PRESUMED (log entry 29): its multipliers, and the key increments of `philoxAux`, are
those of the generator's public definition. -/
def philoxRound (k : Nat × Nat) (c : Nat × Nat × Nat × Nat) : Nat × Nat × Nat × Nat :=
  let p0 := 0xD2511F53 * c.1
  let p1 := 0xCD9E8D57 * c.2.2.1
  let m := 2 ^ 32
  (((p1 / m) ^^^ c.2.1 ^^^ k.1) % m, p1 % m, ((p0 / m) ^^^ c.2.2.2 ^^^ k.2) % m, p0 % m)

def philoxAux : Nat → Nat × Nat → Nat × Nat × Nat × Nat → Nat × Nat × Nat × Nat
  | 0, _, c => c
  | r + 1, k, c =>
    philoxAux r ((k.1 + 0x9E3779B9) % 2 ^ 32, (k.2 + 0xBB67AE85) % 2 ^ 32) (philoxRound k c)

/-- R48: the draw of index `d` under a seed, step and stream number. -/
def philoxDraw (seed step stream d : Nat) : Nat :=
  let n := d / 4
  let o := philoxAux 10 (seed % 2 ^ 32, seed / 2 ^ 32 % 2 ^ 32)
    (n % 2 ^ 32, n / 2 ^ 32 % 2 ^ 32, step % 2 ^ 32, stream % 2 ^ 32)
  match d % 4 with
  | 0 => o.1
  | 1 => o.2.1
  | 2 => o.2.2.1
  | _ => o.2.2.2

/-- Round the magnitude m × 2^(−k) (plus a further amount below one unit of m when `sticky`) to an
integer. `neg` says the value's sign, which the directed modes and SR ask for (R44, R47).
Answers the integer and whether it differs from the value. -/
def roundMag (rm : Rm) (neg : Bool) (m : Nat) (sticky : Bool) (k : Nat) (draw : Nat) : Nat × Bool :=
  let n := m >>> k
  let rem := m % 2 ^ k
  let inexact := rem != 0 || sticky
  let up : Bool :=
    match rm with
    | .rne => k != 0 && (decide (2 * rem > 2 ^ k) || (2 * rem == 2 ^ k && (sticky || n % 2 == 1)))
    | .rtz => false
    | .rdn => neg && inexact
    | .rup => !neg && inexact
    | .sr =>
      let r := draw / 256
      if neg then
        let num := 2 ^ 24 * (2 ^ k - rem)
        let f := if sticky then (num - 1) / 2 ^ k else num / 2 ^ k
        !decide (r < f)
      else decide (r < 2 ^ 24 * rem / 2 ^ k)
  if inexact && up then (n + 1, true) else (n, inexact)

/-- Round m × 2^e to a multiple of 2^q: the multiple, and whether it differs. -/
def roundAt (rm : Rm) (neg : Bool) (m : Nat) (e : Int) (sticky : Bool) (q : Int) (draw : Nat) :
    Nat × Bool :=
  if q ≤ e then
    if sticky then roundMag rm neg ((m * 2 ^ (e - q).toNat) * 2) true 1 draw
    else (m * 2 ^ (e - q).toNat, false)
  else roundMag rm neg m sticky (q - e).toNat draw

/-- The code of a finite multiple n × 2^q of a format that holds it. -/
def FFmt.encode (F : FFmt) (neg : Bool) (n : Nat) (q : Int) : Nat :=
  let s := if neg then F.signBit else 0
  if n = 0 then (if !F.ieee && F.width == 8 then 0 else s)
  else if n < 2 ^ F.frac then s + n
  else
    let up := lg n - F.frac
    let f := n >>> up
    let e := q + up + F.frac + F.bias
    s + e.toNat * 2 ^ F.frac + (f - 2 ^ F.frac)

/-- Overflow delivery of R46. -/
def FFmt.overflow (F : FFmt) (rm : Rm) (sat neg : Bool) : Nat × Fl :=
  let s := if neg then F.signBit else 0
  if !F.ieee || sat then (s + F.maxCode, flOF ||| flSAT ||| flNX)
  else
    let toMax : Bool := match rm with
      | .rtz => true
      | .rdn => !neg
      | .rup => neg
      | _ => false
    (s + (if toMax then F.maxCode else F.infCode), flOF ||| flNX)

/-- R44 to R47: one rounding of ±(m × 2^e, plus sticky) to a floating format. With `flush`, a non-zero
result whose rounding with an unbounded exponent lies below the smallest normal is delivered as
zero (R43). -/
def FFmt.round (F : FFmt) (rm : Rm) (sat flush neg : Bool) (m : Nat) (e : Int) (sticky : Bool)
    (draw : Nat) : Nat × Fl :=
  if m = 0 && !sticky then (F.encode neg 0 0, 0)
  else
    let m' := if sticky then m * 2 ^ 64 else m
    let e' := if sticky then e - 64 else e
    let top := e' + lg m'
    let qU := top - F.frac
    let rU := roundAt rm neg m' e' sticky qU draw
    -- the unbounded result reaches the next binade when rounding carries out
    let ovf : Bool := decide (qU + F.frac > F.emax) ||
      (rU.1 == 2 ^ (F.frac + 1) && decide (qU + F.frac + 1 > F.emax))
    if ovf then F.overflow rm sat neg
    else
      let tiny : Bool := decide (top < F.emin) &&
        !(rU.1 == 2 ^ (F.frac + 1) && decide (top + 1 ≥ F.emin))
      if tiny && flush then (F.encode neg 0 0, flUF ||| flNX)
      else
        let q := max qU (F.emin - F.frac)
        let r := roundAt rm neg m' e' sticky q draw
        let fl : Fl := (if r.2 then flNX else 0) ||| (if tiny && r.2 then flUF else 0)
        (F.encode neg r.1 q, fl)

/-- Signed bounds of an integer format. -/
def intLo (w : Nat) (signed : Bool) : Int := if signed then -((2 ^ (w - 1) : Nat) : Int) else 0
def intHi (w : Nat) (signed : Bool) : Int :=
  if signed then ((2 ^ (w - 1) : Nat) : Int) - 1 else ((2 ^ w : Nat) : Int) - 1

/-- Clamp to an integer format: code and whether it was clamped. -/
def clampInt (w : Nat) (signed : Bool) (x : Int) : Nat × Bool :=
  if x < intLo w signed then (wrapInt w (intLo w signed), true)
  else if intHi w signed < x then (wrapInt w (intHi w signed), true)
  else (wrapInt w x, false)

/-- Round ±m × 2^e to an integer. -/
def roundToInt (rm : Rm) (neg : Bool) (m : Nat) (e : Int) (draw : Nat) : Int × Bool :=
  let r := roundAt rm neg m e false 0 draw
  (if neg then -(r.1 : Int) else (r.1 : Int), r.2)

/-- The formats that the 4-bit format code of Tables 4.10 and 5.4 names. -/
inductive Fmt where
  | flt (f : FFmt)
  | int (w : Nat) (signed : Bool)
  deriving DecidableEq, Repr

def Fmt.ofCode (c : Nat) : Fmt :=
  match c with
  | 0x0 => .flt fp64
  | 0x1 => .flt fp32
  | 0x2 => .flt fp16
  | 0x3 => .flt bf16
  | 0x4 => .flt bx8
  | 0x5 => .flt bx4
  | 0x6 => .int 32 true
  | 0x7 => .int 32 false
  | 0x8 => .int 16 true
  | 0x9 => .int 16 false
  | 0xA => .int 8 true
  | 0xB => .int 8 false
  | 0xC => .int 4 true
  | 0xD => .int 4 false
  | 0xE => .int 64 true
  | _ => .int 64 false

def Fmt.width : Fmt → Nat
  | .flt f => f.width
  | .int w _ => w

/-- R45: SR applies to destinations of 16 bits and under; a wider destination rounds by RNE. -/
def Rm.forWidth (rm : Rm) (w : Nat) : Rm := if rm = .sr ∧ 16 < w then .rne else rm

/-- Flags of a NaN input (R41). -/
def nanFl (signaling : Bool) : Fl := if signaling then flNI ||| flNV else flNI

/-- R53, Table 2.9: a NaN delivered to a floating destination. -/
def FFmt.nanTo (F : FFmt) (sig : Bool) : Nat × Fl :=
  if F.width = 4 then (0, nanFl sig ||| flNV ||| flNX) else (F.nanCode, nanFl sig)

/-- R53, Table 2.9: an infinity delivered to a floating destination. -/
def FFmt.infTo (F : FFmt) (neg : Bool) : Nat × Fl :=
  let s := if neg then F.signBit else 0
  if F.ieee then (s + F.infCode, 0) else (s + F.maxCode, flSAT ||| flNX)

/-- R52 to R54: an exact floating value converted to a format. -/
def convVal (d : Fmt) (rm : Rm) (sat : Bool) (draw : Nat) (v : Val) : Nat × Fl :=
  match d, v with
  | .flt F, .nan s => F.nanTo s
  | .flt F, .inf n => F.infTo n
  | .flt F, .fin n m e => F.round rm sat false n m e false draw
  | .int _ _, .nan s => (0, nanFl s ||| flNV ||| flNX)
  | .int w sg, .inf n =>
    (wrapInt w (if n then intLo w sg else intHi w sg), flNV ||| flSAT ||| flNX)
  | .int w sg, .fin n m e =>
    let r := roundToInt rm n m e draw
    let c := clampInt w sg r.1
    if c.2 then (c.1, flNV ||| flSAT ||| flNX) else (c.1, if r.2 then flNX else 0)

/-- R54: an integer converted to a format; out of range of an integer destination raises SAT and NX
and not NV. -/
def convInt (d : Fmt) (rm : Rm) (sat : Bool) (draw : Nat) (x : Int) : Nat × Fl :=
  match d with
  | .flt F => F.round rm sat false (decide (x < 0)) x.natAbs 0 false draw
  | .int w sg =>
    let c := clampInt w sg x
    (c.1, if c.2 then flSAT ||| flNX else 0)

/-- The integer a code of an integer format stands for. -/
def intVal (w : Nat) (signed : Bool) (code : Nat) : Int :=
  if signed then sextInt w code else ((code % 2 ^ w : Nat) : Int)

/-- R120: `VCVT` of one element. -/
def convert (s d : Fmt) (rm : Rm) (sat : Bool) (draw : Nat) (code : Nat) : Nat × Fl :=
  let rm' := rm.forWidth d.width
  match s with
  | .flt F => convVal d rm' sat draw (F.decode code)
  | .int w sg => convInt d rm' sat draw (intVal w sg code)

/-! ## IEEE operations (R33, R42, R115) -/

/-- The signed integer of ±m at the common exponent e₀ ≤ e. -/
def alignTo (neg : Bool) (m : Nat) (e e0 : Int) : Int :=
  let x : Int := (m * 2 ^ (e - e0).toNat : Nat)
  if neg then -x else x

/-- Sign of an exact zero sum: minus only when rounding down, unless both terms are minus. -/
def zeroSign (rm : Rm) (a b : Bool) : Bool := if a = b then a else rm = .rdn

/-- Round the exact sum of two finite values. -/
def sumFin (F : FFmt) (rm : Rm) (sat : Bool) (draw : Nat) (na : Bool) (ma : Nat) (ea : Int)
    (nb : Bool) (mb : Nat) (eb : Int) : Nat × Fl :=
  let e0 := min ea eb
  let x := alignTo na ma ea e0 + alignTo nb mb eb e0
  if x = 0 then
    (F.encode (if ma = 0 ∧ mb = 0 then zeroSign rm na nb else decide (rm = .rdn)) 0 0, 0)
  else F.round rm sat false (decide (x < 0)) x.natAbs e0 false draw

/-- va × vb + vc with one rounding; `pn` and `cn` turn the signs of product and addend (R115). -/
def fmaVal (F : FFmt) (rm : Rm) (sat : Bool) (draw : Nat) (pn cn : Bool) (a b c : Val) : Nat × Fl :=
  let isN : Val → Bool := fun v => match v with | .nan _ => true | _ => false
  let sg : Val → Fl := fun v => match v with | .nan s => nanFl s | _ => 0
  let nf := sg a ||| sg b ||| sg c
  let infZero : Bool := match a, b with
    | .inf _, .fin _ m _ => m == 0
    | .fin _ m _, .inf _ => m == 0
    | _, _ => false
  if infZero then (F.nanCode, nf ||| flNV)
  else if isN a || isN b || isN c then (F.nanCode, nf)
  else
    match a, b, c with
    | .fin na ma ea, .fin nb mb eb, .fin nc mc ec =>
      sumFin F rm sat draw (xor pn (xor na nb)) (ma * mb) (ea + eb) (xor cn nc) mc ec
    | .fin _ _ _, .fin _ _ _, .inf nc => F.infTo (xor cn nc)
    | _, _, c' =>
      let sp := xor pn (xor (match a with | .inf n => n | .fin n _ _ => n | _ => false)
        (match b with | .inf n => n | .fin n _ _ => n | _ => false))
      match c' with
      | .inf nc => if sp = xor cn nc then F.infTo sp else (F.nanCode, flNV)
      | _ => F.infTo sp

def fmaOp (F : FFmt) (rm : Rm) (sat : Bool) (draw : Nat) (pn cn : Bool) (a b c : Nat) : Nat × Fl :=
  fmaVal F rm sat draw pn cn (F.decode a) (F.decode b) (F.decode c)

/-- a ± b. -/
def addOp (F : FFmt) (rm : Rm) (sat : Bool) (draw : Nat) (sub : Bool) (a b : Nat) : Nat × Fl :=
  match F.decode a, F.decode b with
  | .nan s, .nan t => (F.nanCode, nanFl s ||| nanFl t)
  | .nan s, _ => (F.nanCode, nanFl s)
  | _, .nan t => (F.nanCode, nanFl t)
  | .inf n, .inf k => if n = xor sub k then F.infTo n else (F.nanCode, flNV)
  | .inf n, _ => F.infTo n
  | _, .inf k => F.infTo (xor sub k)
  | .fin na ma ea, .fin nb mb eb => sumFin F rm sat draw na ma ea (xor sub nb) mb eb

/-- The exact product of two values of one format, rounded to another (R115, R118). -/
def mulVal (D : FFmt) (rm : Rm) (sat : Bool) (draw : Nat) (a b : Val) : Nat × Fl :=
  match a, b with
  | .nan s, .nan t => (D.nanCode, nanFl s ||| nanFl t)
  | .nan s, _ => (D.nanCode, nanFl s)
  | _, .nan t => (D.nanCode, nanFl t)
  | .inf n, .inf k => D.infTo (xor n k)
  | .inf n, .fin k m _ => if m = 0 then (D.nanCode, flNV) else D.infTo (xor n k)
  | .fin n m _, .inf k => if m = 0 then (D.nanCode, flNV) else D.infTo (xor n k)
  | .fin na ma ea, .fin nb mb eb => D.round rm sat false (xor na nb) (ma * mb) (ea + eb) false draw

def mulOp (F : FFmt) (rm : Rm) (sat : Bool) (draw : Nat) (a b : Nat) : Nat × Fl :=
  mulVal F rm sat draw (F.decode a) (F.decode b)

/-- a ÷ b, correctly rounded. -/
def divOp (F : FFmt) (rm : Rm) (sat : Bool) (draw : Nat) (a b : Nat) : Nat × Fl :=
  match F.decode a, F.decode b with
  | .nan s, .nan t => (F.nanCode, nanFl s ||| nanFl t)
  | .nan s, _ => (F.nanCode, nanFl s)
  | _, .nan t => (F.nanCode, nanFl t)
  | .inf _, .inf _ => (F.nanCode, flNV)
  | .inf n, .fin k _ _ => F.infTo (xor n k)
  | .fin n _ _, .inf k => (F.encode (xor n k) 0 0, 0)
  | .fin na ma ea, .fin nb mb eb =>
    if mb = 0 then
      if ma = 0 then (F.nanCode, flNV) else ((F.infTo (xor na nb)).1, flDZ)
    else
      let x := ma * 2 ^ 160
      F.round rm sat false (xor na nb) (x / mb) (ea - eb - 160) (x % mb != 0) draw

/-- √a, correctly rounded. -/
def sqrtOp (F : FFmt) (rm : Rm) (sat : Bool) (draw : Nat) (a : Nat) : Nat × Fl :=
  match F.decode a with
  | .nan s => (F.nanCode, nanFl s)
  | .inf n => if n then (F.nanCode, flNV) else F.infTo false
  | .fin n m e =>
    if m = 0 then (F.encode n 0 0, 0)
    else if n then (F.nanCode, flNV)
    else
      let odd := e % 2 != 0
      let m' := (if odd then 2 * m else m) * 2 ^ 240
      let e' := ((if odd then e - 1 else e) - 240) / 2
      let r := isqrt m'
      F.round rm sat false false r e' (r * r != m') draw

/-- Total order of two finite or infinite values: −1, 0 or 1, zeros equal. -/
def cmpVal (a b : Val) : Int :=
  match a, b with
  | .inf n, .inf k => if n = k then 0 else if n then -1 else 1
  | .inf n, _ => if n then -1 else 1
  | _, .inf k => if k then 1 else -1
  | .fin na ma ea, .fin nb mb eb =>
    let e0 := min ea eb
    let x := alignTo na ma ea e0
    let y := alignTo nb mb eb e0
    if x < y then -1 else if y < x then 1 else 0
  | _, _ => 0

/-- R116: minimum or maximum, −0 below +0, NaN canonical. -/
def minMaxOp (F : FFmt) (wantMax : Bool) (a b : Nat) : Nat × Fl :=
  match F.decode a, F.decode b with
  | .nan s, .nan t => (F.nanCode, nanFl s ||| nanFl t)
  | .nan s, _ => (F.nanCode, nanFl s)
  | _, .nan t => (F.nanCode, nanFl t)
  | x, y =>
    let c := cmpVal x y
    let aLess : Bool := decide (c < 0) || (c == 0 && bit a (F.width - 1))
    if aLess = wantMax then (b % 2 ^ F.width, 0) else (a % 2 ^ F.width, 0)

/-- R110, Table 5.5: one comparison. -/
def cmpHolds (cond : Nat) (c : Int) (unord : Bool) : Bool :=
  match cond with
  | 0 => !unord && c == 0
  | 1 => unord || c != 0
  | 2 => !unord && decide (c < 0)
  | 3 => !unord && decide (c ≤ 0)
  | 4 => !unord && decide (c > 0)
  | 5 => !unord && decide (c ≥ 0)
  | _ => unord

def cmpOp (F : FFmt) (cond a b : Nat) : Bool × Fl :=
  let ordered : Bool := decide (2 ≤ cond ∧ cond ≤ 5)
  let q : Fl := if ordered then flNV else 0
  match F.decode a, F.decode b with
  | .nan s, .nan t => (cmpHolds cond 0 true, nanFl s ||| nanFl t ||| q)
  | .nan s, _ => (cmpHolds cond 0 true, nanFl s ||| q)
  | _, .nan t => (cmpHolds cond 0 true, nanFl t ||| q)
  | x, y => (cmpHolds cond (cmpVal x y) false, 0)

/-- 2^(k / 2^n) × 2^160 rounded down, by the bits of k from the top: `c` is 2^(2^−j) × 2^160. -/
def exp2Aux (k : Nat) : Nat → Nat → Nat → Nat
  | 0, _, acc => acc
  | n + 1, c, acc =>
    let c' := isqrt (c * 2 ^ 200)
    let acc' := if bit k n then acc * c' / 2 ^ 200 else acc
    exp2Aux k n c' acc'

/-- R117: 2^x rounded once by RNE. The exact result is irrational unless x is an integer, so the
working value carries 200 fraction bits and a sticky bit. -/
def exp2Op (F : FFmt) (sat : Bool) (a : Nat) : Nat × Fl :=
  match F.decode a with
  | .nan s => (F.nanCode, nanFl s)
  | .inf n => if n then (0, 0) else F.infTo false
  | .fin n m e =>
    if m = 0 then F.round .rne sat false false 1 0 false 0
    else if decide (e + lg m ≥ 12) then
      -- |x| ≥ 2^12: far beyond the range of every format of 32 bits and under
      if n then F.round .rne sat false false 1 (-5000) true 0 else F.overflow .rne sat false
    else
      let fb := (-e).toNat
      let num : Int := if 0 ≤ e then alignTo n m e 0 else (if n then -(m : Int) else (m : Int))
      let ip : Int := if 0 ≤ e then num else num / ((2 ^ fb : Nat) : Int)
      let k : Nat := if 0 ≤ e then 0 else (num % ((2 ^ fb : Nat) : Int)).toNat
      if k = 0 then F.round .rne sat false false 1 ip false 0
      else F.round .rne sat false false (exp2Aux k fb (2 ^ 201) (2 ^ 200)) (ip - 200) true 0

/-- R117: 1/x rounded once by RNE. -/
def rcpOp (F : FFmt) (sat : Bool) (a : Nat) : Nat × Fl :=
  match F.decode a with
  | .nan s => (F.nanCode, nanFl s)
  | .inf n => (F.encode n 0 0, 0)
  | .fin n m e =>
    if m = 0 then ((F.infTo n).1, flDZ)
    else
      let x := 2 ^ 160
      F.round .rne sat false n (x / m) (-e - 160) (x % m != 0) 0

/-! ## Integers in vector lanes (R115) -/

/-- Wrap, or with SATB clamp and raise SAT and NX. -/
def intArith (w : Nat) (sg sat : Bool) (x : Int) : Nat × Fl :=
  if sat then
    let c := clampInt w sg x
    (c.1, if c.2 then flSAT ||| flNX else 0)
  else (wrapInt w x, 0)

/-! ## Blocks (R38 to R40, R55, R56) -/

/-- A block element format of `VQBLK` and `VDQBLK` (R120). -/
inductive Elt where
  | bx8 | bx4 | si8 | ui8 | si4 | ui4
  deriving DecidableEq, Repr

def Elt.ofCode (c : Nat) : Elt :=
  match c with
  | 0x4 => .bx8
  | 0x5 => .bx4
  | 0xA => .si8
  | 0xB => .ui8
  | 0xC => .si4
  | _ => .ui4

def Elt.width : Elt → Nat
  | .bx8 | .si8 | .ui8 => 8
  | _ => 4

/-- Table 2.10. -/
def Elt.emax : Elt → Int
  | .bx8 => 7
  | .bx4 => 2
  | .si8 => 6
  | .ui8 => 7
  | .si4 => 2
  | .ui4 => 3

/-- The exact value of a block element (R39, R40). -/
def Elt.decode (t : Elt) (code scale : Nat) : Val :=
  if scale % 256 = 0xFF then .nan false
  else
    let sh : Int := ((scale % 256 : Nat) : Int) - 127
    let ofInt (x : Int) : Val := .fin (decide (x < 0)) x.natAbs sh
    let ofVal (v : Val) : Val := match v with
      | .fin n m e => .fin n m (e + sh)
      | v => v
    match t with
    | .bx8 => ofVal (Machine.bx8.decode code)
    | .bx4 => ofVal (Machine.bx4.decode code)
    | .si8 => ofInt (intVal 8 true code)
    | .ui8 => ofInt (intVal 8 false code)
    | .si4 => ofInt (intVal 4 true code)
    | .ui4 => ofInt (intVal 4 false code)

/-- One quantised element of value ±m × 2^e already divided by the scale (R55). -/
def Elt.quant (t : Elt) (rm : Rm) (sat : Bool) (draw : Nat) (n : Bool) (m : Nat) (e : Int) : Nat × Fl :=
  let toInt (w : Nat) (sg : Bool) : Nat × Fl :=
    let r := roundToInt rm n m e draw
    let c := clampInt w sg r.1
    if c.2 then (c.1, flSAT ||| flNX)
    else (c.1, (if r.2 then flNX else 0) ||| (if m ≠ 0 ∧ r.1 = 0 then flUF else 0))
  match t with
  | .bx8 => Machine.bx8.round rm sat false n m e false draw
  | .bx4 => Machine.bx4.round rm sat false n m e false draw
  | .si8 => toInt 8 true
  | .ui8 => toInt 8 false
  | .si4 => toInt 4 true
  | .ui4 => toInt 4 false

/-- R55: quantise values into element codes, a scale byte and flags; `draws i` is the draw of
element i. DESIGN CHOICE (log entry 87): the elements of an all-zero block have code 0, those of −0 inputs too. -/
def quantBlock (F : FFmt) (t : Elt) (rm : Rm) (sat : Bool) (draws : List Nat) (codes : List Nat) :
    List Nat × Nat × Fl :=
  let vals := codes.map F.decode
  let special : Bool := vals.any (fun v => match v with | .fin _ _ _ => false | _ => true)
  if special then
    let fl : Fl := vals.foldl (fun f v => f ||| (match v with
      | .nan s => nanFl s
      | .inf _ => flNV
      | _ => 0)) 0
    (codes.map (fun _ => 0), 0xFF, fl)
  else
    let tops : List Int := vals.filterMap (fun v => match v with
      | .fin _ m e => if m = 0 then none else some (e + lg m)
      | _ => none)
    match tops with
    | [] => (codes.map (fun _ => 0), 127, 0)
    | t0 :: ts =>
      let E := ts.foldl max t0
      let b : Int := max 0 (min 254 (E - t.emax + 127))
      let q := (vals.zip draws).map (fun p => match p.1 with
        | .fin n m e => t.quant rm sat p.2 n m (e - (b - 127))
        | _ => (0, 0))
      (q.map (fun p => p.1), b.toNat, q.foldl (fun f p => f ||| p.2) 0)

end Sys2Proof.Machine
end

