-- ==== Sys2Proof/Machine/Fused.lean ====
section
/-! DEFINITION. Fused dot products and accumulation (03_fused_dot_products.md): exact products,
group sums in a window, accumulator joins and read-outs. -/

namespace Sys2Proof.Machine

/-- Dot-product modes (Table 3.1). -/
inductive Mode where
  | fp64 | fp32 | fp16 | bf16 | bx8 | bx4 | s8 | s4 | i8 | i4
  deriving DecidableEq, Repr

/-- The mode of a code; 0xA to 0xF are reserved. -/
def Mode.ofCode (c : Nat) : Option Mode :=
  match c with
  | 0x0 => some .fp64
  | 0x1 => some .fp32
  | 0x2 => some .fp16
  | 0x3 => some .bf16
  | 0x4 => some .bx8
  | 0x5 => some .bx4
  | 0x6 => some .s8
  | 0x7 => some .s4
  | 0x8 => some .i8
  | 0x9 => some .i4
  | _ => none

/-- Reduction positions K (Table 3.1, Table 4.1). -/
def Mode.k : Mode → Nat
  | .fp64 => 12
  | .fp32 => 28
  | .fp16 => 42
  | .bf16 | .bx8 | .s8 | .i8 => 84
  | .bx4 | .s4 | .i4 => 168

/-- Product width P; 0 for the integer modes, which have no window. -/
def Mode.p : Mode → Nat
  | .fp64 => 106
  | .fp32 => 48
  | .fp16 => 22
  | .bf16 => 16
  | .bx8 => 8
  | .bx4 => 4
  | .s8 => 16
  | .s4 => 8
  | .i8 | .i4 => 0

/-- Element width in bits. -/
def Mode.ewidth : Mode → Nat
  | .fp64 => 64
  | .fp32 => 32
  | .fp16 | .bf16 => 16
  | .bx8 | .s8 | .i8 => 8
  | .bx4 | .s4 | .i4 => 4

/-- Cell width w of Table 4.1; the 4-bit modes, ½ cell wide, answer 1 here. -/
def Mode.cellw : Mode → Nat
  | .fp64 => 7
  | .fp32 => 3
  | .fp16 => 2
  | _ => 1

def Mode.isInt : Mode → Bool
  | .i8 | .i4 => true
  | _ => false

/-- Modes whose elements carry E8 scales (R38). -/
def Mode.isBlock : Mode → Bool
  | .bx8 | .bx4 | .s8 | .s4 => true
  | _ => false

/-- Output positions in a width class: `c77` says the cluster presents class 77 (R96). -/
def Mode.outs (m : Mode) (c77 : Bool) : Nat :=
  match m with
  | .fp64 => if c77 then 11 else 12
  | .fp32 => if c77 then 25 else 28
  | .fp16 => if c77 then 38 else 42
  | _ => if c77 then 77 else 84

/-- Words an accumulator entry takes: A160 four, A96 two, integer one (R85). -/
def Mode.entryWords : Mode → Nat
  | .fp64 => 4
  | .i8 | .i4 => 1
  | _ => 2

/-- Significand width of the accumulator, W of R64. -/
def Mode.accw : Mode → Nat
  | .fp64 => 160
  | _ => 96

/-- Join latency L (Table 4.4). -/
def Mode.joinLat : Mode → Nat
  | .i8 | .i4 => 5
  | .fp16 => 7
  | .fp32 => 8
  | .fp64 => 10
  | _ => 6

/-- Capacity of the batcher queue: 84/w, 168 in the 4-bit modes (R92). -/
def Mode.batchCap (m : Mode) : Nat := m.k

/-! ## Products (R58, R59) -/

/-- The value of a matrix operand: FP32 and FP64 subnormals read as zero (R43), block elements
times their scale (R58). -/
def Mode.operand (m : Mode) (signed : Bool) (code scale : Nat) : Val :=
  let noSub (v : Val) (F : FFmt) : Val := match v with
    | .fin n x e => if x < 2 ^ F.frac then .fin n 0 e else .fin n x e
    | v => v
  match m with
  | .fp64 => noSub (Machine.fp64.decode code) Machine.fp64
  | .fp32 => noSub (Machine.fp32.decode code) Machine.fp32
  | .fp16 => Machine.fp16.decode code
  | .bf16 => Machine.bf16.decode code
  | .bx8 => Elt.bx8.decode code scale
  | .bx4 => Elt.bx4.decode code scale
  | .s8 => (if signed then Elt.si8 else Elt.ui8).decode code scale
  | .s4 => (if signed then Elt.si4 else Elt.ui4).decode code scale
  | .i8 => let x := intVal 8 signed code; .fin (decide (x < 0)) x.natAbs 0
  | .i4 => let x := intVal 4 signed code; .fin (decide (x < 0)) x.natAbs 0

/-- A product: special, or ±M × 2^q, with the flags of Table 3.3. -/
inductive Prod where
  | nan
  | inf (neg : Bool)
  | fin (neg : Bool) (m : Nat) (q : Int)
  deriving DecidableEq, Repr

def mkProd (a b : Val) : Prod × Fl :=
  match a, b with
  | .nan s, .nan t => (.nan, nanFl s ||| nanFl t)
  | .nan s, _ => (.nan, nanFl s)
  | _, .nan t => (.nan, nanFl t)
  | .inf n, .inf k => (.inf (xor n k), 0)
  | .inf n, .fin k m _ => if m = 0 then (.nan, flNV) else (.inf (xor n k), 0)
  | .fin n m _, .inf k => if m = 0 then (.nan, flNV) else (.inf (xor n k), 0)
  | .fin na ma ea, .fin nb mb eb => (.fin (xor na nb) (ma * mb) (ea + eb), 0)

/-! ## Group sums (R60, R61) -/

/-- A finite sum S × 2^u, or a special value; also the contents of an accumulator entry. -/
inductive Sum where
  | fin (s : Int) (u : Int)
  | inf (neg : Bool)
  | nan
  deriving DecidableEq, Repr

def Sum.zero : Sum := .fin 0 0

def prodTop (P : Nat) : Prod → Option Int
  | .fin _ m q => if m = 0 then none else some (q + P)
  | _ => none

/-- R60 and R61: the group sum of products with product width `P`. -/
def formGroup (P : Nat) (ps : List Prod) : Sum × Fl :=
  let anyNan := ps.any (fun p => match p with | .nan => true | _ => false)
  let anyP := ps.any (fun p => match p with | .inf n => !n | _ => false)
  let anyN := ps.any (fun p => match p with | .inf n => n | _ => false)
  if anyNan then (.nan, 0)
  else if anyP && anyN then (.nan, flNV)
  else if anyP then (.inf false, 0)
  else if anyN then (.inf true, 0)
  else
    match ps.filterMap (prodTop P) with
    | [] => (.fin 0 0, 0)
    | t0 :: ts =>
      let u : Int := ts.foldl max t0 - P - 8
      let s : Int := ps.foldl (fun a p => match p with
        | .fin n m q => a + floorShift (if n then -(m : Int) else (m : Int)) (q - u)
        | _ => a) 0
      (.fin s u, 0)

/-- The exact integer sum of a group in the integer modes (R66). -/
def intGroup (ps : List Prod) : Int :=
  ps.foldl (fun a p => match p with
    | .fin n m q => a + floorShift (if n then -(m : Int) else (m : Int)) q
    | _ => a) 0

/-! ## Joins (R64, R66) -/

/-- floor(log₂ |S × 2^u|). -/
def sumMsb (s u : Int) : Int := (lg s.natAbs : Int) + u

/-- R64: a group sum joins an entry of width `W`. DESIGN CHOICE (log entry 78): a zero group sum leaves the entry as it
is, as the pseudocode of R64 has it, where step 4's prose places the entry anew. -/
def joinAcc (W : Nat) (a g : Sum) : Sum × Fl :=
  match a, g with
  | .nan, _ => (.nan, 0)
  | _, .nan => (.nan, 0)
  | .inf n, .inf k => if n = k then (.inf n, 0) else (.nan, flNV)
  | .inf n, _ => (.inf n, 0)
  | _, .inf k => (.inf k, 0)
  | .fin sa ua, .fin sg ug =>
    if sg = 0 then (.fin sa ua, 0)
    else if sa = 0 then
      let l := max (sumMsb sg ug + 3 - W) ug
      (.fin (floorShift sg (ug - l)) l, 0)
    else
      let h := max (sumMsb sa ua) (sumMsb sg ug)
      let l := max (h + 3 - W) (min ua ug)
      (.fin (floorShift sa (ua - l) + floorShift sg (ug - l)) l, 0)

/-- R66: an exact sum joins an integer entry, clamped to 48 bits. -/
def joinInt (a g : Int) : Int × Fl :=
  let x := a + g
  let hi : Int := (2 ^ 47 : Nat) - 1
  let lo : Int := -((2 ^ 47 : Nat) : Int)
  if x < lo then (lo, flSAT ||| flNX) else if hi < x then (hi, flSAT ||| flNX) else (x, 0)

/-! ## Entries (R63) -/

/-- The bits of an A160 or A96 entry with significand width `W`. DESIGN CHOICE (log entry 78): an exponent beyond 16 bits,
which only an entry read under another layout can give, is stored modulo 2¹⁶. -/
def accBits (W : Nat) (a : Sum) : Nat :=
  match a with
  | .fin s u => wrapInt W s + wrapInt 16 u * 2 ^ W
  | .inf n => (if n then 2 else 1) * 2 ^ (W + 16)
  | .nan => 3 * 2 ^ (W + 16)

/-- The contents of an A160 or A96 entry. -/
def accOf (W x : Nat) : Sum :=
  match bits x (W + 16) 2 with
  | 0 => .fin (sextInt W x) (sextInt 16 (x >>> W))
  | 1 => .inf false
  | 2 => .inf true
  | _ => .nan

/-- The sum of an integer entry. -/
def accIntOf (x : Nat) : Int := sextInt 48 x
def accIntBits (s : Int) : Nat := wrapInt 48 s

/-! ## Read-out (R69 to R74) -/

/-- Table 3.7: outputs an entry of a mode permits. -/
def readPermitted (m : Mode) (ofmt : Nat) (pair : Bool) : Bool :=
  if m.isInt then !pair && (ofmt == 0 || ofmt == 1 || (decide (6 ≤ ofmt) && decide (ofmt ≤ 0xD)))
  else if pair then decide (ofmt ≤ 3) else decide (ofmt ≤ 5)

/-- One output of a finite value: FP32 and FP64 flush (R71); an exact zero delivers +0 (R72). -/
def roundOut (d : Fmt) (rm : Rm) (sat : Bool) (draw : Nat) (s : Int) (u : Int) : Nat × Fl :=
  let rm' := rm.forWidth d.width
  match d with
  | .flt F =>
    if s = 0 then (0, 0)
    else F.round rm' sat (decide (32 ≤ F.width)) (decide (s < 0)) s.natAbs u false draw
  | .int w sg =>
    let r := roundToInt rm' (decide (s < 0)) s.natAbs u draw
    let c := clampInt w sg r.1
    if c.2 then (c.1, flSAT ||| flNX) else (c.1, if r.2 then flNX else 0)

/-- R70 to R73: a single read-out, scaled by 2^(127 − b_out). -/
def readSingle (d : Fmt) (rm : Rm) (sat : Bool) (draw bout : Nat) (a : Sum) : Nat × Fl :=
  match a with
  | .fin s u => roundOut d rm sat draw s (u + 127 - bout)
  | .inf n => match d with
    | .flt F => F.infTo n
    | .int w sg => (wrapInt w (if n then intLo w sg else intHi w sg), flSAT ||| flNX)
  | .nan => match d with
    | .flt F => if F.width = 4 then (0, flNV ||| flNX) else (F.nanCode, 0)
    | .int _ _ => (0, 0)

/-- R74: head and tail of a pair read-out. -/
def readPair (F : FFmt) (sat : Bool) (bout : Nat) (a : Sum) : Nat × Nat × Fl :=
  match a with
  | .nan => (F.nanCode, F.nanCode, 0)
  | .inf n => ((F.infTo n).1, 0, 0)
  | .fin s u =>
    let e := u + 127 - bout
    let h := roundOut (.flt F) .rne sat 0 s e
    if h.2 &&& flOF ≠ 0 then (h.1, 0, h.2)
    else
      match F.decode h.1 with
      | .fin n m eh =>
        let e0 := min e eh
        let x := s * ((2 ^ (e - e0).toNat : Nat) : Int) - alignTo n m eh e0
        let t := roundOut (.flt F) .rne sat 0 x e0
        -- NX stands only when head and tail together differ from the value
        (h.1, t.1, t.2)
      | _ => (h.1, 0, h.2)

/-- A one-term operand of a fused sum in another engine: the significand and LSB exponent of
Table 3.2, a subnormal FP32 or FP64 read as zero (R77, R289). -/
def termOf (F : FFmt) (code : Nat) : Sum × Fl :=
  match F.decode code with
  | .nan s => (.nan, nanFl s)
  | .inf n => (.inf n, 0)
  | .fin n m e =>
    if m < 2 ^ F.frac then (.fin 0 0, 0) else (.fin (if n then -(m : Int) else (m : Int)) e, 0)

/-! ## Vector dot instructions (R76) -/

/-- `VDOT2.BF` in one FP32 lane. -/
def dot2bf (rm : Rm) (sat : Bool) (a0 b0 a1 b1 addend : Nat) : Nat × Fl :=
  let p0 := mkProd (Machine.bf16.decode a0) (Machine.bf16.decode b0)
  let p1 := mkProd (Machine.bf16.decode a1) (Machine.bf16.decode b1)
  let g := formGroup 16 [p0.1, p1.1]
  let t := termOf fp32 addend
  let j0 := joinAcc 96 Sum.zero t.1
  let j := joinAcc 96 j0.1 g.1
  let r := readSingle (.flt fp32) rm sat 0 127 j.1
  (r.1, p0.2 ||| p1.2 ||| g.2 ||| t.2 ||| j.2 ||| r.2)

/-- `VDOT4` in one INT32 lane. -/
def dot4 (sa sb : Bool) (as bs : List Nat) (addend : Nat) : Nat × Fl :=
  let x : Int := (as.zip bs).foldl (fun t p => t + intVal 8 sa p.1 * intVal 8 sb p.2) (sextInt 32 addend)
  let c := clampInt 32 true x
  (c.1, if c.2 then flSAT ||| flNX else 0)

end Sys2Proof.Machine
end

