-- ==== Sys2Proof/Machine/Tab.lean ====
section
/-! DEFINITION. Sparse tables in one canonical form: keys strictly rising, and no entry equal to
what an unlisted key reads as. Memory is such a table of bytes; the device's 4,096 clusters, 256 rings
and so on are such tables of units. -/

namespace Sys2Proof.Machine

/-- Pairs of key and value, keys strictly rising. -/
abbrev Tab (α : Type) := List (Nat × α)

/-- The value under a key; an unlisted key reads as `d`. -/
def Tab.get {α : Type} (d : α) : Tab α → Nat → α
  | [], _ => d
  | (k, v) :: m, i => if i = k then v else if i < k then d else Tab.get d m i

/-- The value listed under a key, if one is. -/
def Tab.find {α : Type} : Tab α → Nat → Option α
  | [], _ => none
  | (k, v) :: m, i => if i = k then some v else if i < k then none else Tab.find m i

/-- Put a value under a key, keeping the keys rising. -/
def Tab.ins {α : Type} (i : Nat) (x : α) : Tab α → Tab α
  | [] => [(i, x)]
  | (k, v) :: m =>
    if i < k then (i, x) :: (k, v) :: m
    else if i = k then (i, x) :: m
    else (k, v) :: Tab.ins i x m

/-- Drop a key. -/
def Tab.del {α : Type} (i : Nat) : Tab α → Tab α
  | [] => []
  | (k, v) :: m => if i = k then m else if i < k then (k, v) :: m else (k, v) :: Tab.del i m

/-- Write a value: writing what an unlisted key reads as removes the entry. -/
def Tab.set {α : Type} [DecidableEq α] (d : α) (m : Tab α) (i : Nat) (x : α) : Tab α :=
  if x = d then Tab.del i m else Tab.ins i x m

/-- Every key is at least `lo` and the keys rise; no value is the default. -/
def Tab.wfFrom {α : Type} [DecidableEq α] (d : α) : Nat → Tab α → Bool
  | _, [] => true
  | lo, (k, v) :: m => decide (lo ≤ k) && decide (v ≠ d) && Tab.wfFrom d (k + 1) m

/-- The canonical form. -/
def Tab.wf {α : Type} [DecidableEq α] (d : α) (m : Tab α) : Bool := Tab.wfFrom d 0 m

/-- Drop every key from `lo` up to `lo + n`. -/
def Tab.clear {α : Type} (m : Tab α) (lo n : Nat) : Tab α :=
  m.filter (fun p => !(decide (lo ≤ p.1) && decide (p.1 < lo + n)))

/-- A run of values from key `i`. -/
def Tab.getRun {α : Type} (d : α) (m : Tab α) (i : Nat) : Nat → List α
  | 0 => []
  | n + 1 => Tab.get d m i :: Tab.getRun d m (i + 1) n

/-- Write a run of values from key `i`. -/
def Tab.setRun {α : Type} [DecidableEq α] (d : α) (m : Tab α) (i : Nat) : List α → Tab α
  | [] => m
  | x :: xs => Tab.setRun d (Tab.set d m i x) (i + 1) xs

/-- Strictly rising lists of numbers, used as finite sets. -/
def setIns (i : Nat) : List Nat → List Nat
  | [] => [i]
  | k :: m => if i < k then i :: k :: m else if i = k then k :: m else k :: setIns i m

/-- Remove a number from a finite set. -/
def setDel (i : Nat) (l : List Nat) : List Nat := l.filter (fun k => k ≠ i)

end Sys2Proof.Machine
end

