-- ==== Sys2Proof/Machine/RingState.lean ====
section
/-! DEFINITION. The state of a cluster, a ring and a ring's Trestle engine, as plain data. -/

namespace Sys2Proof.Machine

/-! ## The matrix array (04_matrix_array.md) -/

/-- A weight bank of the array (R81): the tile as element codes per reduction position, with one scale
per output position in the block modes. -/
structure Bank where
  valid : Bool
  mode : Mode
  sgnw : Bool
  rows : List (List Nat)
  scales : List (List Nat)
  deriving DecidableEq, Repr

def Bank.empty : Bank := ⟨false, .fp64, false, [], []⟩

/-- Array activity states (R88), in the coding of `CL_MSTAT.STATE`. -/
inductive ArrSt where
  | off | rampup | on | rampdn
  deriving DecidableEq, Repr

/-- A weight tile descriptor (Table 4.2). -/
structure TileDesc where
  ebase : Nat
  epitch : Nat
  sbase : Nat
  spitch : Nat
  mode : Mode
  sgnw : Bool
  noff : Nat
  deriving DecidableEq, Repr

/-- The array of one cluster. `step` counts clocked twelve-column steps, `rampNext` is the ring cycle of
the next change of a ramp, `outUntil` the first ring cycle in which the write-out path is free again. -/
structure Matrix where
  st : ArrSt
  step : Nat
  rampNext : Nat
  front : Bank
  shadow : Bank
  load : Option TileDesc
  loading : Bool
  outUntil : Nat
  fault : BitVec 4
  col : Nat
  bypass : Option Nat
  narrow : Bool
  busy : Nat
  deriving DecidableEq, Repr

def Matrix.reset : Matrix :=
  ⟨.off, 0, 0, .empty, .empty, none, false, 0, 0, 0, none, false, 0⟩

/-- One row request of the batcher (R92): activation pointer, accumulator word and the ring cycle of its `MBR`. -/
structure RowReq where
  ptr : BitVec 64
  word : Nat
  at_ : Nat
  deriving DecidableEq, Repr

/-- A triggered batch whose token has not been posted (R93). -/
structure Batch where
  t : Nat
  reqs : List RowReq
  token : Nat
  deriving DecidableEq, Repr

/-- The batcher: its registers, its queue with the settings the open batch captured, and the batches
that run. -/
structure Batcher where
  en : Bool
  token : Nat
  limit : Nat
  desc : Nat
  queue : List RowReq
  first : Nat
  qtoken : Nat
  qlimit : Nat
  qdesc : Nat
  running : List Batch
  deriving DecidableEq, Repr

def Batcher.reset : Batcher := ⟨false, 0, 0x400, 0, [], 0, 0, 0, 0, []⟩

/-! ## Streams and transfers (08_streams_tokens_ordering.md) -/

/-- States of a stream engine, in the coding of `CL_STSTAT`. -/
inductive EngSt where
  | stopped | running | waiting | ending | faulted
  deriving DecidableEq, Repr

/-- States of a half: inbound free, closed (writes still landing) or full; outbound owned by the
timetable or queued for draining (R185, R186). -/
inductive HalfSt where
  | free | closed | full | owned | queued
  deriving DecidableEq, Repr

/-- Bytes on their way: `far` is the device address, `near` the local store address, `buf` the data that
has left its source and not reached its destination, `got` bytes taken from the source, `put` bytes
delivered; `half` is the half an `S.GET` fills; `jr` says that its deck writes are journaled (R310). -/
structure Job where
  out : Bool
  far : Nat
  near : Nat
  len : Nat
  got : Nat
  put : Nat
  buf : List Byte
  half : Bool
  jr : Bool
  deriving DecidableEq, Repr

/-- A loop of a stream program: first instruction, one past the last, turns left after this one. -/
structure LoopFrame where
  first : Nat
  stop : Nat
  left : Nat
  deriving DecidableEq, Repr

/-- One post of a stream program waiting for the writes it covers (R198). -/
structure StreamPost where
  scope : Scope
  name : Nat
  behind : Nat
  deriving DecidableEq, Repr

/-- A stream engine (R181, R185, R186). `from_` is the first ring cycle in which it may execute its next instruction
(R181, R182), `rel0` and `rel1` those from which it may touch each half (R189). -/
structure StreamEng where
  st : EngSt
  a : List (BitVec 64)
  par : BitVec 64
  pc : Nat
  loops : List LoopFrame
  dir : Dir
  half : Nat
  base : Nat
  sel : Bool
  pos : Nat
  touched : Bool
  h0 : HalfSt
  h1 : HalfSt
  owed : Bool
  jobs : List Job
  posts : List StreamPost
  store : Tab (List (BitVec 64))
  slot : Nat
  from_ : Nat
  rel0 : Nat
  rel1 : Nat
  deriving DecidableEq, Repr

def StreamEng.reset : StreamEng :=
  ⟨.stopped, List.replicate 8 0, 0, 0, [], .inbound, 1, 0, false, 0, false, .free, .free, false, [], [], [], 0, 0, 0, 0⟩

/-- Transfer operations (Table 7.6). -/
inductive Xop where
  | get | put | move
  deriving DecidableEq, Repr

/-- A transfer outstanding in the transfer engine (R191, R192). -/
structure Transfer where
  op : Xop
  job : Job
  scope : Scope
  name : Nat
  route : Nat
  deriving DecidableEq, Repr

/-- A transfer descriptor that has been read and not yet been checked (R191). -/
structure XSub where
  op : Xop
  desc : List Byte
  scope : Scope
  name : Nat
  jr : Bool
  deriving DecidableEq, Repr

/-- Random stream registers (R323, R334). -/
structure SrStream where
  seed : Nat
  id : Nat
  step : Nat
  draw : Nat
  cursor : Nat
  astep : Nat
  adraw : Nat
  acursor : Nat
  deriving DecidableEq, Repr

def SrStream.reset : SrStream := ⟨0, 0, 0, 0, 0, 0, 0, 0⟩

/-! ## Work in flight -/

/-- Local store bytes to be written under a mask: address, value, mask. -/
abbrev LsBytes := List (Nat × Byte × Byte)

/-- What a load does with the bytes it reads: register, bit position and width of each element. -/
structure LdElt where
  off : Nat
  reg : Nat
  lo : Nat
  width : Nat
  deriving DecidableEq, Repr

/-- A read-out of accumulator entries (R125, R86): mode, word address and CLR; `elts` the active output
positions. -/
structure ReadOut where
  mode : Mode
  word : Nat
  clr : Bool
  elts : List Nat
  fmt : Fmt
  rm : Rm
  sat : Bool
  pair : Bool
  bout : Nat
  draws : List Nat
  deriving DecidableEq, Repr

/-- Things that come about in a later ring cycle than the one their instruction issued in. -/
inductive Act where
  /-- a write of a cluster register takes effect (R159) -/
  | swrs (off : Nat) (v : BitVec 32) (bidx : Nat)
  /-- a result lands in a sequencer register -/
  | sreg (r : Nat) (v : BitVec 64)
  /-- a result lands in the masked bits of a vector register -/
  | vreg (r : Nat) (mask v : BitVec 128)
  /-- a result lands in the masked bits of a mask register -/
  | mreg (r : Nat) (mask v : BitVec 16)
  /-- VL takes a value (R108) -/
  | vl (n : Nat)
  /-- a vector instruction's flags in its result cycle (R127) -/
  | vfl (f : Fl)
  /-- the batcher's limit runs out (R92) -/
  | bLimit (first : Nat)
  /-- a batch is triggered (R93) -/
  | bTrigger
  | bSwap
  | bMmul (ptr : BitVec 64) (word : Nat)
  | bStop
  /-- a batch's token is posted (R93) -/
  | bDone (t : Nat)
  /-- `SLD` reads the local store (R241) -/
  | sld (r addr : Nat)
  /-- a chunk of `VLD` or `VLDn` reads the local store; its elements land `lat` ring cycles later -/
  | vld (addr len lat : Nat) (elts : List LdElt)
  /-- a fixed-latency write (R241), which readers see after ring cycle `vis` (R124, R86) -/
  | lsw (vis : Nat) (l : LsBytes)
  /-- `MLDW` reads its descriptor (R82) -/
  | tile (addr : Nat)
  /-- `MLDW` reads the weight row of a reduction position -/
  | tileRow (p : Nat)
  /-- the last load cycle of `MLDW` (R81) -/
  | tileDone
  /-- `MMUL` reads its activation vector, to join `lat` ring cycles later -/
  | mread (bank : Bank) (sgna ovw : Bool) (ptr : BitVec 64) (word lat : Nat)
  /-- an output vector joins the accumulator file (R84) -/
  | join (mode : Mode) (word : Nat) (ovw : Bool) (sums : List Sum) (f : Fl)
  /-- `MWR` reads its entries (R86) -/
  | mwr (r : ReadOut) (edest sdest : Nat)
  /-- `VACC.RD` reads its entries (R126); the result lands `lat` ring cycles later -/
  | vacc (r : ReadOut) (dst lat : Nat)
  /-- the transfer engine reads a descriptor (R191) -/
  | xfer (op : Xop) (addr : Nat) (scope : Scope) (name : Nat) (jr : Bool)
  /-- the Trestle request descriptor is copied (R217) -/
  | trsub (addr bidx : Nat)
  /-- a cluster-scope post of the token unit waits for the writes it covers (R198) -/
  | post (name count : Nat)
  /-- a cluster-scope post of a stream engine or the transfer engine is applied (R194) -/
  | add (name src : Nat)
  /-- `STHALT` stops a stream engine (R187) -/
  | sthalt (eng : Nat)
  deriving DecidableEq, Repr

/-- Work due in a ring cycle. Within one ring cycle register results come first, those of the sequencer
before those of the vector pipes, each in issue order and then slot order (R112, R157, R238). -/
structure Due where
  at_ : Nat
  issued : Nat
  slot : Nat
  act : Act
  deriving DecidableEq, Repr

/-- Causes by which a step is faulted. Program causes are handled by R179; the others are hardware. -/
inductive Cause where
  | program (reg : Nat)
  | colchk (col : Nat)
  | lsMem (line : Nat)
  | streamMem (addr : Nat)
  | trestleMem (addr : Nat)
  /-- a cluster that failed the self-test of its ring's wake (R326) -/
  | wakeTest (slot : Nat)
  deriving DecidableEq, Repr

def Cause.isProgram : Cause → Bool
  | .program _ => true
  | _ => false

/-! ## A cluster -/

/-- Registers of the vector engine and the sequencer (R101, Table 1.6). -/
structure Regs where
  s : Vector (BitVec 64) 32
  v : Vector (BitVec 128) 32
  m : Vector (BitVec 16) 8
  vl : Nat
  deriving DecidableEq, Repr

def Regs.reset : Regs := ⟨.replicate 32 0, .replicate 32 0, .replicate 8 0, 0⟩

/-- Vector engine status: ring cycles until which the pipes VA, VB, VC and LS are busy (R113), the first ring cycle in which
the residual kernel may issue again into VA and VB (R224), fault bits with the first fault's pipe, busy count. -/
structure VecSt where
  va : Nat
  vb : Nat
  vc : Nat
  ls : Nat
  ka : Nat
  kb : Nat
  fault : BitVec 4
  pipe : Nat
  busy : Nat
  busyTo : Nat
  deriving DecidableEq, Repr

def VecSt.reset : VecSt := ⟨0, 0, 0, 0, 0, 0, 0, 0, 0, 0⟩

/-- What the free requesters do in a ring cycle (R243): the cycle, the banks they have used in it with the line,
those served in it, whether one has waited in it, the requesters waiting by bank, and per bank the place in the round of the
one served last, from 1. -/
structure FreeUse where
  cycle : Nat
  lines : Tab Nat
  served : List Client
  waited : Bool
  queue : List (Nat × Client)
  last : Tab Nat
  deriving DecidableEq, Repr

/-- The local store (R238 to R245): bytes, written bits, erroneous bytes that a line holds, lines whose storage is defective;
`hidden` holds the former value of bytes just written with the last ring cycle whose reads still receive it, `claim` the
lines that fixed-latency accesses have claimed in a ring cycle; `banked` says that BANKNO holds a fault of since all cause
bits were last clear. -/
structure LStore where
  bytes : Tab Byte
  hidden : Tab (Byte × Nat)
  written : Tab Bool
  upset : Tab Nat
  defect : Tab Bool
  claim : Nat × List Nat
  fault : BitVec 2
  bankno : Nat
  banked : Bool
  faddr : Nat
  cerr : Nat
  wait : Nat
  use : FreeUse
  deriving DecidableEq, Repr

def LStore.reset : LStore := ⟨[], [], [], [], [], (0, []), 0, 0, false, 0, 0, 0, ⟨0, [], [], false, [], []⟩⟩

/-- Stream, transfer and token faults (R205); `kept` says that ADDR holds an address of since all cause bits were last
clear. -/
structure StFault where
  bits : BitVec 6
  src : Nat
  addr : Nat
  kept : Bool
  deriving DecidableEq, Repr

/-- A cluster: one logical slot of a ring. `fresh` says that it has raised a fault which no status block has recorded yet
(R23), and `posted` lists the posts to its counters, name and count, that the units above have not yet taken (R22). -/
structure Cluster where
  r : Regs
  fpctrl : Nat
  vflags : Fl
  mflags : Fl
  vec : VecSt
  mx : Matrix
  bat : Batcher
  acc : Tab Nat
  ls : LStore
  eng : List StreamEng
  xfers : List (Option Transfer)
  xq : List XSub
  stf : StFault
  tok : Tab Nat
  sr : List SrStream
  midx : List Nat
  mflat : Nat
  agenda : List Due
  subs : List (Nat × List Byte)
  optw : Option Bool
  flt : List Cause
  fresh : Bool
  posted : List (Nat × Nat)
  deriving DecidableEq, Repr

def Cluster.reset : Cluster :=
  { r := .reset, fpctrl := 0, vflags := 0, mflags := 0, vec := .reset, mx := .reset, bat := .reset,
    acc := [], ls := .reset, eng := List.replicate 4 .reset, xfers := List.replicate 16 none, xq := [], stf := ⟨0, 0, 0, false⟩, tok := [],
    sr := List.replicate 8 .reset, midx := [0, 0, 0, 0], mflat := 0, agenda := [], subs := [],
    optw := none, flt := [], fresh := false, posted := [] }

/-! ## A ring -/

/-- Hold conditions (Table 7.7) and the start hold (R171). -/
inductive HoldKind where
  | twait (scope : Scope) (name count : Nat)
  | swait (mask : BitVec 4)
  | leg (target : Nat)
  | fin
  | start
  deriving DecidableEq, Repr

/-- A hold the ring is at: its condition, the ring cycle in which it was reached, and whether its limit has run out. -/
structure Hold where
  kind : HoldKind
  since : Nat
  expired : Bool
  deriving DecidableEq, Repr

/-- Run states of a ring. `hold` waits at a hold bundle or at the start hold. -/
inductive RunSt where
  | halted | issuing | coasting | hold
  deriving DecidableEq, Repr

/-- One buffer of the timetable store (R166): the leg it holds or is staging, whether it is whole, and the bundles
staging has copied into it. -/
structure LegBuf where
  leg : Nat
  whole : Bool
  bundles : List (BitVec 512)
  deriving DecidableEq, Repr

/-- A post at ring scope or above waiting for its fence (R198). `src` is the source of the post in the coding of
`CL_STFAULT`.SRC, `slot` the logical slot that records its overflow (R196), `fenced` whether it covers the ring's
fixed-latency writes. -/
structure RingPost where
  scope : Scope
  name : Nat
  count : Nat
  issued : Nat
  src : Nat
  slot : Nat
  fenced : Bool
  deriving DecidableEq, Repr

/-- A held Trestle request (R217): its descriptor, the ring cycle of its submission. -/
structure TrReq where
  desc : List Byte
  issued : Nat
  jr : Bool
  deriving DecidableEq, Repr

/-- A line that a request has to write: the place of its write among the request's, logical slot, local store address, bytes. -/
structure TrLine where
  ord : Nat
  slot : Nat
  addr : Nat
  bytes : List Byte
  deriving DecidableEq, Repr

/-- The running request: its descriptor and start cycle; `cut` the correction solves completed when its
deadline stopped it; `reject` the status of a failed start check; `issued` the ring cycle of its submission, up to which
fixed-latency writes must have landed before it reads (R217); `heads` the lines of its stripes that checks 5 and 6 have still to
read and `todo` those it reads after that, as logical slot and line (R220, R243); `unread` says that checks 5 and 6 are still to
be made; `lines` those it has to write; `out` its status code and status word once its arithmetic is done; `failed` says that an
access has failed (R235). -/
structure TrRun where
  desc : List Byte
  start : Nat
  jr : Bool
  cut : Option Nat
  reject : Option Nat
  issued : Nat
  heads : List (Nat × Nat)
  todo : List (Nat × Nat)
  unread : Bool
  lines : List TrLine
  out : Option (Nat × List Byte)
  failed : Bool
  deriving DecidableEq, Repr

/-- A ring's Trestle engine (R206, R237); `marked` says that BIDX holds a fault of since all cause bits were last
clear, `freeAt` is the ring cycle in which its last request left or its schedules came (R219, R229). -/
structure Trestle where
  queue : List TrReq
  run : Option TrRun
  store : Tab (List Byte)
  image : Nat
  fault : BitVec 3
  bidx : Nat
  marked : Bool
  faddr : Nat
  lastSched : Nat
  lastOp : Nat
  lastCode : Nat
  busy : Nat
  steal : Nat
  freeAt : Nat
  deriving DecidableEq, Repr

def Trestle.reset : Trestle := ⟨[], none, [], 0, 0, 0, false, 0, 0, 0, 0, 0, 0, 0⟩

/-- The timetable side of a ring controller. `at_` is the ring cycle of the bundle at `bidx` and `used` lists the slots of
it that have issued (R153). -/
structure RingTt where
  run : RunSt
  hold : Option Hold
  next : Nat
  nextCycle : Nat
  bidx : Nat
  at_ : Option Nat
  used : List Nat
  coastEnd : Nat
  fault : BitVec 4
  fslot : Nat
  fbidx : Nat
  limit : Nat
  holdcnt : Nat
  buf0 : LegBuf
  buf1 : LegBuf
  cur : Bool
  staging : Bool
  ended : Bool
  report : Bool
  c77 : Bool
  deriving DecidableEq, Repr

def RingTt.reset : RingTt :=
  { run := .halted, hold := none, next := 0, nextCycle := 0, bidx := 0, at_ := none,
    used := [], coastEnd := 0, fault := 0, fslot := 0, fbidx := 0, limit := 0x23C34600, holdcnt := 0,
    buf0 := ⟨0, false, []⟩, buf1 := ⟨0, false, []⟩, cur := false, staging := false, ended := false, report := false, c77 := false }

/-- The status block of a unit above the cluster (R22): sticky flags by their register's offset (those of the Trestle block
from 0x10000 on), the first faulting member (R23), and the ring and ring cycle in which that was recorded. -/
structure UnitStat where
  flags : Tab Nat
  first : Option Nat
  stamp : Option (Nat × Nat)
  deriving DecidableEq, Repr

def UnitStat.reset : UnitStat := ⟨[], none, none⟩

/-- A ring: 16 active clusters by logical slot, the controller, the Trestle engine. `wakes` counts power-ups
(the model's own count, the key of free values); `now` is the ring cycle since power-up; `worked` counts the ring cycles of
R374 that the span has not yet taken; `flt` holds the ring's own unreported causes with the logical slot of each; `unit` is
its status block and `news` the ring cycles in which clusters have faulted, with their slots, that the units above have not
yet taken (R23), `fresh` that the ring has raised a cause of its own which no status block has recorded, and `posted` lists the posts to
its counters that the units above have not yet taken (R22); `late` lists the posts that it has applied to shared counters in a
ring cycle, which holds see from the next one on (R194); `gone` names the shared counters that have served another ring in a
ring cycle of this one (R195); ring cycles below `over` are at their end: all their accesses, joins and posts have been made. -/
structure Ring where
  awake : Bool
  wakes : Nat
  now : Nat
  cl : List Cluster
  tt : RingTt
  tok : Tab Nat
  posts : List RingPost
  optph : Bool
  tr : Trestle
  flt : List (Nat × Cause)
  worked : Nat
  unit : UnitStat
  news : List (Nat × List Nat)
  late : Nat × List (Scope × Nat × Nat)
  gone : Nat × List (Scope × Nat)
  fresh : Bool
  posted : List (Nat × Nat)
  ended : Nat
  deriving DecidableEq, Repr

def Ring.reset : Ring :=
  { awake := false, wakes := 0, now := 0, cl := List.replicate 16 .reset, tt := .reset, tok := [],
    posts := [], optph := false, tr := .reset, flt := [], worked := 0, unit := .reset, news := [], late := (0, []), gone := (0, []),
    fresh := false, posted := [], ended := 0 }

end Sys2Proof.Machine
end

