-- ==== Sys2Proof/Machine/LocalStore.lean ====
section
/-! DEFINITION. The local store of a cluster (R238 to R245): lines, banks, written bits, the check code's
outcomes, and the accumulator file's words (R63, R85). -/

namespace Sys2Proof.Machine

/-- Byte addresses of a local store, 2 MiB (R238). -/
def lsSize : Nat := 0x200000

/-- Line of a byte address: bits [20:6]. -/
def lineOf (a : Nat) : Nat := bits a 6 15

/-- Bank of a line: address bits [9:6]. -/
def bankOf (line : Nat) : Nat := line % 16

/-- The lines that `len` bytes from an address touch. -/
def linesOf (a len : Nat) : List Nat :=
  if len = 0 then []
  else (List.range ((a % 64 + len + 63) / 64)).map (fun k => (a / 64 + k) % 32768)

/-- Where and when an access is made, and the banks that make none in this ring cycle (R242). -/
structure LsCtx where
  ring : Nat
  wake : Nat
  cycle : Nat
  slot : Nat
  bad : List Nat
  deriving DecidableEq, Repr

/-- R250 for a stored line; a line whose written bit is clear is not decoded (R240). -/
def LStore.verdict (ls : LStore) (line : Nat) : RsVerdict :=
  if Tab.get false ls.written line then rsVerdict (Tab.get 0 ls.upset line) else .clean

/-- Key of the open outcomes of a read of a line. -/
def LsCtx.key (k : LsCtx) (line : Nat) : List Nat := [k.ring, k.wake, k.cycle, k.slot, line]

/-- Whether a read of the line is uncorrectable (R244, R250). -/
def LStore.lost (ls : LStore) (k : LsCtx) (line : Nat) : Bool :=
  match ls.verdict line with
  | .clean | .corrected => false
  | .uncorrectable => true
  | .beyond => Config.beyondReported (k.key line)

/-- The byte that ring cycle `t` reads, its line free of errors: what it was before a write that is not yet to be seen
(R124, R238). -/
def LStore.raw (ls : LStore) (t a : Nat) : Byte :=
  match Tab.find ls.hidden a with
  | some (old, vis) => if t ≤ vis then old else Tab.get 0 ls.bytes a
  | none => Tab.get 0 ls.bytes a

/-- The byte a reader receives (R240, R242, R244, R250). -/
def LStore.byte (ls : LStore) (k : LsCtx) (a : Nat) : Byte :=
  let a := a % lsSize
  let l := lineOf a
  if k.bad.contains (bankOf l) then Config.conflictByte k.ring k.wake k.cycle k.slot a
  else if ls.lost k l then 0
  else match ls.verdict l with
    | .beyond => Config.beyondByte (k.key l) (a % 64)
    | _ => ls.raw k.cycle a

def LStore.read (ls : LStore) (k : LsCtx) (a n : Nat) : List Byte :=
  (List.range n).map (fun i => ls.byte k (a + i))

/-- Set MEMERR for a line, recording the first since the bit was clear (R245). -/
def LStore.memerr (ls : LStore) (line : Nat) : LStore :=
  { ls with
    fault := ls.fault ||| 2
    faddr := if bit ls.fault.toNat 1 then ls.faddr else line }

/-- R244: what reading lines does to the registers, and the faults it raises. -/
def LStore.note (k : LsCtx) : List Nat → LStore → LStore × List Cause
  | [], ls => (ls, [])
  | l :: rest, ls =>
    if k.bad.contains (bankOf l) then LStore.note k rest ls
    else if ls.lost k l then
      let r := LStore.note k rest (ls.memerr l)
      (r.1, .lsMem l :: r.2)
    else match ls.verdict l with
      | .clean => LStore.note k rest ls
      | _ => LStore.note k rest { ls with cerr := satInc 32 ls.cerr }

/-- The 64 bytes of a line at which a store supplies fewer than all bytes and the line is lost: zeros, or the
bytes of another codeword (R244, R250). Defective storage errs again (R244). -/
def LStore.settleLine (ls : LStore) (k : LsCtx) (l : Nat) (whole : Bool) : LStore × List Cause :=
  let clean : LStore := if Tab.get false ls.defect l then ls else { ls with upset := Tab.del l ls.upset }
  if whole then (clean, [])
  else if ls.lost k l then
    ({ clean.memerr l with bytes := Tab.clear ls.bytes (64 * l) 64 }, [.lsMem l])
  else match ls.verdict l with
    | .beyond =>
      ({ clean with bytes :=
          Tab.setRun 0 ls.bytes (64 * l) ((List.range 64).map (Config.beyondByte (k.key l))) }, [])
    | _ => (clean, [])

/-- Merge bytes under masks into the store. -/
def putBytes (m : Tab Byte) : LsBytes → Tab Byte
  | [] => m
  | (a, v, mask) :: rest =>
    let a := a % lsSize
    let old := Tab.get 0 m a
    putBytes (Tab.set 0 m a ((old &&& ~~~mask) ||| (v &&& mask))) rest

def dedup (l : List Nat) : List Nat := l.foldr setIns []

/-- The bytes that a write changes, with what ring cycle `t` still reads of them, up to ring cycle `vis` (R124, R238). -/
def LStore.hide (ls : LStore) (t vis : Nat) (l : LsBytes) : Tab (Byte × Nat) :=
  l.foldl (fun m p => Tab.ins (p.1 % lsSize) (ls.raw t (p.1 % lsSize), max t vis) m)
    (ls.hidden.filter (fun e => decide (t ≤ e.2.2)))

/-- R238, R240, R244: a write of bytes, to be read after ring cycle `vis`; banks in conflict take none. -/
def LStore.write (ls : LStore) (k : LsCtx) (vis : Nat) (l : LsBytes) : LStore × List Cause :=
  let l := l.filter (fun p => !k.bad.contains (bankOf (lineOf (p.1 % lsSize))))
  let lines := dedup (l.map (fun p => lineOf (p.1 % lsSize)))
  let whole (n : Nat) : Bool :=
    decide (64 ≤ (l.filter (fun p => lineOf (p.1 % lsSize) == n && p.2.2 == 0xFF)).length)
  let r := lines.foldl (fun (a : LStore × List Cause) n =>
    let x := a.1.settleLine k n (whole n)
    ({ x.1 with written := Tab.ins n true x.1.written }, a.2 ++ x.2)) (ls, [])
  ({ r.1 with bytes := putBytes r.1.bytes l, hidden := ls.hide k.cycle vis l }, r.2)

/-- Element `i` of a packed vector at a local store address, `e` bits wide (R32): 4-bit elements take the
low nibble of a byte first. -/
def elemAt (rd : Nat → Byte) (a e i : Nat) : Nat :=
  if e = 4 then bits (rd (a + i / 2)).toNat (4 * (i % 2)) 4
  else leNat ((List.range (e / 8)).map (fun j => rd (a + i * (e / 8) + j)))

/-- The bytes that store element codes from an address (R32); a last half byte keeps its other half. -/
def packElems (a e : Nat) (codes : List (Nat × Nat)) : LsBytes :=
  codes.flatMap (fun p =>
    if e = 4 then
      if p.1 % 2 = 0 then [(a + p.1 / 2, BitVec.ofNat 8 (p.2 % 16), 0x0F)]
      else [(a + p.1 / 2, BitVec.ofNat 8 (16 * (p.2 % 16)), 0xF0)]
    else ((List.range (e / 8)).map (fun j =>
      (a + p.1 * (e / 8) + j, BitVec.ofNat 8 (p.2 >>> (8 * j)), 0xFF))))

/-- Bytes that `n` elements of `e` bits occupy. -/
def elemBytes (e n : Nat) : Nat := (e * n + 7) / 8

/-! ## The accumulator file (R63, R85) -/

/-- The first word of output position `j`: the word address aligned down, `j` entries on, modulo 65,536. -/
def accWord (m : Mode) (word j : Nat) : Nat :=
  let n := m.entryWords
  (word % 65536 / n * n + j * n) % 65536

/-- The bits of an entry, least significant word first. -/
def accRead (acc : Tab Nat) (m : Mode) (w : Nat) : Nat :=
  (List.range m.entryWords).foldl (fun x k => x + Tab.get 0 acc ((w + k) % 65536) * 2 ^ (64 * k)) 0

def accWrite (acc : Tab Nat) (m : Mode) (w x : Nat) : Tab Nat :=
  (List.range m.entryWords).foldl
    (fun t k => Tab.set 0 t ((w + k) % 65536) (bits x (64 * k) 64)) acc

/-- An entry as a sum; integer entries keep their 48-bit sum at exponent 0. -/
def Mode.entry (m : Mode) (x : Nat) : Sum :=
  if m.isInt then .fin (accIntOf x) 0 else accOf m.accw x

def Mode.entryBits (m : Mode) (a : Sum) : Nat :=
  if m.isInt then (match a with | .fin s _ => accIntBits s | _ => 0) else accBits m.accw a

/-- One join (R64, R66). -/
def Mode.join (m : Mode) (a g : Sum) : Sum × Fl :=
  if m.isInt then
    match a, g with
    | .fin x _, .fin y _ => let r := joinInt x y; (.fin r.1 0, r.2)
    | a, _ => (a, 0)
  else joinAcc m.accw a g

/-- R84, R64, R66: an output vector joins its entries. -/
def joinVector (m : Mode) (word : Nat) (ovw : Bool) (sums : List Sum) (acc : Tab Nat) : Tab Nat × Fl :=
  ((List.range sums.length).zip sums).foldl (fun (st : Tab Nat × Fl) p =>
    let w := accWord m word p.1
    let old := if ovw then Sum.zero else m.entry (accRead st.1 m w)
    let r := m.join old p.2
    (accWrite st.1 m w (m.entryBits r.1), st.2 ||| r.2)) (acc, 0)

/-- R68 to R74: read-out of the entries a `ReadOut` names: per active position its head code and, for a
pair, its tail code; the flags; the file with the entries cleared when asked. -/
def readOut (r : ReadOut) (acc : Tab Nat) : List (Nat × Nat × Nat) × Fl × Tab Nat :=
  r.elts.foldl (fun (st : List (Nat × Nat × Nat) × Fl × Tab Nat) j =>
    let w := accWord r.mode r.word j
    let a := r.mode.entry (accRead acc r.mode w)
    let out : Nat × Nat × Fl :=
      if r.pair then
        match r.fmt with
        | .flt F => readPair F r.sat r.bout a
        | .int _ _ => (0, 0, 0)
      else
        let x := readSingle r.fmt r.rm r.sat (r.draws.getD j 0) r.bout a
        (x.1, 0, x.2)
    (st.1 ++ [(j, out.1, out.2.1)], st.2.1 ||| out.2.2,
      if r.clr then accWrite st.2.2 r.mode w 0 else st.2.2)) ([], 0, acc)

end Sys2Proof.Machine
end

