-- ==== Sys2Proof/Machine/PartState.lean ====
section
/-! DEFINITION. The state of a partition: its image (06_structure_images.md), its step in progress and its
checkpoint (13_long_runs.md), its tenancy (14_secrecy.md), as plain data. -/

namespace Sys2Proof.Machine

/-- Partition states, in the coding of the status page (R130, Table 17.6). -/
inductive PState where
  | absent | empty | loading | ready | running | replan | teardown
  deriving DecidableEq, Repr

/-- A consist record (Table 6.6). -/
structure Consist where
  id : Nat
  kind : Nat
  top : Bool
  members : List Nat
  deriving DecidableEq, Repr

/-- A route record (R142). -/
structure Route where
  id : Nat
  src : Nat
  dst : Nat
  hops : List Nat
  deriving DecidableEq, Repr

/-- A timetable record (R143). -/
structure Timetable where
  target : Nat
  c77 : Bool
  entry : Nat
  bundles : List (BitVec 512)
  deriving DecidableEq, Repr

/-- A stream program record (Table 6.10). -/
structure StreamProg where
  target : Nat
  engine : Nat
  slot : Nat
  body : List (BitVec 64)
  deriving DecidableEq, Repr

/-- A Trestle schedule record (Table 6.11). -/
structure SchedRec where
  ring : Nat
  id : Nat
  fprint : Nat
  body : List Byte
  deriving DecidableEq, Repr

/-- A bucket entry (Table 12.2). -/
structure Bucket where
  len : Nat
  stok : Nat
  rtok : Nat
  srcoff : Nat
  dst : Nat
  deriving DecidableEq, Repr

/-- A collective group record (Table 12.1, R283, R300). -/
structure GroupRec where
  gid : Nat
  op : Nat
  dclass : Nat
  gsize : Nat
  mypos : Nat
  tagbase : Nat
  weight : Nat
  chunklog : Nat
  nreg : Nat
  tdone : Nat
  postn : Nat
  timeout : Nat
  stage : Nat
  lagaddr : Nat
  contrib : List Nat
  buckets : List Bucket
  nexthop : List Nat
  hosts : List (Nat × Nat)
  deriving DecidableEq, Repr

/-- An applied image (R134 to R150). `tables` holds the region table words of Table 6.7 by
span × 256 + entry. -/
structure Image where
  meas : List Byte
  signed : Bool
  classes : Nat
  consists : List Consist
  tables : Tab Nat
  routes : List Route
  tts : List Timetable
  progs : List StreamProg
  scheds : List SchedRec
  groups : List GroupRec
  deriving DecidableEq, Repr

/-- A tenant's composite image key (R360, R361). -/
structure TenantKey where
  key : List Byte
  idereq : Bool
  deriving DecidableEq, Repr

/-- A checkpoint destination (Table 13.1): TYPE, base or GID with position and ports, and its state in
DSTATE (0 pending, 1 acknowledged, 2 failed). -/
structure CkDest where
  buddy : Bool
  base : Nat
  gid : Nat
  pos : Nat
  port0 : Nat
  port1 : Nat
  state : Nat
  deriving DecidableEq, Repr

/-- A checkpoint or snapshot in capture or in its drain (R315 to R320). -/
structure Ckpt where
  serial : Nat
  snapshot : Bool
  manifest : Nat
  dests : List CkDest
  exts : List (Nat × Nat)
  record : List Byte
  stepno : Nat
  bytes : Nat
  staged : Bool
  deriving DecidableEq, Repr

/-- A step order in progress: its slot, its checkpoint descriptor, repeats so far (R309), the faults of this
attempt with the ring and logical slot they lie in, rings that have ended their part (R170), whether a halt
was accepted (R178), whether the commit point has passed (R307), groups that ended the last attempt with
DIGEST and those that ended the attempt before it so (R296), a status that ends repetition, and whether the
end leaves REPLAN; `pages` are the uncorrectable granules this attempt has met, `lastPages` those of all earlier ones (R257); `done` holds the code
of a step that has ended while a channel of one of its decks goes offline, and whether it leaves REPLAN (R261). -/
structure StepJob where
  fn : Nat
  slot : Nat
  ckpt : Nat
  repeats : Nat
  faulted : Bool
  prog : Bool
  faults : List (Nat × Nat × Cause)
  halting : Bool
  committed : Bool
  digests : List Nat
  lastDigests : List Nat
  oldDigests : List Nat
  endCode : Option Nat
  replan : Bool
  pages : List Nat
  lastPages : List Nat
  done : Option (Nat × Bool)
  deriving DecidableEq, Repr

/-- An image load in progress, after its range has been checked (R147). -/
structure LoadJob where
  fn : Nat
  slot : Nat
  addr : Nat
  len : Nat
  deriving DecidableEq, Repr

/-- A restore in progress (R321): what has been read of its source. -/
structure RestoreJob where
  fn : Nat
  slot : Nat
  src : RestoreSrc
  roff : Nat
  rstate : Nat
  deriving DecidableEq, Repr

/-- What a partition is doing. A teardown or the end of a tenancy waits for its rings (`off` false) and then for the
scrub (R133, R338); `slot` is the PF order that asked, `next` the VF bound after it. -/
inductive PJob where
  | idle
  | load (j : LoadJob)
  | restore (j : RestoreJob)
  | step (j : StepJob)
  | teardown (h : Mgmt) (off : Bool)
  | ending (slot : Option Nat) (next : Option Nat) (off : Bool)
  deriving DecidableEq, Repr

/-- The token port of a unit above the ring (R22): its counters by name, and by member × 256 + name what its members have posted
beyond it. -/
structure TokPort where
  tok : Tab Nat
  had : Tab Nat
  deriving DecidableEq, Repr

def TokPort.reset : TokPort := ⟨[], []⟩

/-- A partition identifier's state. `regions` are span × 256 + region, ascending; `came` is the state a
rejected load or restore returns to; `halts` the halt orders waiting for the step they halted; `opt` says that
the optimizer phase has begun, `optAt` the deck cycle of each span at that time, under 256 the ring that began it and under 257 its
ring cycle (R310); `ckpt` is a capture in its stop, `drains` the checkpoints still draining, oldest
first; `handling` says that a fault reported outside a step is being handled (R308); `tenancy` counts tenancies; `units`
holds the status blocks of its consists and `faces` the token ports of its consists, by identifier, and of its spans, by 65,536 +
span (R22). -/
structure Partition where
  st : PState
  came : PState
  rings : List Nat
  regions : List Nat
  vf : Option Nat
  key : Option TenantKey
  image : Option Image
  stepno : Nat
  spanTok : Tab Nat
  devTok : Tab Nat
  job : PJob
  halts : List Origin
  opt : Bool
  optAt : Tab Nat
  ckpt : Option Ckpt
  drains : List Ckpt
  handling : Bool
  tenancy : Nat
  units : Tab UnitStat
  faces : Tab TokPort
  deriving DecidableEq, Repr

def Partition.reset : Partition :=
  { st := .absent, came := .absent, rings := [], regions := [], vf := none, key := none, image := none,
    stepno := 0, spanTok := [], devTok := [], job := .idle, halts := [], opt := false, optAt := [], ckpt := none, drains := []
    handling := false, tenancy := 0, units := [], faces := [] }

/-! ## Siding dies (R311 to R334) -/

/-- A journal entry: device address of a granule, partition, sequence number, the old value, or none when
the granule was poisoned (R311). -/
structure JEntry where
  addr : Nat
  part : Nat
  seq : Nat
  old : Option (List Byte)
  deriving DecidableEq, Repr

/-- A journaled write of one granule that waits until its old value is stored (R311); `count` bytes of its requester's
job. -/
structure JWait where
  entry : JEntry
  who : Client
  count : Nat
  data : List Byte
  mask : List Bool
  deriving DecidableEq, Repr

/-- A copy received from another device (R319): owner partition, sender's TAGBASE and position, serial, bytes
received so far, and whether its manifest has arrived. -/
structure Copy where
  part : Nat
  base : Nat
  pos : Nat
  ser : Nat
  data : Tab Byte
  len : Nat
  manifest : List Byte
  complete : Bool
  deriving DecidableEq, Repr

structure Siding where
  entries : List JEntry
  waiting : List JWait
  stored : Nat
  made : Nat
  jlim : Tab Nat
  jfull : List Nat
  copies : List Copy
  staged : Tab Nat
  deriving DecidableEq, Repr

def Siding.reset : Siding := ⟨[], [], 0, 0, [], [], [], []⟩

/-! ## Functions of the PCI Express endpoint (R411 to R419) -/

/-- One notification (R418). -/
structure Notice where
  seq : Nat
  kind : Nat
  arg : Nat
  deriving DecidableEq, Repr

/-- MSI-X state of a function: its table's address and data bytes, enable, function mask, vector masks and pending bits (R413,
R417). -/
structure Msix where
  table : Tab Byte
  enable : Bool
  fmask : Bool
  masked : List Nat
  pend : List Nat
  deriving DecidableEq, Repr

/-- A function: the bytes of its order book, its notification ring, MSI-X, the key set in use and the alternate one of its
selective IDE stream, and of the link stream that function 0 keys, its SPDM session (R346, R364), the TLPs discarded outside the stream (R365), its power state (R411), and its AER
uncorrectable error status (R420). -/
structure Fn where
  book : Tab Byte
  notices : List Notice
  prod : Nat
  msix : Msix
  ideKeys : List Byte
  ideAlt : Option (List Byte)
  ideActive : Bool
  linkKeys : List Byte
  linkAlt : Option (List Byte)
  linkActive : Bool
  spdm : Bool
  ideDrops : Nat
  d3hot : Bool
  aer : Nat
  deriving DecidableEq, Repr

/-- What keeps a vector's message pending: its own mask, the function's, or D3hot, in which a function sends nothing (PRESUMED, log
entry 89). -/
def Fn.mutes (x : Fn) (v : Nat) : Bool := x.d3hot || x.msix.fmask || x.msix.masked.contains v

def Fn.reset : Fn :=
  { book := [], notices := [], prod := 0, msix := ⟨[], true, false, [0, 1, 2, 3], []⟩, ideKeys := [], ideAlt := none
    ideActive := false, linkKeys := [], linkAlt := none, linkActive := false, spdm := false, ideDrops := 0, d3hot := false, aer := 0 }

/-- How a TLP travels (R364). -/
inductive Via where
  | selective | link | clear
  deriving DecidableEq, Repr

/-! ## Outputs -/

/-- What the device sends to the outside, in order: the model's own record. -/
inductive Output where
  | msix (fn vec : Nat) (via : Via)
  | unsupported (fn addr : Nat) (via : Via)
  | data (fn addr : Nat) (bytes : List Byte) (via : Via)
  | retry (fn : Nat)
  | reply (sess num seq status : Nat) (data : List Nat) (tag : List Byte)
  | ibi (byte : Byte)
  | handshake (port : Nat) (half : Bool) (bytes : List Byte)
  | narid (port : Nat) (half : Bool) (frame : List Byte)
  | flit (node edge : Nat) (wire : List Byte)
  | deliver (node : Nat) (f : Flit)
  | store (node addr mask : Nat) (f : Flit)
  | nak (port : Nat) (half : Bool) (seq : Nat)
  | host (fn addr : Nat) (bytes : List Byte) (via : Via)
  | workFrame (bytes : List Byte)
  | mailbox (bytes : List Byte)
  | meter (reply : List Nat)
  | event (ev : PEvent) (part : Nat) (rings : List Nat) (seq : Nat)
  | snapshot (sets : List (Nat × List Nat)) (seq : Nat)
  | spdm (fn : Nat) (chain : List Byte)
  | pin (name : Nat) (level : Bool)
  | tdo (bits : List Bool)
  | aer (fn : Nat)
  deriving DecidableEq, Repr

/-- An event log entry (R341). -/
structure LogEntry where
  tick : Nat
  part : Nat
  node : Nat
  reg : Nat
  cause : Nat
  deriving DecidableEq, Repr

end Sys2Proof.Machine
end

