-- ==== Sys2Proof/Machine/Consists.lean ====
section
/-! DEFINITION. The consists of an image: their clusters and rings, and which member of a consist holds a cluster (R22, R25,
R26, R139). -/

namespace Sys2Proof.Machine

def Image.consist (im : Image) (id : Nat) : Option Consist := im.consists.find? (fun c => c.id == id)

/-- The global numbers of a consist's clusters, by member order; `n` bounds the nesting. -/
def Image.clustersOf (im : Image) : Nat → Consist → List Nat
  | 0, _ => []
  | n + 1, c =>
    match c.kind with
    | 0 => c.members
    | 1 => c.members.flatMap (fun r => (List.range 16).map (fun k => r * 16 + k))
    | 2 => c.members.flatMap (fun s => (List.range 256).map (fun k => s * 256 + k))
    | _ => c.members.flatMap (fun id => match im.consist id with
        | some x => Image.clustersOf im n x
        | none => [])

/-- The rings that hold a consist's clusters. -/
def Image.consistRings (im : Image) (c : Consist) : List Nat :=
  dedup ((im.clustersOf 5 c).map (· / 16))

/-- The clusters of one member of a consist. -/
def Image.memberClusters (im : Image) (c : Consist) (m : Nat) : List Nat :=
  match c.kind with
  | 0 => [m]
  | 1 => (List.range 16).map (fun k => m * 16 + k)
  | 2 => (List.range 256).map (fun k => m * 256 + k)
  | _ => match im.consist m with
    | some x => im.clustersOf 5 x
    | none => []

/-- A consist and every consist that is a member of it, at any level; `n` bounds the nesting. -/
def Image.nested (im : Image) : Nat → Consist → List Nat
  | 0, _ => []
  | n + 1, c => c.id :: (if c.kind ≤ 2 then [] else c.members.flatMap (fun id => match im.consist id with
    | some x => Image.nested im n x
    | none => []))

/-- Rings whose status block lies in a consist: those that are members, and those of the spans that are. -/
def Image.ringsIn (im : Image) (ids : List Nat) : List Nat :=
  ids.flatMap (fun id => match im.consist id with
    | some c => match c.kind with
      | 1 => c.members
      | 2 => c.members.flatMap (fun k => (List.range 16).map (fun j => k * 16 + j))
      | _ => []
    | none => [])

/-- The member index, in a consist, of the member that holds a cluster. -/
def Image.memberOf (im : Image) (c : Consist) (g : Nat) : Option Nat :=
  c.members.findIdx? (fun m => (im.memberClusters c m).contains g)

/-- R22: where offset `x` of a unit's memory window lies: the members' windows stand one after another in member order, so
cluster x ÷ 2 MiB of the unit's clusters in that order, and the offset in its window. -/
def Image.unitWindow (im : Image) (c : Consist) (x : Nat) : Option (Nat × Nat) :=
  ((im.clustersOf 5 c)[x / lsSize]?).map (fun g => (g, x % lsSize))

end Sys2Proof.Machine
end

