-- ==== Sys2Proof/Machine/DevState.lean ====
section
/-! DEFINITION. The state outside rings and partitions: decks (10_memory.md), fabric edges and Narid
ports (11_fabric_and_narid.md), group slots (12_collectives.md), the interlocking (14_secrecy.md), the meter
(15_quinys_meter.md), power (16_power_clocks_reset.md) and the lands (18_package_and_test.md), as plain data. -/

namespace Sys2Proof.Machine

/-! ## Decks -/

/-- A channel controller: refreshes owed, the 64-byte granules in its write buffer with the deck cycle of
their entry (R251), whether a retraining trigger waits (R260), the deck cycle of the last access seen (R254), and the requests
that waited when it was last looked at, in the order of their arrival: the client, whether it writes, and the byte offset in the
deck (R251); `rows` holds, by bank, the row that is open and the deck cycle of its activation. -/
structure Chan where
  owed : Nat
  wbuf : List (Nat × Nat)
  trigger : Bool
  last : Nat
  queue : List (Client × Bool × Nat)
  rows : Tab (Nat × Nat)
  deriving DecidableEq, Repr

def Chan.reset : Chan := ⟨0, [], false, 0, [], []⟩

/-- States of a deck's power domain, in the coding of `SB_DECKST`. -/
inductive DeckPow where
  | off | selfRefresh | on | waking
  deriving DecidableEq, Repr

/-- A deck (R246 to R264). `owner` holds partition + 1 under each region (R248); `corr`, `remap` and `spares`
are keyed by row and bank; `poison` lists granules (byte offset / 64); `retired` holds the replacement page
+ 1 under a page; `scrub` the regions a scrub has still to finish, `scrubbed` the granules (byte offset / 64) it has written; `clean` lists the regions scrubbed since the deck's last
region was released (R262); `failing` is a channel that goes offline once the span's partitions have halted (R261); `now` is
the latest deck cycle seen. -/
structure Deck where
  pow : DeckPow
  owner : Tab Nat
  chans : Tab Chan
  corr : Tab Nat
  remap : Tab Nat
  spares : Tab Nat
  poison : List Nat
  retired : Tab Nat
  withdrawn : List Nat
  offline : Option Nat
  retraining : Option Nat
  scrub : List Nat
  scrubbed : List Nat
  clean : List Nat
  failing : Option Nat
  now : Nat
  temp : Nat
  hot : Bool
  cecnt : Nat
  uecnt : Nat
  retlog : Nat
  forced : Nat
  maxowed : Nat
  rtthr : Nat
  cethr : Nat
  busy : Nat
  deriving DecidableEq, Repr

def Deck.reset : Deck :=
  { pow := .off, owner := [], chans := [], corr := [], remap := [], spares := [], poison := [], retired := [],
    withdrawn := [], offline := none, retraining := none, scrub := [], scrubbed := [], clean := [], failing := none, now := 0,
    temp := 0, hot := false,
    cecnt := 0, uecnt := 0, retlog := 0, forced := 0, maxowed := 0, rtthr := 0x400, cethr := 0x10, busy := 0 }

/-! ## The fabric -/

/-- States of an edge, in the coding of `SP_EDGESTAT`. -/
inductive EdgeSt where
  | absent | active | retraining | failed
  deriving DecidableEq, Repr

/-- The sending side of an edge. `buf` is its replay buffer, the newest flit last, each with whether the far end has accepted it;
`fails` counts the failed arrivals in a row by the flit's number + 1, under 0 those of flits that it did not send (R268); `dups`
the numbers of flits sent again though they had been accepted, a flit's number being its payload and header as one; `corr` the corrected payloads its receiver counted; `held` the
flits in its virtual-channel buffers with the input they came by (7 for the die's own), which wait for a credit or a retraining
(R266, R273), and `turn` the input last served by virtual channel; `used` the credits in use by virtual channel, one for each
flit not yet accepted at the far end; `recent` the fabric cycles of its last replays. -/
structure Edge where
  st : EdgeSt
  lanes : Nat
  spares : Nat
  thresh : Nat
  replays : Nat
  flits : Nat
  buf : List (Flit × Bool)
  fails : Tab Nat
  dups : List Nat
  corr : Nat
  held : List (Nat × Flit)
  turn : Tab Nat
  used : Tab Nat
  recent : List Nat
  deriving DecidableEq, Repr

def Edge.reset : Edge := ⟨.absent, 0, 0, 0x40, 0, 0, [], [], [], 0, [], [], [], []⟩

/-- A write request that a die has delivered and whose write data flits are still to come: the address of the next, and the mask
bits of the bytes still to come, the next byte's lowest (R267, R269). -/
structure OpenWrite where
  die : Nat
  part : Nat
  srcd : Nat
  srcu : Nat
  tag : Nat
  addr : Nat
  mask : Nat
  left : Nat
  deriving DecidableEq, Repr

/-- A span's work count of a partition (R374). -/
structure Work where
  cum : Nat
  epoch : Nat
  deriving DecidableEq, Repr

/-- A span: its deck, its work counts by partition, the number of its next work frame and its status block (R22). -/
structure Span where
  deck : Deck
  work : Tab Work
  wseq : Nat
  unit : UnitStat
  deriving DecidableEq, Repr

def Span.reset : Span := ⟨.reset, [], 0, .reset⟩

/-! ## Narid ports -/

/-- Link states, in the coding of `JN_PSTAT`. -/
inductive LinkSt where
  | disabled | down | training | active | standby | sleep | retrain | failed
  deriving DecidableEq, Repr

/-- A flow a frame waits in (R302). -/
inductive Flow where
  | control | verdict | group (slot : Nat) | bulk
  deriving DecidableEq, Repr

/-- A frame of a replay buffer: its bytes on the link, and how often it has been replayed (R277). -/
structure Sent where
  f : NFrame
  wire : List Byte
  times : Nat
  deriving DecidableEq, Repr

/-- A link: a port's half, half 0 being the ×8 link. `fresh` says that it entered TRAINING from DOWN;
`keys` that its link keys are set, `key` being the one it sends under and `rkey` the one it receives under, `own` the device's
ephemeral share, and `sent` and `taken` the frames sent and accepted under them (R366); `buf` is the
replay buffer; `out` the frames waiting; `deficit` the deficits of the round robin by group slot, the bulk flow under 16;
`spent` the credits in use by frame class (R277). -/
structure Link where
  st : LinkSt
  fresh : Bool
  keys : Bool
  key : List Byte
  rkey : List Byte
  own : List Byte
  seq : Nat
  rxseq : Nat
  buf : List Sent
  out : List (Flow × NFrame)
  deficit : Tab Nat
  spent : Tab Nat
  sent : Nat
  taken : Nat
  badRetrains : Nat
  deriving DecidableEq, Repr

def Link.reset : Link := ⟨.disabled, false, false, [], [], [], 0, 65535, [], [], [], [], 0, 0, 0⟩

structure Port where
  berthr : Nat
  idle : Nat
  mode : Nat
  h0 : Link
  h1 : Link
  retrains : Nat
  tagdrop : Nat
  authfail : Nat
  uncorr : Nat
  pcorr : Nat
  pbytes : Nat
  deriving DecidableEq, Repr

def Port.reset : Port := ⟨0, 0x1000, 0, .reset, .reset, 0, 0, 0, 0, 0, 0⟩

/-! ## Collective groups -/

/-- A frame of a group slot that waits to cross the fabric from its home junction to its port: the next-hop entry, the flow it joins
there (R273, R287). -/
structure CollWait where
  slot : Nat
  hop : Nat
  flow : Flow
  frame : NFrame
  deriving DecidableEq, Repr

/-- An invocation of a bucket (R285 to R299). `live` says that it has started on this device; frames may come before.
Keys: chunk × 4096 + position. `last` is the latest fabric cycle seen; `got` counts contribution bytes, `full` holds the
fabric cycle + 1 at which a contribution became complete; `joined` lists the chunks the device's roots have formed;
`rgot` counts result bytes, `rfull` holds the fabric cycle + 1 of a complete result, `trailer` the received digest + 1;
`posted` counts the chunks posted per position; `checked` lists the chunks checked. `lag` holds the largest lag per
position and `lagsum` the sum of the lags measured. `verdicts` are those position 0 has collected; `owed` says that an
abandoned invocation before this one still awaits its group verdict (R285, R298); `normv` is the result of a global norm. -/
structure Invoc where
  live : Bool
  start : Nat
  last : Nat
  got : Tab Nat
  full : Tab Nat
  joined : List Nat
  rgot : Tab Nat
  rfull : Tab Nat
  trailer : Tab Nat
  posted : Tab Nat
  checked : List Nat
  flags : Fl
  digest : Bool
  dup : Bool
  abandon : Bool
  lag : Tab Nat
  lagsum : Tab Nat
  verdictSent : Bool
  verdicts : List (Nat × Verdict)
  owed : Bool
  normv : Option Nat
  deriving DecidableEq, Repr

def Invoc.new : Invoc :=
  { live := false, start := 0, last := 0, got := [], full := [], joined := [], rgot := [], rfull := [], trailer := [],
    posted := [], checked := [], flags := 0, digest := false, dup := false, abandon := false, lag := [],
    lagsum := [], verdictSent := false, verdicts := [], owed := false, normv := none }

/-- A group slot of the junction dies. -/
structure Group where
  part : Nat
  rcd : GroupRec
  epoch : Nat
  fault : BitVec 4
  fpos : Nat
  flags : Fl
  slowest : Nat
  slowLag : Nat
  done : Nat
  inv : Tab Invoc
  norm : Nat
  deriving DecidableEq, Repr

/-! ## The interlocking, sessions and firmware -/

/-- Stages of a management session (R368). -/
inductive Stage where
  | hello | certs | share | open_
  deriving DecidableEq, Repr

/-- A session: its stage, the last sequence numbers received and sent, its commands, the tick of the last, the far end's share and
the device's own, its key (R368), and the chunks of a firmware image (R421). -/
structure Session where
  stage : Stage
  rx : Option Nat
  tx : Nat
  count : Nat
  last : Nat
  share : Nat
  own : List Byte
  key : List Byte
  chunks : List (Nat × List Byte)
  deriving DecidableEq, Repr

/-- Boot states: not booted since the last reset, booted, or in recovery (R352). -/
inductive BootSt where
  | none_ | booted | recovery
  deriving DecidableEq, Repr

/-- The interlocking and what fuses, flash and its non-volatile memory hold. `lc` codes the lifecycle as
`IL_STAT`.LC, `bootlc` the one in which this boot derived the device secret; `ceiling` is the LMS reservation ceiling; `tree` says that the next bottom-level tree is still being
generated; `anchor` is the operator's certificate (R367); `bootq` is the one-time key of the boot certificate; `drbg` counts the values drawn since boot; `mac` is the address
of the management port in the fuses (R421). -/
structure Interlock where
  boot : BootSt
  locked : Bool
  attested : Bool
  anchor : Option (List Byte)
  lc : Nat
  bootlc : Nat
  floor : Nat
  vkrev : Nat
  svn : Nat
  slotB : Bool
  meas : Nat
  bootcnt : Nat
  q : Nat
  bootq : Nat
  ceiling : Nat
  tree : Bool
  drbg : Nat
  mac : Nat
  flashA : Option FwImage
  flashB : Option FwImage
  sessions : List (Option Session)
  deriving DecidableEq, Repr

def Interlock.reset : Interlock :=
  { boot := .none_, locked := false, attested := false, anchor := none, lc := 2, bootlc := 0, floor := 0, vkrev := 0,
    svn := 0, slotB := false, meas := 0, bootcnt := 0, q := 0, bootq := 0, ceiling := 0, tree := false, drbg := 0, mac := 0,
    flashA := none, flashB := none, sessions := [none, none, none, none] }

/-! ## Power -/

/-- A thermal step with the evaluations in a row below its limits (R404). -/
structure Therm where
  step : Nat
  cool : Nat
  deriving DecidableEq, Repr

/-- The power manager, domains and resets (R392 to R410). `opcap` and `bdcap` in W; `low` counts evaluations below 97 % of
the cap; `others` holds the temperatures of dies 16 to 22; `tick` is `SB_TICKS`; `ringStep` the step each ring has applied;
`ordered` is an operator's device reset whose 10 ms run; `tripped` says that the device is off after a thermal trip. -/
structure Power where
  step : Nat
  low : Nat
  capsat : Bool
  capsrc : Nat
  opcap : Nat
  bdcap : Nat
  power : Nat
  therm : List Therm
  thermFlag : Bool
  hotDie : Nat
  hotDeck : Nat
  others : List Nat
  ringidle : Nat
  deckoff : Bool
  nsleep : Bool
  cores : Bool
  unc : Bool
  sbOn : Bool
  ringStep : Tab Nat
  rstcause : Nat
  tick : Nat
  ordered : Bool
  tripped : Bool
  refLost : Bool
  deriving DecidableEq, Repr

def Power.reset : Power :=
  { step := 0, low := 0, capsat := false, capsrc := 0, opcap := 0xE10, bdcap := 0xE10, power := 0,
    therm := List.replicate 16 ⟨0, 0⟩, thermFlag := false, hotDie := 0, hotDeck := 0, others := List.replicate 7 0, ringidle := 0x64,
    deckoff := false, nsleep := true, cores := false, unc := false, sbOn := false,
    ringStep := [], rstcause := 1, tick := 0, ordered := false, tripped := false,
    refLost := false }

/-! ## The meter -/

/-- An open account (R378): its partition and the rings it held since it opened; cumulative energy in µJ, work and held
ring-milliseconds; its opening time. -/
structure Account where
  num : Nat
  part : Nat
  rings : List Nat
  energy : Nat
  work : Nat
  heldMs : Nat
  opened : Nat
  deriving DecidableEq, Repr

/-- The last good work frame of a span and partition: epoch and count, and the rise since the start of the
interval (R376). -/
structure WorkSeen where
  epoch : Nat
  cum : Nat
  rise : Nat
  deriving DecidableEq, Repr

/-- States of the meter, in the coding of `QM_STAT`. -/
inductive MeterSt where
  | starting | measure | sealbreak
  deriving DecidableEq, Repr

/-- The Quinys meter (R370 to R391). `raw` are the hardware accumulators, in units of 1/16,000,000 µJ;
`mark` the µJ at the start of the interval; `seen` is keyed by span × 256 + partition; `missed` counts the events whose number
has been passed over; `hour` counts the whole hours that have their record; `sets` the ring sets of existing partitions, as the
events gave them; `since` the flags of Table 15.4 that have held since the last record of each
type; `nonce` the nonce last issued, if unused; `next` the accepted values that wait
for the next boundary; `hss` the next one-time key and `hssCeil` the reservation's end; `saved` the accumulators, `copy` the registers and `copyRecs` the
records as the last boundary left them; `changed` the register values accepted in the present seal-break. -/
structure Meter where
  st : MeterSt
  ns : Bool
  breaks : Nat
  refused : Nat
  time : Nat
  recseq : Nat
  raw : List Nat
  mark : List Nat
  unalloc : Nat
  gain : List (BitVec 32)
  offs : List (BitVec 32)
  alpha : List Nat
  accounts : List Account
  nextAcct : Nat
  start : Nat
  hour : Nat
  seen : Tab WorkSeen
  silent : List Nat
  evseq : Nat
  missed : Nat
  sets : Tab (List Nat)
  clkfail : Bool
  evlate : Bool
  ovr : Bool
  since : Tab Nat
  fw : Nat
  nextFw : Option Nat
  next : List (Nat × BitVec 32)
  nonces : Nat
  nonce : Option Nat
  hss : Nat
  hssCeil : Nat
  records : Tab (List Byte)
  unsent : List Nat
  saved : List Nat
  copy : List (Nat × Nat)
  copyRecs : Tab (List Byte)
  changed : List (Nat × BitVec 32)
  deriving DecidableEq, Repr

def Meter.reset : Meter :=
  { st := .starting, ns := false, breaks := 0, refused := 0, time := 0, recseq := 0, raw := List.replicate 8 0,
    mark := List.replicate 8 0, unalloc := 0, gain := List.replicate 8 0x40000000, offs := List.replicate 8 0,
    alpha := List.replicate 8 0, accounts := [], nextAcct := 1, start := 0, hour := 0, seen := [], silent := [], evseq := 0,
    missed := 0, sets := [], clkfail := false, evlate := false, ovr := false, since := [],
    fw := 0, nextFw := none, next := [], nonces := 0, nonce := none, hss := 0, hssCeil := 0, records := [], unsent := [],
    saved := List.replicate 8 0, copy := [], copyRecs := [], changed := [] }

/-- The mirror the signal box keeps of the meter's mailbox output (R389), and the output on its way. -/
structure Mirror where
  regs : List (Nat × Nat)
  records : Tab (List Byte)
  wire : List (List (Nat × Nat) × List (Nat × List Byte))
  deriving DecidableEq, Repr

def Mirror.reset : Mirror := ⟨[], [], []⟩

/-! ## Lands and the test access port -/

/-- TAP instructions (Table 18.6). -/
inductive TapIr where
  | extest | idcode | samplePreload | clamp | highz | extestPulse | extestTrain | bypass
  deriving DecidableEq, Repr

/-- The test access port: the instruction, the boundary register's 631 cells with the values it last
captured, the instruction that holds the lands, if one does (R434), and the level of TRST_N, which while it is low keeps the port in
Test-Logic-Reset (R432). -/
structure Tap where
  ir : TapIr
  cells : List Bool
  captured : List Bool
  holding : Option TapIr
  trst : Bool
  deriving DecidableEq, Repr

def Tap.reset : Tap := ⟨.idcode, List.replicate 631 false, List.replicate 631 false, none, true⟩

/-- Levels of the control lands (Table 18.3), and the rails with an open sense pair (R406, R429). -/
structure Lands where
  perst : Bool
  pwrok : Bool
  sysRst : Bool
  thermtrip : Bool
  provEn : Bool
  sealN : Bool
  openSense : List Nat
  deriving DecidableEq, Repr

def Lands.reset : Lands := ⟨true, true, true, true, true, true, []⟩

/-! ## The I3C target and the signal box -/

/-- The I3C target: dynamic address, the status of the last BDCAP write, and the offset that the next read starts from
(R422). -/
structure I3c where
  addr : Option Nat
  status : Nat
  ptr : Nat
  deriving DecidableEq, Repr

/-- PCI Express configuration and the order-book scan (R412, R423). `clearing` says that VF Enable has been cleared and that the
VFs disappear once their tenancies have ended. -/
structure HostIf where
  numVfs : Nat
  vfEnable : Bool
  clearing : Bool
  scanFn : Nat
  discards : Nat
  deriving DecidableEq, Repr

/-- The repair record of the signal box beside the decks' (R98, R326, R328): physical column that was found faulty by physical cluster
(ring × 17 + slot), the slot each ring's spare serves, retired rings. -/
structure Repair where
  bypass : Tab Nat
  spare : Tab Nat
  failedSpares : List Nat
  retired : List Nat
  deriving DecidableEq, Repr

def Repair.reset : Repair := ⟨[], [], [], []⟩

end Sys2Proof.Machine
end

