-- ==== Sys2Proof/Machine/State.lean ====
section
/-! DEFINITION. The state of the device, the reasons a command can stop, and the state after reset. -/

namespace Sys2Proof.Machine

/-- Nothing raises a fault: the manual gives every command an effect, a rejection included, and an event
whose condition does not hold changes nothing (log entry 1). The type is empty. Safe. -/
inductive Fault where
  deriving DecidableEq, Repr

/-- Reasons a command is refused. -/
inductive Refusal where
  /-- A command whose meaning the model does not hold yet, by its mnemonic; raised by `exec` alone. Safe. -/
  | notModelled (mnemonic : String)
  deriving DecidableEq, Repr

/-- The device. Tables are keyed by: `rings` device ring index; `spans` span; `edges` die × 8 + the side a flit leaves by;
`ctlDrops` die; `mem` device address of a deck byte; `parts` partition identifier; `sidings` siding die; `ports` Narid port; `groups`
group slot; `fns` function; `srCopy` global cluster number. `opens` lists write requests with data still to come; `stalled` writes that
wait for a channel in retraining, oldest first, by device address (R260); `colls` frames that wait for an edge (R273). `evseq` counts the
meter event frames sent, `free` the free values drawn. -/
structure State where
  pending : List Instr
  rings : Tab Ring
  spans : Tab Span
  edges : Tab Edge
  ctlDrops : Tab Nat
  opens : List OpenWrite
  stalled : List (Nat × List Byte)
  colls : List CollWait
  mem : Tab Byte
  parts : Tab Partition
  sidings : Tab Siding
  ports : Tab Port
  groups : Tab Group
  bulkw : Nat
  fns : Tab Fn
  host : HostIf
  il : Interlock
  power : Power
  meter : Meter
  mirror : Mirror
  tap : Tap
  lands : Lands
  i3c : I3c
  repair : Repair
  srCopy : Tab (List SrStream)
  log : List LogEntry
  outbox : List Output
  evseq : Nat
  free : Nat
  deriving DecidableEq, Repr

/-- What a deck byte that nothing has written reads as: the boot scrub writes zero granules (R263, R363). -/
def deckFill : Byte := 0

/-- The deck memory is in its canonical form. -/
def State.memWf (s : State) : Bool := Tab.wf deckFill s.mem

/-- The device with its power-on reset released and its boot not yet begun: power-on values of every
register (R410 and each chapter's tables); what fuses, flash and the meter's memory hold is named in log
entries 3 to 6. -/
def State.reset : State :=
  { pending := [], rings := [], spans := [], edges := [], ctlDrops := [], opens := [], stalled := [], colls := [], mem := [],
    parts := [], sidings := [], ports := [], groups := [], bulkw := 4, fns := [], host := ⟨0, false, false, 0, 0⟩, il := .reset, power := .reset,
    meter := .reset, mirror := .reset, tap := .reset, lands := .reset, i3c := ⟨none, 0, 0⟩, repair := .reset,
    srCopy := [], log := [], outbox := [], evseq := 0, free := 0 }

end Sys2Proof.Machine
end

