-- ==== Sys2Proof/Machine/DeckBuf.lean ====
section
/-! DEFINITION. The map from deck addresses to channels and rows (R247, R258, R261), and a channel's write buffer (R251). -/

namespace Sys2Proof.Machine

/-! ## Address map (R247, R261) -/

/-- Channel and channel-local granule index of a byte offset within a span's deck. -/
def Deck.place (d : Deck) (a : Nat) : Nat × Nat :=
  match d.offline with
  | none => (bits a 8 6 ^^^ bits a 14 6 ^^^ bits a 20 6 ^^^ bits a 26 6, bits a 14 18)
  | some off =>
    let g := a / 256
    let k := g % 63
    (if k < off then k else k + 1, g / 63)

def Deck.channel (d : Deck) (a : Nat) : Nat := (d.place a).1

/-- Row index within the channel, bank, and row within the bank. -/
def rowIndex (n : Nat) : Nat := n / 8
def bankIndex (n : Nat) : Nat := bits (rowIndex n) 0 4 ^^^ bits (rowIndex n) 4 4
def rowInBank (n : Nat) : Nat := bits (rowIndex n) 4 11

/-- Byte within the row (R247). -/
def byteInRow (n a : Nat) : Nat := n % 8 * 256 + a % 256

def bankKey (ch bank : Nat) : Nat := ch * 16 + bank
def rowKey (ch bank row : Nat) : Nat := bankKey ch bank * 2048 + row

/-- The row that holds a byte offset. A retired page lies at its replacement page (R258); where the deck keeps those is not
given, so their rows are counted in a bank of their own, after those of the 64 channels (log entry 79). -/
def Deck.rowOf (d : Deck) (a : Nat) : Nat :=
  match Tab.find d.retired (a / 4096) with
  | some k => rowKey 64 0 k
  | none =>
    let p := d.place a
    rowKey p.1 (bankIndex p.2) (rowInBank p.2)

def Deck.chan (d : Deck) (ch : Nat) : Chan := Tab.get .reset d.chans ch
def Deck.setChan (d : Deck) (ch : Nat) (c : Chan) : Deck := { d with chans := Tab.ins ch c d.chans }

/-! ## The write buffer (R251) -/

/-- Whether the write buffer holds a granule. -/
def Deck.holds (d : Deck) (a : Nat) : Bool := (d.chan (d.channel a)).wbuf.any (fun p => p.1 == a / 64)

/-- Whether a granule can enter its channel's write buffer of 96 granules. -/
def Deck.room (d : Deck) (a : Nat) : Bool :=
  decide ((d.chan (d.channel a)).wbuf.length < 96) || d.holds a

/-- The buffer is drained in one run, each granule taking a deck cycle of the bus (`DK_BUSY`). DESIGN CHOICE (log entry 85): a run
of writes leaves no row open for reads. -/
def Deck.drain (d : Deck) (ch : Nat) : Deck :=
  let c := d.chan ch
  { d.setChan ch { c with wbuf := [], rows := [] } with busy := (d.busy + c.wbuf.length) % 2 ^ 64 }

/-- The deck has come to a deck cycle, and channel `ch` makes an access in it. -/
def Deck.touch (d : Deck) (ch cycle : Nat) : Deck :=
  let c := d.chan ch
  { d.setChan ch { c with last := max c.last cycle } with now := max d.now cycle }

/-- A read of the bank's row in a deck cycle: the row is open from then on, activated now unless it was open before. -/
def Deck.access (d : Deck) (a cycle : Nat) : Deck :=
  let ch := d.channel a
  let row := d.rowOf a
  let d := d.touch ch cycle
  let c := d.chan ch
  if (Tab.find c.rows (row / 2048)).any (fun x => x.1 == row) then d
  else d.setChan ch { c with rows := Tab.ins (row / 2048) (row, cycle) c.rows }

/-- Whether a read is ready in a deck cycle (R251, R252): the write buffer holds its granule, its row is open, or its bank may
activate a row, 40 deck cycles after it last did. -/
def Deck.ready (d : Deck) (a cycle : Nat) : Bool :=
  let row := d.rowOf a
  d.holds a || match Tab.find (d.chan (d.channel a)).rows (row / 2048) with
    | some x => x.1 == row || decide (x.2 + 40 ≤ cycle)
    | none => true

/-- An access of a granule at the deck cycle that the deck has come to; one in the write buffer is served from there. -/
def Deck.look (d : Deck) (a : Nat) : Deck := if d.holds a then d.touch (d.channel a) d.now else d.access a d.now

/-- A granule enters its channel's write buffer at a deck cycle; accesses to one granule keep their order. -/
def Deck.enter (d : Deck) (a cycle : Nat) : Deck :=
  let ch := d.channel a
  let c := d.chan ch
  if d.holds a then d else d.setChan ch { c with wbuf := c.wbuf ++ [(a / 64, cycle)] }

/-- A granule enters its channel's write buffer; where that is full it holds 4 KiB or more, so it is drained first (R251). -/
def Deck.letIn (d : Deck) (a cycle : Nat) : Deck := (if d.room a then d else d.drain (d.channel a)).enter a cycle

/-- The same at the deck cycle that the deck has come to, for an access that carries no cycle of its own (log entry 85). -/
def Deck.put (d : Deck) (a : Nat) : Deck := (d.touch (d.channel a) d.now).letIn a d.now

/-! ## Retraining (R260) -/

/-- Retraining starts: the channel drains its write buffer. -/
def Deck.retrain (d : Deck) (ch : Nat) : Deck :=
  let d := d.drain ch
  { d.setChan ch { d.chan ch with trigger := false } with retraining := some ch }

/-- A trigger of retraining. -/
def Deck.trigger (d : Deck) (ch : Nat) : Deck :=
  if d.pow ≠ .on ∨ d.offline = some ch then d
  else match d.retraining with
  | none => d.retrain ch
  | some k => if k = ch then d else d.setChan ch { d.chan ch with trigger := true }

/-- The retraining has ended; a waiting trigger starts the next. -/
def Deck.nextRetrain (d : Deck) : Deck :=
  let d := { d with retraining := none }
  match (List.range 64).find? (fun k => (d.chan k).trigger) with
  | some k => d.retrain k
  | none => d

/-- Regions of the deck: a 63-channel deck has 252 (R261). -/
def Deck.regions (d : Deck) : Nat := if d.offline.isSome then 252 else 256

end Sys2Proof.Machine
end

