-- ==== Sys2Proof/Machine/BundleForm.lean ====
section
/-! DEFINITION. Which bundles and stream programs an image may hold: the field checks of timetables, matrix and vector slots
and stream instructions (R44, R45, R69, R70, R74, R99, R103, R104, R106, R110, R114, R117 to R123, R153 to R168,
R182, R183). -/

namespace Sys2Proof.Machine

/-! ## Vector operands (R103, R104) -/

/-- Operand fields: a vector register, a sequencer register, a mask register. -/
def opVec (x : BitVec 6) : Bool := decide (x.toNat < 32)
def opScalar (x : BitVec 6) : Bool := decide (32 ≤ x.toNat)
def opMask (x : BitVec 6) : Bool := decide (x.toNat < 8)

/-- A run of `k` pairs within the file. -/
def opPairs (x : BitVec 6) (k : Nat) : Bool := opVec x && decide (x.toNat % 2 = 0) && decide (x.toNat + 2 * k ≤ 32)

/-- An operand of element width `w` under governing width `g`, as a destination; as a source. -/
def opDst (x : BitVec 6) (w g : Nat) : Bool := if w = g then opPairs x 1 else opVec x
def opSrc (x : BitVec 6) (w g : Nat) : Bool := opScalar x || opDst x w g

/-- Format codes of Table 5.4: floating, plain integer of 16 bits and more, block element. -/
def fmtF (c : Nat) : Bool := decide (c < 4)
def fmtI (c : Nat) : Bool := [0x6, 0x7, 0x8, 0x9, 0xE, 0xF].contains c
def fmtBlk (c : Nat) : Bool := [0x4, 0x5, 0xA, 0xB, 0xC, 0xD].contains c
def fmtW (c : Nat) : Nat := (Fmt.ofCode c).width

/-- Rounding field of an instruction whose destination has the given width (R44, R45). -/
def rmOk (rm w : Nat) : Bool := decide (rm ≠ 5) && decide (rm ≠ 6) && !(decide (rm = 4) && decide (16 < w))

/-- Pairings of `VWMUL` (R118). -/
def widens (sf df : Nat) : Bool :=
  [(0xA, 0x8), (0xB, 0x9), (0x8, 0x6), (0x9, 0x7), (0x6, 0xE), (0x7, 0xF), (0x2, 0x1), (0x3, 0x1), (0x1, 0x0)].contains (sf, df)

/-- Pairs that 32 elements of a format outside a block take (R120). -/
def blkPairs (c : Nat) : Nat := fmtW c / 8

/-- The slots of Table 5.1. -/
inductive VPipe where
  | fma | vc | ls
  deriving DecidableEq, Repr

/-- The pipe of an opcode of Table 5.6. -/
def vopPipe (op : Nat) : Option VPipe :=
  if 0x01 ≤ op ∧ op ≤ 0x0B then some .fma
  else if 0x20 ≤ op ∧ op ≤ 0x37 then some .vc
  else if 0x40 ≤ op ∧ op ≤ 0x47 then some .ls
  else none

/-- The width that R45 compares with 16: the element of DFMT; a mask register for the mask operations, a sequencer register
for `VMVSX` and `MPOP`. -/
def vdestWidth (op : Nat) (f : VSlot) : Nat :=
  if 0x32 ≤ op ∧ op ≤ 0x35 then 16
  else if op = 0x31 ∨ op = 0x36 then 64
  else fmtW f.dfmt.toNat

/-- Operands and formats of a vector instruction. DESIGN CHOICE (log entry 77): `VMIN`, `VMAX` and `VCMP`, to which Table 5.6
gives no format suffix, take the formats of `VADD`; a broadcast stands as the stored operand of `VST` and `VSTn` (R105). -/
def voperandsOk (op : Nat) (f : VSlot) : Bool :=
  let sf := f.sfmt.toNat
  let df := f.dfmt.toNat
  let same := decide (sf = df)
  let w := fmtW sf
  let g := max 16 w
  let d := opDst f.dst w g
  let a := opSrc f.src1 w g
  let b := opSrc f.src2 w g
  let c := opSrc f.src3 w g
  let g2 := max 16 (max w (fmtW df))
  let addr := opScalar f.src1 && opScalar f.src2
  let load (n : Nat) : Bool := same && opPairs f.dst n && addr
  let store (n : Nat) : Bool := same && decide (f.dst = 0) && (opScalar f.src3 || opPairs f.src3 n) && addr
  match op with
  | 0x01 | 0x02 | 0x03 => same && (fmtF sf || fmtI sf) && d && a && b
  | 0x04 | 0x05 | 0x06 => same && fmtF sf && d && a && b && c
  | 0x07 => same && fmtF sf && d && a && b
  | 0x08 => same && fmtF sf && d && a
  | 0x09 => widens sf df && opPairs f.dst 1 && opSrc f.src1 w (fmtW df) && opSrc f.src2 w (fmtW df)
  | 0x0A => decide (sf = 3) && decide (df = 1) && opPairs f.dst 1 && (opScalar f.src1 || opPairs f.src1 1) &&
      (opScalar f.src2 || opPairs f.src2 1)
  | 0x0B => (decide (sf = 0xA) || decide (sf = 0xB)) && decide (df = 6) && opPairs f.dst 1 &&
      (opScalar f.src1 || opPairs f.src1 1) && (opScalar f.src2 || opPairs f.src2 1)
  | 0x20 | 0x21 | 0x22 => same && d && a && b
  | 0x23 => same && d && a
  | 0x24 | 0x25 | 0x26 => same && fmtI sf && d && a && b
  | 0x27 | 0x28 => same && (fmtF sf || fmtI sf) && d && a && b
  | 0x29 => same && (fmtF sf || fmtI sf) && opMask f.dst && a && b && decide (f.src3.toNat % 8 ≠ 7)
  | 0x2A => same && d && a && b
  | 0x2B => !(decide (sf = 4) || decide (sf = 5) || decide (df = 4) || decide (df = 5)) &&
      opDst f.dst (fmtW df) g2 && opSrc f.src1 w g2
  | 0x2C => fmtF sf && fmtBlk df && (opScalar f.src1 || opPairs f.src1 (blkPairs sf)) &&
      (if fmtW df = 8 then opPairs f.dst 1 else opVec f.dst) && opScalar f.src2
  | 0x2D => fmtBlk sf && fmtF df && (opScalar f.src1 || (if w = 8 then opPairs f.src1 1 else opVec f.src1)) &&
      opPairs f.dst (blkPairs df) && opScalar f.src2
  | 0x2E | 0x2F => same && fmtF sf && decide (sf ≠ 0) && d && a && decide (f.rm = 0)
  | 0x30 => same && fmtF sf && d && a
  | 0x31 => same && opScalar f.dst && a
  | 0x32 | 0x33 | 0x34 => opMask f.dst && opMask f.src1 && opMask f.src2
  | 0x35 => opMask f.dst && opMask f.src1
  | 0x36 => opScalar f.dst && opMask f.src1
  | 0x37 => opDst f.dst (fmtW df) (max 16 (fmtW df)) && opScalar f.src1
  | 0x40 => same && d && addr
  | 0x41 => same && decide (f.dst = 0) && c && addr
  | 0x42 => load 2
  | 0x43 => load 3
  | 0x44 => load 4
  | 0x45 => store 2
  | 0x46 => store 3
  | 0x47 => store 4
  | _ => false

/-- Operands, formats and the rounding field of a vector instruction (R44, R45). -/
def vfieldsOk (op : Nat) (f : VSlot) : Bool := voperandsOk op f && rmOk f.rm.toNat (vdestWidth op f)

/-- The fields of a 48-bit slot (Table 5.3). -/
def vslotOf (x : Nat) : VSlot :=
  { sfmt := BitVec.ofNat 4 (bits x 36 4), dfmt := BitVec.ofNat 4 (bits x 32 4), dst := BitVec.ofNat 6 (bits x 26 6)
    src1 := BitVec.ofNat 6 (bits x 20 6), src2 := BitVec.ofNat 6 (bits x 14 6), src3 := BitVec.ofNat 6 (bits x 8 6)
    men := bit x 7, msk := BitVec.ofNat 3 (bits x 4 3), rm := BitVec.ofNat 3 (bits x 1 3), satb := bit x 0 }

/-- A vector slot of a pipe. -/
def vslotOk (p : VPipe) (x : Nat) : Bool :=
  let op := bits x 40 8
  decide (op = 0) || (decide (vopPipe op = some p) && vfieldsOk op (vslotOf x))

/-! ## The matrix slot (R99) -/

/-- `MWR` fields: mode, output, rounding, pair, scale. -/
def mwrOk (mode ofmt rm : Nat) (pair : Bool) (bout : Nat) : Bool :=
  match Mode.ofCode mode with
  | none => false
  | some m => decide (ofmt < 14) && readPermitted m ofmt pair && rmOk rm (fmtW ofmt) && decide (bout ≠ 0xFF) &&
      (!pair || decide (rm = 0))

/-- The MX slot. DESIGN CHOICE (log entry 87): `MWR`'s fields are not looked at where WOP names none. -/
def mxslotOk (x : Nat) : Bool :=
  decide (bits x 77 3 < 4) && !bit x 64 && !bit x 45 && decide (bits x 0 10 = 0) && decide (bits x 37 3 < 2) &&
    (decide (bits x 37 3 = 0) || mwrOk (bits x 28 4) (bits x 24 4) (bits x 21 3) (bit x 20) (bits x 10 8))

/-! ## Sequencer, stream, token and transfer slots (R156, R162 to R164) -/

def seqOpOk (op : Nat) : Bool :=
  decide (op ≤ 0x13) || (decide (0x20 ≤ op) && decide (op ≤ 0x24)) || (decide (0x30 ≤ op) && decide (op ≤ 0x32))

def seqBranch (op : Nat) : Bool := decide (0x20 ≤ op) && decide (op ≤ 0x24)

/-- The SEQ slot. DESIGN CHOICE (log entry 87): an `SLD` or `SST` whose ra is s0 has its alignment checked when it runs (R158),
not here (R32). -/
def seqslotOk (x : Nat) : Bool :=
  let op := bits x 56 8
  let imm := bits x 0 32
  seqOpOk op && decide (bits x 32 9 = 0) && (!seqBranch op || decide (imm < 8192)) &&
    (decide (op ≠ 0x30) || decide (imm % 4 ≠ 3))

def stslotOk (x : Nat) : Bool := decide (bits x 13 3 < 4) && decide (bits x 0 3 = 0)

def xfslotOk (x : Nat) : Bool := decide (bits x 61 3 < 4) && decide (bits x 0 46 = 0)

/-- The TOK slot of an ordinary bundle; of a hold bundle. -/
def tokOrdinary (x : Nat) : Bool :=
  decide (bits x 0 11 = 0) &&
    (decide (bits x 37 3 = 0) || (decide (bits x 37 3 = 1) && decide (bits x 11 16 ≠ 0)))

def tokHold (x : Nat) : Bool :=
  match bits x 37 3 with
  | 2 => decide (bits x 0 11 = 0) && decide (bits x 11 16 ≠ 0)
  | 3 => decide (bits x 33 4 ≠ 0) && decide (bits x 0 33 = 0)
  | 4 => decide (bits x 27 10 = 0) && decide (bits x 0 3 = 0)
  | 5 => decide (bits x 0 37 = 0)
  | _ => false

/-! ## Bundles (R153, R154, R165, R168) -/

def bKind (b : Nat) : Nat := bits b 510 2
def bSeq (b : Nat) : Nat := bits b 440 64
def bTok (b : Nat) : Nat := bits b 64 40

def ordinaryOk (b : Nat) : Bool :=
  decide (bits b 504 6 = 0) && seqslotOk (bSeq b) && mxslotOk (bits b 360 80) && vslotOk .fma (bits b 312 48) &&
    vslotOk .fma (bits b 264 48) && vslotOk .vc (bits b 216 48) && vslotOk .ls (bits b 168 48) &&
    stslotOk (bits b 152 16) && stslotOk (bits b 136 16) && stslotOk (bits b 120 16) && stslotOk (bits b 104 16) &&
    tokOrdinary (bTok b) && xfslotOk (bits b 0 64)

def bundleOk (b : Nat) : Bool :=
  match bKind b with
  | 0 => ordinaryOk b
  | 1 => decide (bits b 24 486 = 0) && decide (bits b 0 24 ≠ 0)
  | 2 => decide (bits b 104 406 = 0) && decide (bits b 0 64 = 0) && tokHold (bTok b)
  | _ => false

/-! ## A timetable as a whole (R167) -/

def isBr (b : Nat) : Bool := decide (bKind b = 0) && decide (bits (bSeq b) 56 8 = 0x20)
def isHold (b top : Nat) : Bool := decide (bKind b = 2) && decide (bits (bTok b) 37 3 = top)

/-- What R167 asks of the bundle at index `i` of `n`. -/
def legOk (n i b : Nat) : Bool :=
  let op := bits (bSeq b) 56 8
  let imm := bits (bSeq b) 0 32
  let ends := if i + 1 = n then isHold b 5 || isBr b
    else if i % 8192 = 8191 then isHold b 4 || isBr b
    else true
  ends && (decide (bKind b ≠ 0) ||
      ((decide (op ≠ 0x32) || decide (bits imm 0 11 < (n + 8191) / 8192)) &&
       (!seqBranch op || decide (i / 8192 * 8192 + imm < n)))) &&
    (!isHold b 4 || decide (bits (bTok b) 3 24 < n))

def bundlesOk (n : Nat) : Nat → List Nat → Bool
  | _, [] => true
  | i, b :: bs => bundleOk b && legOk n i b && bundlesOk n (i + 1) bs

/-- `STGO`s of a bundle: engine and program slot. -/
def bundleStgos (b : Nat) : List (Nat × Nat) :=
  if bKind b ≠ 0 then []
  else (List.range 4).filterMap (fun k =>
    let x := bits b (152 - 16 * k) 16
    if bits x 13 3 = 1 then some (k, bits x 8 5) else none)

/-! ## Stream programs (R182, R183) -/

/-- The fields of a stream instruction. -/
def sOp (x : Nat) : Nat := bits x 58 6
def sDa (x : Nat) : Nat := bits x 55 3
def sSa (x : Nat) : Nat := bits x 52 3
def sImm (x : Nat) : Nat := bits x 0 48

/-- LEN of `S.GET` and `S.PUT`. -/
def sLenOk (n : Nat) : Bool := decide (n % 8 = 0) && decide (8 ≤ n) && decide (n ≤ 1048576)

/-- Fields of one instruction. -/
def sInsOk (x : Nat) : Bool :=
  let op := sOp x
  let da := decide (sDa x = 0)
  let sa := decide (sSa x = 0)
  let imm := sImm x
  decide (bits x 48 4 = 0) &&
  match op with
  | 0x01 => da && sa && decide (1 ≤ bits imm 32 15) && decide (bits imm 32 15 ≤ 16384) && decide (bits imm 21 11 = 0) &&
      decide (bits imm 0 6 = 0)
  | 0x02 => sa && decide (imm = 0)
  | 0x03 => sa
  | 0x04 => true
  | 0x05 => decide (imm = 0)
  | 0x06 => da && sa && decide (1 ≤ bits imm 24 24) && decide (bits imm 10 14 = 0) && decide (1 ≤ bits imm 0 10)
  | 0x10 | 0x11 => da && sLenOk (bits imm 0 24) && decide (bits imm 24 23 = 0)
  | 0x20 | 0x3F => da && sa && decide (imm = 0)
  | 0x21 => da && sa && decide (bits imm 10 38 = 0)
  | _ => false

/-- Loop bodies nest, lie within the program, and go four deep at most: `open_` holds the instruction past each open
body, innermost first. -/
def sLoopsOk (n : Nat) : Nat → List Nat → List Nat → Bool
  | _, _, [] => true
  | i, open_, x :: xs =>
    let open_ := open_.dropWhile (fun e => decide (e ≤ i))
    if sOp x = 0x06 then
      let stop := i + 1 + bits (sImm x) 0 10
      decide (stop ≤ n) && (match open_ with
        | e :: _ => decide (stop ≤ e)
        | [] => true) && decide (open_.length < 4) && sLoopsOk n (i + 1) (stop :: open_) xs
    else sLoopsOk n (i + 1) open_ xs

/-- FORMAT checks of a program; its BOUNDS check is `sBoundsOk`. -/
def sProgOk (l : List Nat) : Bool :=
  match l with
  | [] => false
  | first :: rest =>
    let out := bit (sImm first) 47
    decide (sOp first = 0x01) && l.all sInsOk && rest.all (fun x => decide (sOp x ≠ 0x01)) &&
      decide ((l.getLast?.map sOp) = some 0x3F) && l.dropLast.all (fun x => decide (sOp x ≠ 0x3F)) &&
      l.all (fun x => !decide (sOp x = (if out then 0x10 else 0x11))) && sLoopsOk l.length 0 [] l

def sBoundsOk (l : List Nat) : Bool :=
  match l with
  | [] => true
  | first :: _ => decide (bits (sImm first) 0 21 + 128 * bits (sImm first) 32 15 ≤ 0x200000)

end Sys2Proof.Machine
end

