-- ==== Sys2Proof/Machine/BundleDecode.lean ====
section
/-! DEFINITION. The commands that the bits of a bundle pick (Tables 4.9, 5.3, 5.6, 7.1 to 7.6) and those that the
instructions of a stream program pick (Tables 8.1, 8.2). A field that image validation rejects picks none. -/

namespace Sys2Proof.Machine

/-- Bits [lo + 4 : lo] as a sequencer register. -/
def regAt5 (x lo : Nat) : Fin 32 := ⟨x / 2 ^ lo % 32, Nat.mod_lt _ (by decide)⟩

/-- Bits [lo + 2 : lo] as an address register of a stream engine. -/
def regAt3 (x lo : Nat) : Fin 8 := ⟨x / 2 ^ lo % 8, Nat.mod_lt _ (by decide)⟩

/-- SCOPE of Table 7.5. -/
def scopeOf (x : Nat) : Scope :=
  match x % 4 with
  | 0 => .cluster
  | 1 => .ring
  | 2 => .span
  | _ => .device

/-- The SEQ slot (Tables 7.2, 7.3). -/
def seqInstr (i : Issue) (x : Nat) : Option Instr :=
  let rd := regAt5 x 51
  let ra := regAt5 x 46
  let rb := regAt5 x 41
  let imm := BitVec.ofNat 32 x
  let target := BitVec.ofNat 13 x
  let off := BitVec.ofNat 12 x
  match bits x 56 8 with
  | 0x01 => some (.sadd i rd ra rb)
  | 0x02 => some (.ssub i rd ra rb)
  | 0x03 => some (.sand i rd ra rb)
  | 0x04 => some (.sor i rd ra rb)
  | 0x05 => some (.sxor i rd ra rb)
  | 0x06 => some (.sshl i rd ra rb)
  | 0x07 => some (.sshr i rd ra rb)
  | 0x08 => some (.ssra i rd ra rb)
  | 0x09 => some (.smul i rd ra rb)
  | 0x0A => some (.smin i rd ra rb)
  | 0x0B => some (.smax i rd ra rb)
  | 0x0C => some (.sslt i rd ra rb)
  | 0x0D => some (.saddi i rd ra imm)
  | 0x0E => some (.sli i rd imm)
  | 0x0F => some (.slih i rd imm)
  | 0x10 => some (.sld i rd ra imm)
  | 0x11 => some (.sst i rb ra imm)
  | 0x12 => some (.srds i rd off)
  | 0x13 => some (.swrs i ra off)
  | 0x20 => some (.br i target)
  | 0x21 => some (.beq i ra rb target)
  | 0x22 => some (.bne i ra rb target)
  | 0x23 => some (.blt i ra rb target)
  | 0x24 => some (.bnzd i ra target)
  | 0x30 => match bits x 0 2 with
    | 0 => some (.vsetvl i rd ra .w16)
    | 1 => some (.vsetvl i rd ra .w32)
    | 2 => some (.vsetvl i rd ra .w64)
    | _ => none
  | 0x31 => some (.mbr i ra rb (bit x 0))
  | 0x32 => some (.lpre i (BitVec.ofNat 11 x))
  | _ => none

/-- The MX slot's fields in the order in which they act: load, compute, write-out (R99). -/
def mxInstrs (i : Issue) (x : Nat) : List Instr :=
  let load : List Instr := match bits x 46 2 with
    | 1 => [.mldw i (regAt5 x 40)]
    | 2 => [.mswap i]
    | 3 => [.mswap i, .mldw i (regAt5 x 40)]
    | _ => []
  let compute : List Instr := match bits x 77 3 with
    | 1 => [.mmul i ⟨bit x 76, bit x 75, regAt5 x 70, regAt5 x 65, BitVec.ofNat 16 (bits x 48 16)⟩]
    | 2 => [.mstart i]
    | 3 => [.mstop i]
    | _ => []
  let out : List Instr := match bits x 37 3 with
    | 1 => [.mwr i ⟨regAt5 x 32, BitVec.ofNat 4 (bits x 28 4), BitVec.ofNat 4 (bits x 24 4), BitVec.ofNat 3 (bits x 21 3),
        bit x 20, bit x 19, bit x 18, BitVec.ofNat 8 (bits x 10 8)⟩]
    | _ => []
  load ++ compute ++ out

/-- An opcode of the FMA pipes (Table 5.6). -/
def fmaInstr (i : Issue) (p : FmaPipe) (x : Nat) : Option Instr :=
  let f := vslotOf x
  match bits x 40 8 with
  | 0x01 => some (.vadd i p f)
  | 0x02 => some (.vsub i p f)
  | 0x03 => some (.vmul i p f)
  | 0x04 => some (.vfma i p f)
  | 0x05 => some (.vfms i p f)
  | 0x06 => some (.vfnma i p f)
  | 0x07 => some (.vdiv i p f)
  | 0x08 => some (.vsqrt i p f)
  | 0x09 => some (.vwmul i p f)
  | 0x0A => some (.vdot2Bf i p f)
  | 0x0B => some (.vdot4 i p f)
  | _ => none

/-- An opcode of the VC pipe. -/
def vcInstr (i : Issue) (x : Nat) : Option Instr :=
  let f := vslotOf x
  match bits x 40 8 with
  | 0x20 => some (.vand i f)
  | 0x21 => some (.vor i f)
  | 0x22 => some (.vxor i f)
  | 0x23 => some (.vnot i f)
  | 0x24 => some (.vshl i f)
  | 0x25 => some (.vshr i f)
  | 0x26 => some (.vsra i f)
  | 0x27 => some (.vmin i f)
  | 0x28 => some (.vmax i f)
  | 0x29 => some (.vcmp i f)
  | 0x2A => some (.vsel i f)
  | 0x2B => some (.vcvt i f)
  | 0x2C => some (.vqblk i f)
  | 0x2D => some (.vdqblk i f)
  | 0x2E => some (.vexp2 i f)
  | 0x2F => some (.vrcp i f)
  | 0x30 => some (.vrsum i f)
  | 0x31 => some (.vmvsx i f)
  | 0x32 => some (.mand i f)
  | 0x33 => some (.mor i f)
  | 0x34 => some (.mxor i f)
  | 0x35 => some (.mnot i f)
  | 0x36 => some (.mpop i f)
  | 0x37 => some (.vaccRd i f)
  | _ => none

/-- An opcode of the LS pipe. -/
def lsInstr (i : Issue) (x : Nat) : Option Instr :=
  let f := vslotOf x
  match bits x 40 8 with
  | 0x40 => some (.vld i f)
  | 0x41 => some (.vst i f)
  | 0x42 => some (.vld2 i f)
  | 0x43 => some (.vld3 i f)
  | 0x44 => some (.vld4 i f)
  | 0x45 => some (.vst2 i f)
  | 0x46 => some (.vst3 i f)
  | 0x47 => some (.vst4 i f)
  | _ => none

/-- The stream slot of an engine (Table 7.4). -/
def stInstr (i : Issue) (eng : Fin 4) (x : Nat) : Option Instr :=
  match bits x 13 3 with
  | 1 => some (.stgo i eng (regAt5 x 8) (regAt5 x 3))
  | 2 => some (.strel i eng)
  | 3 => some (.sthalt i eng)
  | _ => none

/-- The TOK slot of an ordinary bundle, and of a hold bundle (Table 7.5). -/
def tokInstr (i : Issue) (hold : Bool) (x : Nat) : Option Instr :=
  let scope := scopeOf (bits x 35 2)
  let name := BitVec.ofNat 8 (bits x 27 8)
  let count := BitVec.ofNat 16 (bits x 11 16)
  match bits x 37 3, hold with
  | 1, false => some (.tpost i scope name count)
  | 2, true => some (.twait i scope name count)
  | 3, true => some (.swait i (BitVec.ofNat 4 (bits x 33 4)))
  | 4, true => some (.leg i (BitVec.ofNat 24 (bits x 3 24)))
  | 5, true => some (.endHold i)
  | _, _ => none

/-- The XF slot (Table 7.6). -/
def xfInstr (i : Issue) (x : Nat) : Option Instr :=
  let sd := regAt5 x 56
  let scope := scopeOf (bits x 54 2)
  let name := BitVec.ofNat 8 (bits x 46 8)
  match bits x 61 3 with
  | 1 => some (.xget i sd scope name)
  | 2 => some (.xput i sd scope name)
  | 3 => some (.xmove i sd scope name)
  | _ => none

/-- R153, R154, R165, R168: every command of a bundle that issues at `i`. -/
def bundleInstrs (i : Issue) (b : Nat) : List Instr :=
  match bKind b with
  | 0 =>
    (seqInstr i (bSeq b)).toList ++ mxInstrs i (bits b 360 80) ++ (fmaInstr i .va (bits b 312 48)).toList ++
      (fmaInstr i .vb (bits b 264 48)).toList ++ (vcInstr i (bits b 216 48)).toList ++ (lsInstr i (bits b 168 48)).toList ++
      (stInstr i 0 (bits b 152 16)).toList ++ (stInstr i 1 (bits b 136 16)).toList ++
      (stInstr i 2 (bits b 120 16)).toList ++ (stInstr i 3 (bits b 104 16)).toList ++
      (tokInstr i false (bTok b)).toList ++ (xfInstr i (bits b 0 64)).toList
  | 1 => [.coast i (BitVec.ofNat 24 (bits b 0 24))]
  | 2 => (tokInstr i true (bTok b)).toList
  | _ => []

/-- The command of one stream instruction (Tables 8.1, 8.2). -/
def streamInstr (e : EngAt) (x : Nat) : Option Instr :=
  let da := regAt3 x 55
  let sa := regAt3 x 52
  let imm := BitVec.ofNat 48 x
  let inc := bit x 47
  match sOp x with
  | 0x01 => some (.sCfg e (if bit x 47 then .outbound else .inbound) (BitVec.ofNat 15 (bits x 32 15)) (BitVec.ofNat 21 x))
  | 0x02 => some (.sPar e da)
  | 0x03 => some (.sLi e da imm)
  | 0x04 => some (.sAddi e da sa imm)
  | 0x05 => some (.sAdd e da sa)
  | 0x06 => some (.sLoop e (BitVec.ofNat 24 (bits x 24 24)) (BitVec.ofNat 10 x))
  | 0x10 => some (.sGet e sa (BitVec.ofNat 24 x) inc)
  | 0x11 => some (.sPut e sa (BitVec.ofNat 24 x) inc)
  | 0x20 => some (.sFlip e)
  | 0x21 => some (.sPost e (scopeOf (bits x 8 2)) (BitVec.ofNat 8 x))
  | 0x3F => some (.sEnd e)
  | _ => none

/-! ## Slots -/

/-- The slots of a bundle by number: SEQ 0, VA 2, VB 3, VC 4, LS 5, XF 6, TOK 7; the MX slot's fields 10 to 13 in the order
in which they act (R99); the stream slots 20 to 23; 30 a bundle that is one coast or hold. -/
def slotSwap : Nat := 10
def slotLoad : Nat := 11
def slotCompute : Nat := 12
def slotOut : Nat := 13
def slotWhole : Nat := 30

/-- Whether slot `k` of a bundle can no longer issue once slot `u` of it has: the same slot, a field of MX that acts
earlier (R99), SEQ once MX has acted, since the batch window that an `MBR` opens includes its ring cycle (R94), or a bundle
of another kind (R154). -/
def slotBars (u k : Nat) : Bool :=
  u == k || u == slotWhole || k == slotWhole ||
    ((decide (10 ≤ k) || k == 0) && decide (k < u) && decide (10 ≤ u) && decide (u < 20))

end Sys2Proof.Machine
end

