-- ==== Sys2Proof/Machine/ClusterRegs.lean ====
section
/-! DEFINITION. The registers of a cluster by block offset: what `SRDS`, `SWRS` and register orders read and
write (R6, R51, R100, R129, R159, R180, R205, R237, R245, R334), and the recording of faults. -/

namespace Sys2Proof.Machine

def Mode.code : Mode → Nat
  | .fp64 => 0 | .fp32 => 1 | .fp16 => 2 | .bf16 => 3 | .bx8 => 4 | .bx4 => 5 | .s8 => 6 | .s4 => 7
  | .i8 => 8 | .i4 => 9

def ArrSt.code : ArrSt → Nat
  | .off => 0 | .rampup => 1 | .on => 2 | .rampdn => 3

def EngSt.code : EngSt → Nat
  | .stopped => 0 | .running => 1 | .waiting => 2 | .ending => 3 | .faulted => 4

/-- Low and high word of a 64-bit counter at consecutive offsets. -/
def word64 (x : Nat) (high : Bool) : Nat := if high then bits x 32 32 else bits x 0 32

/-- Whether the cluster presents class 77 (R27, R96). -/
def Matrix.c77 (x : Matrix) : Bool := x.bypass.isSome || x.narrow

def Cluster.c77 (c : Cluster) : Bool := c.mx.c77

/-- Whether a batch window is open (R94). -/
def Batcher.open_ (b : Batcher) : Bool := !b.queue.isEmpty || !b.running.isEmpty

/-! ## Faults -/

def Cluster.raise (c : Cluster) (x : Cause) : Cluster := { c with flt := c.flt ++ [x], fresh := true }
def Cluster.raises (c : Cluster) (xs : List Cause) : Cluster :=
  { c with flt := c.flt ++ xs, fresh := c.fresh || !xs.isEmpty }

/-- Bits of `CL_MFAULT`. -/
def mfOrder : BitVec 4 := 1
def mfAlign : BitVec 4 := 2
def mfColchk : BitVec 4 := 4
def mfBatch : BitVec 4 := 8

/-- A matrix fault from the program (R90, R91). -/
def Cluster.mfault (c : Cluster) (b : BitVec 4) : Cluster :=
  { c with mx := { c.mx with fault := c.mx.fault ||| b } }.raise (.program 0x0504)

/-- Bits of `CL_VFAULT`. -/
def vfAlign : BitVec 4 := 1
def vfBusy : BitVec 4 := 2
def vfOperand : BitVec 4 := 4
def vfPort : BitVec 4 := 8

/-- A vector fault, with the pipe of the first since all cause bits were last clear (R128, R129). -/
def Cluster.vfault (c : Cluster) (b : BitVec 4) (pipe : Nat) : Cluster :=
  { c with vec := { c.vec with fault := c.vec.fault ||| b,
                               pipe := if c.vec.fault = 0 then pipe else c.vec.pipe } }.raise
    (.program 0x0604)

/-- Bits of `CL_STFAULT`. -/
def sfXlate : BitVec 6 := 1
def sfWprot : BitVec 6 := 2
def sfAlign : BitVec 6 := 4
def sfOrder : BitVec 6 := 8
def sfTokovf : BitVec 6 := 16
def sfMemerr : BitVec 6 := 32

/-- A stream, transfer or token fault (R202, R205): `src` of the first since all bits were last clear, and
the partition address of the first XLATE, WPROT, ALIGN or MEMERR since then. -/
def Cluster.sfault (c : Cluster) (b : BitVec 6) (src : Nat) (addr : Option Nat) : Cluster :=
  let c' : Cluster := { c with stf :=
    { bits := c.stf.bits ||| b
      src := if c.stf.bits = 0 then src else c.stf.src
      addr := if c.stf.kept then c.stf.addr else (addr.map (· % 2 ^ 48)).getD c.stf.addr
      kept := c.stf.kept || addr.isSome } }
  c'.raise (if b = sfMemerr then .streamMem (addr.getD 0) else .program 0x0C04)

/-! ## Reading (R159) -/

def StreamEng.nibble (e : StreamEng) : Nat := e.st.code + 8 * b2n e.owed

/-- Word `w` (0 to 15) of an SR stream's registers (R334). -/
def SrStream.word (x : SrStream) (w : Nat) : Nat :=
  match w with
  | 0 => word64 x.seed false
  | 1 => word64 x.seed true
  | 2 => x.id
  | 3 => x.step
  | 4 => word64 x.draw false
  | 5 => word64 x.draw true
  | 6 => word64 x.cursor false
  | 7 => word64 x.cursor true
  | 8 => x.astep
  | 10 => word64 x.adraw false
  | 11 => word64 x.adraw true
  | 12 => word64 x.acursor false
  | 13 => word64 x.acursor true
  | _ => 0

def xferCount (c : Cluster) : Nat := (c.xfers.filter (·.isSome)).length + c.xq.length

/-- Whether a pipe that is busy until cycle `u` is busy in ring cycle `now` (R113). -/
def busyBit (now u : Nat) : Nat := b2n (decide (now < u))

/-- The value of a 32-bit register of the cluster's block, in ring cycle `now`; an offset that holds no
register reads zero, and so does a WO field. -/
def Cluster.readReg (c : Cluster) (now : Nat) (optph : Bool) (off : Nat) : Nat :=
  if off < 0x200 then (c.sr.getD (off / 0x40) .reset).word (off % 0x40 / 4)
  else if 0x800 ≤ off ∧ off < 0xC00 then Tab.get 0 c.tok ((off - 0x800) / 4)
  else match off with
  | 0x400 => c.fpctrl
  | 0x404 => c.vflags.toNat
  | 0x408 => c.mflags.toNat
  | 0x500 => c.mx.st.code + 4 * c.mx.step + 32 * b2n c.mx.loading + 64 * c.mx.front.mode.code
      + 1024 * b2n c.mx.front.valid + 2048 * b2n c.bat.open_ + 4096 * b2n c.c77
  | 0x504 => c.mx.fault.toNat + 65536 * c.mx.col
  | 0x508 => match c.mx.bypass with
      | some b => 1 + 2 * b
      | none => 0
  | 0x510 => b2n c.bat.en + 256 * c.bat.token + 65536 * c.bat.queue.length
  | 0x514 => c.bat.limit
  | 0x518 => c.bat.desc
  | 0x520 => word64 c.mx.busy false
  | 0x524 => word64 c.mx.busy true
  | 0x600 => busyBit now c.vec.va + 2 * busyBit now c.vec.vb + 4 * busyBit now c.vec.vc
      + 8 * busyBit now c.vec.ls + 65536 * c.r.vl
  | 0x604 => c.vec.fault.toNat + 256 * c.vec.pipe
  | 0x610 => word64 (c.vec.busy - (c.vec.busyTo - now)) false
  | 0x614 => word64 (c.vec.busy - (c.vec.busyTo - now)) true
  | 0x700 => c.midx.getD 0 0
  | 0x704 => c.midx.getD 1 0
  | 0x708 => c.midx.getD 2 0
  | 0x70C => c.midx.getD 3 0
  | 0x710 => c.mflat
  | 0xC00 => (c.eng.getD 0 .reset).nibble + 16 * (c.eng.getD 1 .reset).nibble
      + 256 * (c.eng.getD 2 .reset).nibble + 4096 * (c.eng.getD 3 .reset).nibble
      + 65536 * xferCount c
  | 0xC04 => c.stf.bits.toNat + 256 * c.stf.src
  | 0xC08 => word64 c.stf.addr false
  | 0xC0C => word64 c.stf.addr true
  | 0xE00 => c.ls.fault.toNat + 256 * c.ls.bankno
  | 0xE04 => 64 * c.ls.faddr
  | 0xE08 => c.ls.cerr
  | 0xE10 => word64 c.ls.wait false
  | 0xE14 => word64 c.ls.wait true
  | 0xF00 => b2n optph
  | _ => 0

/-! ## Writing (R6, R159) -/

/-- A write of `CL_FPCTRL` (R51). -/
def fpctrlWrite (old v : Nat) : Nat :=
  let rm := bits v 0 3
  bits v 3 4 * 8 + (if rm = 5 ∨ rm = 6 ∨ rm = 7 then bits old 0 3 else rm)

def setLow (old v : Nat) : Nat := old / 2 ^ 32 * 2 ^ 32 + v % 2 ^ 32
def setHigh (old v : Nat) : Nat := old % 2 ^ 32 + v % 2 ^ 32 * 2 ^ 32

/-- A write of a live value of an SR stream; anchors are read-only (R323). -/
def SrStream.put (x : SrStream) (w v : Nat) : SrStream :=
  match w with
  | 0 => { x with seed := setLow x.seed v }
  | 1 => { x with seed := setHigh x.seed v }
  | 2 => { x with id := v % 2 ^ 32 }
  | 3 => { x with step := v % 2 ^ 32 }
  | 4 => { x with draw := setLow x.draw v }
  | 5 => { x with draw := setHigh x.draw v }
  | 6 => { x with cursor := setLow x.cursor v }
  | 7 => { x with cursor := setHigh x.cursor v }
  | _ => x

/-- Write a register that has no trigger. `CL_TRSUB` and `CL_OPTPH` are left to the caller. -/
def Cluster.writeReg (c : Cluster) (off : Nat) (v : BitVec 32) : Cluster :=
  let x := v.toNat
  if off < 0x200 then
    { c with sr := c.sr.set (off / 0x40) ((c.sr.getD (off / 0x40) .reset).put (off % 0x40 / 4) x) }
  else match off with
  | 0x400 => { c with fpctrl := fpctrlWrite c.fpctrl x }
  | 0x404 => { c with vflags := c.vflags &&& ~~~ v.setWidth 7 }
  | 0x408 => { c with mflags := c.mflags &&& ~~~ v.setWidth 7 }
  | 0x504 => { c with mx := { c.mx with fault := c.mx.fault &&& ~~~ v.setWidth 4 } }
  | 0x510 => { c with bat := { c.bat with en := bit x 0, token := bits x 8 8 } }
  | 0x514 =>
    let l := bits x 0 24
    { c with bat := { c.bat with limit := (if l = 0 then c.bat.limit else l) } }
  | 0x518 => { c with bat := { c.bat with desc := bits x 5 16 * 32 } }
  | 0x604 => { c with vec := { c.vec with fault := c.vec.fault &&& ~~~ v.setWidth 4 } }
  | 0xC04 =>
    let left := c.stf.bits &&& ~~~ v.setWidth 6
    { c with stf := { c.stf with bits := left, kept := c.stf.kept && left != 0 } }
  | 0xE00 =>
    let left := c.ls.fault &&& ~~~ v.setWidth 2
    { c with ls := { c.ls with fault := left, banked := c.ls.banked && left != 0 } }
  | _ => c

end Sys2Proof.Machine
end

