-- ==== Sys2Proof/Machine/Engine.lean ====
section
/-! DEFINITION. What comes about in a ring cycle apart from issue: results landing, the fixed-latency
accesses of the local store with their bank conflicts, accumulator reads and joins, the batcher, ramps and
cluster-scope posts (R84 to R94, R111, R112, R126, R155, R157, R198, R238 to R244). -/

namespace Sys2Proof.Machine

/-! ## The agenda -/

/-- 0: register results, at the start of the ring cycle; 1: the batcher's own issues; 2: accesses and joins;
3: posts, after the accesses. -/
def Act.phase : Act → Nat
  | .swrs _ _ _ | .sreg _ _ | .vreg _ _ _ | .mreg _ _ _ | .vl _ | .vfl _ | .sthalt _ => 0
  | .bLimit _ | .bTrigger | .bSwap | .bMmul _ _ | .bStop => 1
  | .sld _ _ | .vld _ _ _ _ | .lsw _ _ | .tile _ | .tileRow _ | .tileDone | .mread _ _ _ _ _ _
  | .join _ _ _ _ _ | .mwr _ _ _ | .vacc _ _ _ | .xfer _ _ _ _ _ | .trsub _ _ => 2
  | .bDone _ | .post _ _ | .add _ _ => 3

/-- Slots of a bundle: SEQ 0, MX 1, VA 2, VB 3, VC 4, LS 5, XF 6, TOK 7. -/
def Due.late (d : Due) : Nat := if d.act.phase = 0 ∧ 2 ≤ d.slot then 1 else 0

/-- Order of coming about: ring cycle, phase, vector results after sequencer results (R112), issue order,
slot order. -/
def Due.key (d : Due) : List Nat := [d.at_, d.act.phase, d.late, d.issued, d.slot]

def keyLt : List Nat → List Nat → Bool
  | x :: xs, y :: ys => decide (x < y) || (x == y && keyLt xs ys)
  | _, _ => false

/-- Insert after every entry that does not come later. -/
def insDue (d : Due) : List Due → List Due
  | [] => [d]
  | e :: rest => if keyLt d.key e.key then d :: e :: rest else e :: insDue d rest

def Cluster.due (c : Cluster) (at_ issued slot : Nat) (a : Act) : Cluster :=
  { c with agenda := insDue ⟨at_, issued, slot, a⟩ c.agenda }

def Cluster.dues (c : Cluster) (at_ issued slot : Nat) (as : List Act) : Cluster :=
  as.foldl (fun c a => c.due at_ issued slot a) c

/-! ## Registers -/

def Regs.getS (r : Regs) (i : Nat) : BitVec 64 := if h : i < 32 then r.s[i] else 0
/-- A write to s0 is discarded (R121). -/
def Regs.setS (r : Regs) (i : Nat) (v : BitVec 64) : Regs :=
  if h : i < 32 then (if i = 0 then r else { r with s := r.s.set i v }) else r
def Regs.getV (r : Regs) (i : Nat) : BitVec 128 := if h : i < 32 then r.v[i] else 0
def Regs.setV (r : Regs) (i : Nat) (mask v : BitVec 128) : Regs :=
  if h : i < 32 then { r with v := r.v.set i ((r.v[i] &&& ~~~mask) ||| (v &&& mask)) } else r
def Regs.getM (r : Regs) (i : Nat) : BitVec 16 := if h : i < 8 then r.m[i] else 0
def Regs.setM (r : Regs) (i : Nat) (mask v : BitVec 16) : Regs :=
  if h : i < 8 then { r with m := r.m.set i ((r.m[i] &&& ~~~mask) ||| (v &&& mask)) } else r

/-- Element codes placed in vector registers from register `reg`: bit position and width per element. A
position past 128 bits lies in the next register. -/
def vput (reg : Nat) (l : List (Nat × Nat × Nat)) : List Act :=
  let regs := dedup (l.map (fun p => reg + p.1 / 128))
  regs.map (fun r =>
    let here := l.filter (fun p => reg + p.1 / 128 == r)
    let mk := here.foldl (fun (a : Nat × Nat) p =>
      (a.1 ||| ((2 ^ p.2.1 - 1) <<< (p.1 % 128)), a.2 ||| ((p.2.2 % 2 ^ p.2.1) <<< (p.1 % 128)))) (0, 0)
    .vreg r (BitVec.ofNat 128 mk.1) (BitVec.ofNat 128 mk.2))

/-! ## The array's ramp (R88, R89) -/

/-- Changes of the step count due up to ring cycle `t`. -/
def Matrix.rampAux (t : Nat) : Nat → Matrix → Matrix
  | 0, x => x
  | n + 1, x =>
    if t < x.rampNext then x
    else match x.st with
      | .rampup =>
        if x.step + 1 ≥ 7 then { x with step := 7, st := .on }
        else Matrix.rampAux t n { x with step := x.step + 1, rampNext := x.rampNext + 8 }
      | .rampdn =>
        if x.step ≤ 1 then { x with step := 0, st := .off }
        else Matrix.rampAux t n { x with step := x.step - 1, rampNext := x.rampNext + 8 }
      | _ => x

def Matrix.ramp (x : Matrix) (t : Nat) : Matrix := Matrix.rampAux t 8 x

/-- `MSTART` in ring cycle `t` (R88, R89, Table 4.8). -/
def Cluster.mstart (c : Cluster) (t : Nat) : Cluster :=
  match c.mx.st with
  | .off => { c with mx := { c.mx with st := .rampup, step := 1, rampNext := t + 8 } }
  | .rampdn => { c with mx := { c.mx with st := .rampup, rampNext := t + 8 } }
  | _ => c.mfault mfOrder

/-- `MSTOP` in ring cycle `t`. -/
def Cluster.mstop (c : Cluster) (t : Nat) : Cluster :=
  match c.mx.st with
  | .on => { c with mx := { c.mx with st := .rampdn, step := 6, rampNext := t + 8 } }
  | .rampup => { c with mx := { c.mx with st := .rampdn, rampNext := t + 8 } }
  | _ => c.mfault mfOrder

/-- `MSWAP` (R81, Table 4.8). -/
def Cluster.mswap (c : Cluster) : Cluster :=
  if c.mx.shadow.valid && !c.mx.loading then
    { c with mx := { c.mx with front := c.mx.shadow, shadow := c.mx.front } }
  else c.mfault mfOrder

/-- `MLDW` issued in ring cycle `t` with its descriptor at `addr` (R81, R82, R90). -/
def Cluster.mldw (c : Cluster) (t addr : Nat) : Cluster :=
  if c.mx.loading then c.mfault mfOrder
  else { c with mx := { c.mx with loading := true } }.due t t 1 (.tile (bits addr 5 16 * 32))

/-- `MMUL` issued in ring cycle `t` (R83, R84, R90). DESIGN CHOICE (log entry 78): one that joins earlier than another issued
before it joins as R84 says, not in issue order; one that faults is not counted in `CL_MBUSY`. -/
def Cluster.mmul (c : Cluster) (t : Nat) (sgna ovw : Bool) (ptr : BitVec 64) (word : Nat) : Cluster :=
  if c.mx.st = .on ∧ c.mx.front.valid = true then
    let m := c.mx.front.mode
    if bits ptr.toNat 0 21 % max 1 (m.ewidth / 8) ≠ 0 then c.mfault mfAlign
    else { c with mx := { c.mx with busy := c.mx.busy + 1 } }.due (t + 1) t 1
      (.mread c.mx.front sgna ovw ptr (word % 65536) (m.joinLat - 1))
  else c.mfault mfOrder

/-! ## Stopping a stream engine -/

/-- The state of a half after `STGO` (R185, R186). -/
def restHalf : Dir → HalfSt
  | .inbound => .free
  | .outbound => .owned

/-- The engine stopped with its halves in their state after `STGO` (R187, R203); writes whose data has left the
local store complete whole. -/
def StreamEng.halt (e : StreamEng) : StreamEng :=
  { e with
    st := .stopped, sel := false, pos := 0, touched := false, owed := false, loops := [], posts := []
    h0 := restHalf e.dir, h1 := restHalf e.dir
    jobs := (e.jobs.filter (fun j => j.out && !j.buf.isEmpty)).map (fun j => { j with len := j.got }) }

/-- `STHALT` takes effect; a stopped engine is left as it is. -/
def Cluster.haltEngine (c : Cluster) (k : Nat) : Cluster :=
  let e := c.eng.getD k .reset
  if e.st = .stopped then c else { c with eng := c.eng.set k e.halt }

/-! ## Landing -/

/-- A write that `SWRS` makes takes effect (R159, R217, R306). Only `Ring.swrs` of logical slot 0 makes one of
`CL_TRSUB`. -/
def Cluster.swrs (c : Cluster) (t off : Nat) (v : BitVec 32) (bidx : Nat) : Cluster :=
  if off = 0xD00 then c.due t t 0 (.trsub (bits v.toNat 7 14 * 128) bidx)
  else if off = 0xF00 then { c with optw := some (bit v.toNat 0) }
  else c.writeReg off v

def Cluster.land (c : Cluster) (t : Nat) (a : Act) : Cluster :=
  match a with
  | .swrs off v bidx => c.swrs t off v bidx
  | .sreg r v => { c with r := c.r.setS r v }
  | .vreg r mask v => { c with r := c.r.setV r mask v }
  | .mreg r mask v => { c with r := c.r.setM r mask v }
  | .vl n => { c with r := { c.r with vl := n } }
  | .vfl f => { c with vflags := c.vflags ||| f }
  | .sthalt k => c.haltEngine k
  | _ => c

/-- Everything that lands at the start of ring cycle `t` or earlier. -/
def Cluster.landAll (c : Cluster) (t : Nat) : Cluster :=
  let now := c.agenda.filter (fun d => decide (d.at_ ≤ t) && d.act.phase == 0)
  let c := { c with agenda := c.agenda.filter (fun d => !(decide (d.at_ ≤ t) && d.act.phase == 0)) }
  now.foldl (fun c d => c.land d.at_ d.act) { c with mx := c.mx.ramp t }

/-! ## The batcher (R92, R93) -/

/-- The mode in the descriptor at an address; a reserved code gives none. -/
def Cluster.descMode (c : Cluster) (addr : Nat) : Option Mode :=
  Mode.ofCode ((Tab.get 0 c.ls.bytes (addr + 16)).toNat % 16)

/-- Requests the queue holds for the descriptor's mode (R92). DESIGN CHOICE (log entry 78): 84 under a reserved code. -/
def Cluster.batchCap (c : Cluster) : Nat :=
  match c.descMode c.bat.qdesc with
  | some m => m.batchCap
  | none => 84

/-- Join latency of a batch (R93). DESIGN CHOICE (log entry 78): 0 under a reserved mode code. -/
def Cluster.batchLat (c : Cluster) : Nat :=
  match c.descMode c.bat.qdesc with
  | some m => m.joinLat
  | none => 0

/-- R93: a batch is triggered in ring cycle `t`; it takes the requests of earlier ring cycles. -/
def Cluster.batchTrigger (c : Cluster) (t : Nat) : Cluster :=
  let reqs := c.bat.queue.filter (fun q => decide (q.at_ < t))
  if reqs.isEmpty then c
  else
    let n := reqs.length
    let lat := c.batchLat
    let wasOff : Bool := c.mx.st == .off || c.mx.st == .rampdn
    let desc := c.bat.qdesc
    let c : Cluster := { c with
      bat := { c.bat with
        queue := c.bat.queue.filter (fun q => !decide (q.at_ < t)), running := c.bat.running ++ [⟨t, reqs, c.bat.qtoken⟩] }
      agenda := c.agenda.filter (fun d => match d.act with | .bLimit _ => false | _ => true) }
    let c := if wasOff then c.mstart t else c
    let c := c.mldw t desc
    let c := c.due (t + 84) t 1 .bSwap
    let c := ((List.range n).zip reqs).foldl
      (fun c p => c.due (t + 84 + p.1) t 1 (.bMmul p.2.ptr p.2.word)) c
    let c := if wasOff then c.due (t + 84 + n) t 1 .bStop else c
    c.due (t + 84 + (n - 1) + lat + 1) t 1 (.bDone t)

/-- The batcher's own issues. -/
def Cluster.control (c : Cluster) (t : Nat) (a : Act) : Cluster :=
  match a with
  | .bLimit first => if c.bat.first = first ∧ !c.bat.queue.isEmpty then c.batchTrigger t else c
  | .bTrigger => c.batchTrigger t
  | .bSwap => c.mswap
  | .bMmul ptr word => c.mmul t Config.batchSgna true ptr word
  | .bStop => c.mstop t
  | _ => c

/-- Triggers of ring cycle `t`, which come before a request that is appended in it (R93). -/
def Cluster.fireBatches (c : Cluster) (t : Nat) : Cluster :=
  let isTrigger (d : Due) : Bool := decide (d.at_ ≤ t) && (match d.act with | .bLimit _ | .bTrigger => true | _ => false)
  (c.agenda.filter isTrigger).foldl (fun c d => c.control t d.act)
    { c with agenda := c.agenda.filter (fun d => !isTrigger d) }

/-! ## Accesses -/

/-- Decode a tile descriptor's bytes (Table 4.2); none for a reserved mode or a misaligned EBASE. -/
def tileDesc (d : List Byte) : Option TileDesc :=
  match Mode.ofCode (leAt d 16 1 % 16) with
  | none => none
  | some m =>
    let eb := bits (leAt d 0 4) 0 21
    if eb % max 1 (m.ewidth / 8) ≠ 0 then none
    else some { ebase := eb, epitch := bits (leAt d 4 4) 0 21, sbase := bits (leAt d 8 4) 0 21,
                spitch := bits (leAt d 12 4) 0 21, mode := m, sgnw := bit (leAt d 17 1) 0,
                noff := leAt d 18 1 % 32 }

/-- Lines of one weight row and its scales. -/
def TileDesc.rowLines (d : TileDesc) (c77 : Bool) (p : Nat) : List Nat :=
  let n := d.mode.outs c77
  linesOf ((d.ebase + p * d.epitch) % lsSize) (elemBytes d.mode.ewidth n) ++
    (if d.mode.isBlock then
      linesOf ((d.sbase + p * d.spitch) % lsSize) ((d.noff + n - 1) / 32 + 1) else [])

/-- Weight rows read in load cycle `r`: product row p begins at cell row w × p; in the 4-bit modes cell
row r takes rows 2r and 2r + 1 (R81). -/
def Mode.rowCycle (m : Mode) (p : Nat) : Nat := if m.ewidth = 4 then p / 2 else p * m.cellw

/-- Lines an access of Table 10.1 reads or writes in ring cycle `t`. -/
def Cluster.lines (c : Cluster) (t : Nat) (a : Act) : List Nat :=
  match a with
  | .sld _ addr => [lineOf addr]
  | .vld addr len _ _ => linesOf addr len
  | .lsw _ l => dedup (l.map (fun p => lineOf (p.1 % lsSize)))
  | .tile addr =>
    lineOf addr :: (match tileDesc ((List.range 32).map (fun i => c.ls.raw t (addr + i))) with
      | some d => ((List.range d.mode.k).filter (fun p => d.mode.rowCycle p == 0)).flatMap
          (d.rowLines c.c77)
      | none => [])
  | .tileRow p => match c.mx.load with
      | some d => d.rowLines c.c77 p
      | none => []
  | .mread b _ _ ptr _ _ =>
    linesOf (bits ptr.toNat 0 21) (elemBytes b.mode.ewidth b.mode.k) ++
      (if b.mode.isBlock then
        linesOf (bits ptr.toNat 21 21) ((bits ptr.toNat 42 5 + b.mode.k - 1) / 32 + 1) else [])
  | .xfer _ addr _ _ _ => [lineOf addr]
  | .trsub addr _ => [lineOf addr, lineOf (addr + 64)]
  | _ => []

def Act.isWrite : Act → Bool
  | .lsw _ _ => true
  | _ => false

/-- R242: the banks that two different lines claim. -/
def clashes (lines : List Nat) : List Nat :=
  let ls := dedup lines
  dedup ((ls.filter (fun l => ls.any (fun k => k ≠ l && bankOf k == bankOf l))).map bankOf)

/-- Read the weight rows of one load cycle into the shadow bank. -/
def Cluster.loadRow (c : Cluster) (k : LsCtx) (d : TileDesc) (p : Nat) : Cluster :=
  let n := d.mode.outs c.c77
  let e := (d.ebase + p * d.epitch) % lsSize
  let s := (d.sbase + p * d.spitch) % lsSize
  let row := (List.range n).map (elemAt (c.ls.byte k) e d.mode.ewidth)
  let sc := if d.mode.isBlock then
      (List.range n).map (fun j => (c.ls.byte k (s + (d.noff + j) / 32)).toNat) else []
  { c with mx := { c.mx with shadow :=
    { c.mx.shadow with rows := c.mx.shadow.rows ++ [row], scales := c.mx.shadow.scales ++ [sc] } } }

/-- The group sums of one output vector (R58 to R61, R66, R80). -/
def vectorSums (b : Bank) (n : Nat) (acts : List Val) : List Sum × Fl :=
  let m := b.mode
  (List.range n).foldl (fun (st : List Sum × Fl) j =>
    let ps := ((acts.zip b.rows).zip (if m.isBlock then b.scales else b.rows)).map (fun q =>
      mkProd q.1.1 (m.operand b.sgnw (q.1.2.getD j 0) (if m.isBlock then q.2.getD j 0 else 0)))
    let pf : Fl := ps.foldl (fun f p => f ||| p.2) 0
    if m.isInt then (st.1 ++ [.fin (intGroup (ps.map (·.1))) 0], st.2 ||| pf)
    else
      let g := formGroup m.p (ps.map (·.1))
      (st.1 ++ [g.1], st.2 ||| pf ||| g.2)) ([], 0)

/-- The activation vector of a pointer (R83). -/
def activations (rd : Nat → Byte) (m : Mode) (sgna : Bool) (ptr : Nat) : List Val :=
  (List.range m.k).map (fun i =>
    m.operand sgna (elemAt rd (bits ptr 0 21) m.ewidth i)
      (if m.isBlock then (rd (bits ptr 21 21 + (bits ptr 42 5 + i) / 32)).toNat else 0))

/-- Cut bytes into runs of at most 512 for the write-out path (R86). -/
def chunks512 (l : LsBytes) : List LsBytes :=
  (List.range ((l.length + 511) / 512)).map (fun k => (l.drop (512 * k)).take 512)

/-- The bytes of a matrix write-out (R86): elements, a pair's tail after its head, then scale bytes. -/
def mwrBytes (r : ReadOut) (out : List (Nat × Nat × Nat)) (edest sdest : Nat) : LsBytes :=
  let e := r.fmt.width
  let n := r.elts.length
  let head := packElems edest e (out.map (fun p => (p.1, p.2.1)))
  let tail := if r.pair then packElems (edest + elemBytes e n) e (out.map (fun p => (p.1, p.2.2))) else []
  let blk : Bool := match r.fmt with | .flt F => F.width == 8 || F.width == 4 | _ => false
  let sc := if blk then (List.range ((n + 31) / 32)).map
      (fun k => (sdest + k, BitVec.ofNat 8 r.bout, (0xFF : Byte))) else []
  -- two 4-bit elements share a byte, so bytes are counted, not elements
  head ++ tail ++ sc

/-- Bytes a matrix write-out occupies on the path. -/
def mwrLen (r : ReadOut) : Nat :=
  let e := r.fmt.width
  let n := r.elts.length
  let blk : Bool := match r.fmt with | .flt F => F.width == 8 || F.width == 4 | _ => false
  elemBytes e n * (if r.pair then 2 else 1) + (if blk then (n + 31) / 32 else 0)

/-- One access, join or read-out of ring cycle `t`. Banks in `k.bad` make no access. -/
def Cluster.access (c : Cluster) (k : LsCtx) (t : Nat) (port : Bool) (d : Due) : Cluster :=
  let noted (c : Cluster) : Cluster :=
    if d.act.isWrite then c
    else
      let r := c.ls.note k (c.lines t d.act)
      { c with ls := r.1 }.raises r.2
  match d.act with
  | .sld r addr =>
    (noted c).due (d.issued + 6) d.issued d.slot (.sreg r (BitVec.ofNat 64 (leNat (c.ls.read k addr 8))))
  | .vld addr _ lat elts =>
    let acts := vput 0 (elts.map (fun e =>
      let code := if e.width = 4 then bits (c.ls.byte k (addr + e.off / 2)).toNat (4 * (e.off % 2)) 4
        else leNat (c.ls.read k (addr + e.off) (e.width / 8))
      (128 * e.reg + e.lo, e.width, code)))
    (noted c).dues (t + lat) d.issued d.slot acts
  | .tile addr =>
    match tileDesc (c.ls.read k addr 32) with
    | none => { noted c with mx := { c.mx with loading := false } }.mfault mfAlign
    | some td =>
      let c := noted c
      let c : Cluster := { c with mx := { c.mx with
        load := some td, shadow := ⟨false, td.mode, td.sgnw, [], []⟩ } }
      ((List.range td.mode.k).foldl (fun c p =>
        if td.mode.rowCycle p = 0 then c.loadRow k td p
        else c.due (t + td.mode.rowCycle p) t 1 (.tileRow p)) c).due (t + 83) t 1 .tileDone
  | .tileRow p =>
    match c.mx.load with
    | some td => (noted c).loadRow k td p
    | none => c
  | .tileDone =>
    { c with mx := { c.mx with
      load := none, loading := false, shadow := { c.mx.shadow with valid := true } } }
  | .mread b sgna ovw ptr word lat =>
    let acts := activations (c.ls.byte k) b.mode sgna ptr.toNat
    let g := vectorSums b (b.mode.outs c.c77) acts
    (noted c).due (t + lat) d.issued 1 (.join b.mode word ovw g.1 g.2)
  | .join m word ovw sums f =>
    let r := joinVector m word ovw sums c.acc
    { c with acc := r.1, mflags := c.mflags ||| f ||| r.2 }
  | .mwr r edest sdest =>
    if port then c
    else
      let o := readOut r c.acc
      let c : Cluster := { c with acc := o.2.2, mflags := c.mflags ||| o.2.1 }
      let chunks := chunks512 (mwrBytes r o.1 edest sdest)
      ((List.range chunks.length).zip chunks).foldl
        (fun c p => c.due (t + 3 + p.1) d.issued 1 (.lsw (t + 2 + chunks.length) p.2)) c
  | .vacc r dst lat =>
    if port then c.vfault vfPort 2
    else
      let o := readOut r c.acc
      let w := r.fmt.width
      let c : Cluster := { c with acc := o.2.2, vflags := c.vflags ||| o.2.1 }
      let head := vput dst (o.1.map (fun p => (p.1 * w, w, p.2.1)))
      let tail := if r.pair then vput (dst + 2) (o.1.map (fun p => (p.1 * w, w, p.2.2))) else []
      c.dues (t + lat) d.issued 4 (head ++ tail)
  | .xfer op addr scope name jr =>
    let bs := c.ls.read k addr 32
    { noted c with xq := c.xq ++ [⟨op, bs, scope, name, jr⟩] }
  | .trsub addr bidx =>
    { noted c with subs := c.subs ++ [(bidx, c.ls.read k addr 128)] }
  | .lsw vis l =>
    let r := c.ls.write k vis l
    { c with ls := r.1 }.raises r.2
  | _ => c

/-- Add to a cluster-scope counter, saturating with TOKOVF (R194, R196). -/
def Cluster.postTok (c : Cluster) (name n src : Nat) : Cluster :=
  let v := Tab.get 0 c.tok name + n
  let c : Cluster := { c with posted := c.posted ++ [(name, n)] }
  if v < 2 ^ 32 then { c with tok := Tab.set 0 c.tok name v }
  else { c with tok := Tab.set 0 c.tok name (2 ^ 32 - 1) }.sfault sfTokovf src none

/-- Fixed-latency writes issued in ring cycle `i` or earlier that have not landed (R198): the ring cycle of
the next of them. -/
def Cluster.coverNext (c : Cluster) (i : Nat) : Option Nat :=
  ((c.agenda.filter (fun d => decide (d.issued ≤ i) && (match d.act with
    | .lsw _ _ => true
    | .mwr _ _ _ => true
    | _ => false))).map (·.at_)).head?

/-- Posts and batch completions of ring cycle `t` (R93, R198). -/
def Cluster.after (c : Cluster) (t : Nat) (d : Due) : Cluster :=
  match d.act with
  | .post name n =>
    match c.coverNext d.issued with
    | some u => c.due (max u (t + 1)) d.issued d.slot (.post name n)
    | none => c.postTok name n 5
  | .add name src => c.postTok name 1 src
  | .bDone u =>
    match c.bat.running.find? (fun b => b.t == u) with
    | some b => { c with bat := { c.bat with running := c.bat.running.filter (fun b => b.t ≠ u) } }.postTok
        b.token 1 5
    | none => c
  | _ => c

/-- Take the entries of a phase that are due in ring cycle `t` or earlier. -/
def Cluster.take (c : Cluster) (t ph : Nat) : List Due × Cluster :=
  (c.agenda.filter (fun d => decide (d.at_ ≤ t) && d.act.phase == ph),
   { c with agenda := c.agenda.filter (fun d => !(decide (d.at_ ≤ t) && d.act.phase == ph)) })

/-- The fixed-latency accesses of a ring cycle claim their lines, beside those already claimed in it (R242). -/
def LStore.claims (ls : LStore) (t : Nat) (lines : List Nat) : LStore :=
  { ls with claim := (t, lines ++ (if ls.claim.1 = t then ls.claim.2 else [])) }

/-- All of ring cycle `t` after issue: the batcher, then the accesses of the cycle (reads before joins
before writes), then posts. DESIGN CHOICE (log entry 78): joins of modes of different latency that fall in one ring cycle on
the one join port (R85) are made in the order of issue. -/
def Cluster.cycle (c : Cluster) (ring wake slot t : Nat) : Cluster :=
  let c := c.landAll t
  let p := c.take t 1
  let c := p.1.foldl (fun c d => c.control t d.act) p.2
  let q := c.take t 2
  let c := q.2
  let lines := q.1.flatMap (fun d => c.lines t d.act)
  let c : Cluster := { c with ls := c.ls.claims t lines }
  let bad := (clashes c.ls.claim.2).filter (fun b => lines.any (fun l => bankOf l == b))
  let k : LsCtx := ⟨ring, wake, t, slot, bad⟩
  let c : Cluster := match bad with
    | [] => c
    | b :: _ =>
      { c with ls := { c.ls with
          fault := c.ls.fault ||| 1, banked := true
          bankno := if c.ls.banked then c.ls.bankno else b } }.raise (.program 0x0E00)
  let isJoin (d : Due) : Bool := match d.act with | .join _ _ _ _ _ => true | _ => false
  let isAccRd (d : Due) : Bool := match d.act with | .mwr _ _ _ => true | .vacc _ _ _ => true | _ => false
  let port : Bool := decide (2 ≤ (q.1.filter isAccRd).length)
  let reads := q.1.filter (fun d => !d.act.isWrite && !isJoin d)
  let joins := q.1.filter isJoin
  let writes := q.1.filter (fun d => d.act.isWrite)
  let c := reads.foldl (fun c d => c.access k t port d) c
  let c := joins.foldl (fun c d => c.access k t port d) c
  let c := writes.foldl (fun c d => c.access k t port d) c
  let z := c.take t 3
  z.1.foldl (fun c d => c.after t d) z.2

end Sys2Proof.Machine
end

