-- ==== Sys2Proof/Machine/RingOps.lean ====
section
/-! DEFINITION. A ring as a whole: its clock, the settling of everything due before a bundle, bundle
accounting, posts at ring scope, Trestle submissions, timetable faults and holds (R153 to R180, R193 to R198,
R217, R218). -/

namespace Sys2Proof.Machine

/-- Do something in every active cluster, by logical slot. -/
def Ring.each (r : Ring) (f : Nat → Cluster → Cluster) : Ring :=
  { r with cl := ((List.range r.cl.length).zip r.cl).map (fun p => f p.1 p.2) }

def Ring.get (r : Ring) (slot : Nat) : Cluster := r.cl.getD slot .reset
def Ring.put (r : Ring) (slot : Nat) (c : Cluster) : Ring := { r with cl := r.cl.set slot c }

/-! ## Faults of the timetable (R179, R180) -/

def tfSalign : BitVec 4 := 1
def tfDiverge : BitVec 4 := 2
def tfHoldtime : BitVec 4 := 4
def tfXfull : BitVec 4 := 8

/-- A timetable fault at bundle `bidx`, of logical slot `slot` where the cause has one; that cluster is the member that faults,
and of a cause without one the ring itself has raised it. -/
def Ring.ttFault (r : Ring) (b : BitVec 4) (slot : Option Nat) : Ring :=
  { r with
    cl := match slot with
      | some k => r.cl.set k { r.get k with fresh := true }
      | none => r.cl
    tt := { r.tt with
      fault := r.tt.fault ||| b
      fslot := if r.tt.fault = 0 then slot.getD 0 else r.tt.fslot
      fbidx := if r.tt.fault = 0 then r.tt.bidx else r.tt.fbidx }
    fresh := r.fresh || slot.isNone
    flt := r.flt ++ [(slot.getD 0, .program 0x0308)] }

/-! ## Trestle submissions (R217, R218) -/

def trMemerr : BitVec 3 := 4
def trBadtok : BitVec 3 := 2
def trQfull : BitVec 3 := 1

/-- Requests held, the running one included (R206). -/
def Trestle.held (x : Trestle) : Nat := x.queue.length + b2n x.run.isSome

def Trestle.fail (x : Trestle) (b : BitVec 3) (bidx : Nat) : Trestle :=
  { x with fault := x.fault ||| b, bidx := if x.marked then x.bidx else bidx, marked := true }

/-- R217, R218: one submission of logical slot 0, its descriptor copied in ring cycle `t`; either cause, or both, keep it out
of the queue. -/
def Ring.submit (r : Ring) (t bidx : Nat) (desc : List Byte) : Ring :=
  let scope := leAt desc 6 1
  let cause : BitVec 3 := (if 4 ≤ r.tr.held then trQfull else 0) ||| (if scope = 0 ∨ 3 < scope then trBadtok else 0)
  if cause ≠ 0 then { r with tr := r.tr.fail cause bidx, fresh := true, flt := r.flt ++ [(0, .program 0x10008)] }
  else { r with tr := { r.tr with queue := r.tr.queue ++ [⟨desc, t, r.optph⟩] } }

/-! ## Posts (R194, R196, R198) -/

/-- Whether every fixed-latency write of the ring issued in ring cycle `i` or earlier has landed. -/
def Ring.covered (r : Ring) (i : Nat) : Bool := r.cl.all (fun c => (c.coverNext i).isNone)

/-- Add to a ring-scope counter; an overflow is recorded in logical slot `slot` (R196). -/
def Ring.postTok (r : Ring) (name n src slot : Nat) : Ring :=
  let v := Tab.get 0 r.tok name + n
  let r : Ring := { r with posted := r.posted ++ [(name, n)] }
  if v < 2 ^ 32 then { r with tok := Tab.set 0 r.tok name v }
  else ({ r with tok := Tab.set 0 r.tok name (2 ^ 32 - 1) }).put slot
    ((r.get slot).sfault sfTokovf src none)

def RingPost.isRing (p : RingPost) : Bool := match p.scope with | .ring => true | _ => false

/-- Whether the writes a post covers have landed (R198). -/
def Ring.fenceDone (r : Ring) (p : RingPost) : Bool := !p.fenced || r.covered p.issued

/-- Ring-scope posts that reach their counter in ring cycle `u`: covered, and four ring cycles after issue
seen at the earliest (Table 1.2, Table 7.7). -/
def Ring.postRing (r : Ring) (u : Nat) : Ring :=
  let ready (p : RingPost) : Bool := p.isRing && decide (p.issued + 3 ≤ u) && r.fenceDone p
  let go := r.posts.filter ready
  go.foldl (fun r p => r.postTok p.name p.count p.src p.slot)
    { r with posts := r.posts.filter (fun p => !ready p) }

/-! ## The status block (R22 to R24) -/

/-- The sticky flags of a cluster's status block, by register offset (R22, R50). -/
def Cluster.sticky (c : Cluster) : List (Nat × Nat) :=
  [(0x404, c.vflags.toNat), (0x408, c.mflags.toNat), (0x504, c.mx.fault.toNat), (0x604, c.vec.fault.toNat),
   (0xC04, c.stf.bits.toNat), (0xE00, c.ls.fault.toNat)]

/-- A unit's flags take those of a member (R22). -/
def UnitStat.take (u : UnitStat) (l : List (Nat × Nat)) : UnitStat :=
  { u with flags := l.foldl (fun m p => if p.2 = 0 then m else Tab.set 0 m p.1 (Tab.get 0 m p.1 ||| p.2)) u.flags }

/-- The first faulting member, kept until the fault flags are cleared; of those recorded in one ring cycle of a ring the lowest
(R23). `at_` is that ring and ring cycle, none where the fault has no ring cycle. -/
def UnitStat.mark (u : UnitStat) (at_ : Option (Nat × Nat)) (member : Option Nat) : UnitStat :=
  match member, u.first with
  | none, _ => u
  | some m, none => { u with first := some m, stamp := at_ }
  | some m, some f => if at_.isSome && u.stamp == at_ && decide (m < f) then { u with first := some m } else u

/-- Whether a status block shows a fault; the arithmetic flags are no fault. -/
def UnitStat.faulty (u : UnitStat) : Bool := u.flags.any (fun p => decide (p.1 ≠ 0x404) && decide (p.1 ≠ 0x408) && p.2 != 0)

/-- Clear flags of one register in a unit's own status block (R24). -/
def UnitStat.clear (u : UnitStat) (key mask : Nat) : UnitStat :=
  let v := Tab.get 0 u.flags key
  let u : UnitStat := { u with flags := Tab.set 0 u.flags key (v - (v &&& mask)) }
  if u.faulty then u else { u with first := none, stamp := none }

/-- The logical slots that have raised a fault which no status block has recorded, in ascending order. -/
def Ring.freshSlots (r : Ring) : List Nat := (List.range r.cl.length).filter (fun k => (r.get k).fresh)

/-- The ring's status block takes its clusters' flags, its own, and the lowest member whose fault has come in ring cycle `u`; a
cause of the ring itself names none there, and is the ring's to the units above (R22, R23). -/
def Ring.gather (r : Ring) (u : Nat) : Ring :=
  let slots := r.freshSlots
  let unit := (r.cl.foldl (fun u c => u.take c.sticky) r.unit).take [(0x308, r.tt.fault.toNat), (0x10008, r.tr.fault.toNat)]
  if slots.isEmpty && !r.fresh then { r with unit := unit }
  else { r.each (fun _ c => { c with fresh := false }) with
    fresh := false, unit := unit.mark (some (0, u)) slots.head?, news := r.news ++ [(u, slots)] }

/-- R24: a W1C at the ring's status block clears the flags in the ring and in every cluster of it. -/
def Ring.clearFlags (r : Ring) (key : Nat) (mask : BitVec 32) : Ring :=
  let r : Ring := { r with unit := r.unit.clear key mask.toNat }
  if key = 0x308 then { r with tt := { r.tt with fault := r.tt.fault &&& ~~~ mask.setWidth 4 } }
  else if key = 0x10008 then
    let left := r.tr.fault &&& ~~~ mask.setWidth 3
    { r with tr := { r.tr with fault := left, marked := r.tr.marked && left != 0 } }
  else r.each (fun _ c => c.writeReg key mask)

/-! ## Time -/

/-- The ring cycle in which the next thing comes about in a cluster or for a ring-scope post. -/
def Ring.nextDue (r : Ring) : Option Nat :=
  let cs := r.cl.filterMap (fun c => c.agenda.head?.map (·.at_))
  let ps := (r.posts.filter (·.isRing)).map (fun p =>
    (r.cl.filterMap (fun c => c.coverNext p.issued)).foldl max (p.issued + 3))
  match cs ++ ps with
  | [] => none
  | x :: xs => some (xs.foldl min x)

/-- What the ring takes from its clusters after ring cycle `u`: submissions and the optimizer phase by
logical slot 0 alone (R217, R306). -/
def Ring.harvest (r : Ring) (u : Nat) : Ring :=
  let c0 := r.get 0
  let r := c0.subs.foldl (fun r p => r.submit u p.1 p.2) r
  let r : Ring := { r with optph := r.optph || (c0.optw == some true) }
  (r.each (fun _ c => { c with subs := [], optw := none })).gather u

/-- Ring cycle `u` as a whole. -/
def Ring.cycle (r : Ring) (ring u : Nat) : Ring :=
  let r := r.each (fun k c => c.cycle ring r.wakes k u)
  (r.harvest u).postRing u

def Ring.settleAux (ring t : Nat) : Nat → Ring → Ring
  | 0, r => r
  | n + 1, r =>
    match r.nextDue with
    | some u => if u < t then Ring.settleAux ring t n (r.cycle ring u) else r
    | none => r

/-- The buffer that holds the current leg. -/
def RingTt.current (x : RingTt) : LegBuf := if x.cur then x.buf1 else x.buf0

/-- The leg of a bundle index (R166). -/
def legOf (b : Nat) : Nat := b / 8192

/-- The bundle of an index, where the current buffer holds it (R166). -/
def RingTt.bundleAt (x : RingTt) (b : Nat) : Option (BitVec 512) :=
  if x.current.leg = legOf b then x.current.bundles[b % 8192]? else none

/-- The commands of the bundle of an index; none where the buffer does not hold it. -/
def RingTt.stored (x : RingTt) (i : Issue) (b : Nat) : Option (List Instr) :=
  (x.bundleAt b).map (fun w => bundleInstrs i w.toNat)

/-- How many of the next `n` bundles from `b` on carry no operation. -/
def RingTt.empties (x : RingTt) : Nat → Nat → Nat
  | 0, _ => 0
  | n + 1, b => match x.stored ⟨0, 0⟩ b with
    | some [] => 1 + RingTt.empties x n (b + 1)
    | _ => 0

/-- Whether every slot of the last bundle has issued (R174). -/
def RingTt.whole (x : RingTt) : Bool :=
  x.at_.isNone || (match x.stored ⟨0, 0⟩ x.bidx with
    | some l => decide (l.length ≤ x.used.length)
    | none => true)

/-- Bundles that carry no operation issue in the ring cycles before `t`, once the last bundle is whole (R153, R174). -/
def RingTt.flow (x : RingTt) (t : Nat) : RingTt :=
  if x.current.bundles.isEmpty || !x.whole then x
  else
    let n := x.empties (min (t - x.nextCycle) 8192) x.next
    if n = 0 then x
    else { x with
      bidx := x.next + (n - 1), at_ := some (x.nextCycle + (n - 1)), used := []
      next := x.next + n, nextCycle := x.nextCycle + n }

/-- Ring cycles that pass up to the start of ring cycle `t`: hold and Trestle counters, the end of a coast, bundles that carry no
operation (R153, R165, R180, R237). -/
def Ring.pass (r : Ring) (t : Nat) : Ring :=
  let d := t - r.now
  let x : RingTt := { r.tt with
    holdcnt := r.tt.holdcnt + (if r.tt.hold.isSome then d else 0)
    run := if r.tt.run = .coasting ∧ r.tt.coastEnd ≤ t then .issuing else r.tt.run }
  { r with
    now := max t r.now
    worked := r.worked + (if r.awake ∧ r.tt.run ≠ .halted then d else 0)
    tt := if x.run = .issuing then x.flow t else x
    tr := { r.tr with busy := r.tr.busy + (if r.tr.run.isSome then d else 0) } }

/-- Bring the ring to the start of ring cycle `t`: everything of earlier ring cycles has come about, and
the results of ring cycle `t` have landed (R155). -/
def Ring.settle (r : Ring) (ring t : Nat) : Ring :=
  let r := Ring.settleAux ring t (t + 1) r
  let r := r.each (fun _ c => c.landAll t)
  (r.harvest t).pass t

/-- Bring a ring that is at ring cycle `t` to its end: its accesses, joins and posts are made, once, and nothing more issues in it
(R153, R238). -/
def Ring.finish (r : Ring) (ring t : Nat) : Ring := if t < r.ended then r else { r.cycle ring t with ended := t + 1 }

/-- Whether the ring is issuing ordinary bundles. -/
def Ring.issuing (r : Ring) : Bool := r.awake && r.tt.run == .issuing

/-- Whether the current buffer holds, at bundle index `b`, a command of the kind `p` (R166, R174). A ring whose buffer holds
no bundle has been given none; no ring that has been started is in that state. -/
def RingTt.holdsCmd (x : RingTt) (i : Issue) (b : Nat) (p : Instr → Bool) : Bool :=
  x.current.bundles.isEmpty || (match x.stored i b with
    | some l => l.any p
    | none => false)

/-- The bundle index of ring cycle `t` (R153, R165): a bundle issues in the ring cycle after the one before it, each whole
before the next. None where no bundle issues in that ring cycle: the last one issued in a later one, one that holds a
command has been left out, or a hold has been released in it (R168). -/
def RingTt.indexAt (x : RingTt) (t : Nat) : Option Nat :=
  if x.nextCycle ≤ t then
    if x.current.bundles.isEmpty then some (x.next + (t - x.nextCycle))
    else if x.nextCycle = t ∧ x.whole = true then some x.next else none
  else if x.at_ = some t then some x.bidx
  else none

/-- Slot `k` of the bundle at index `b` issues in ring cycle `t`; none where another slot bars it (R99, R153). -/
def RingTt.enter (x : RingTt) (t b k : Nat) : Option RingTt :=
  if x.nextCycle ≤ t then
    some { x with bidx := b, next := b + 1, nextCycle := t + 1, at_ := some t, used := [k] }
  else if x.used.any (fun u => slotBars u k) then none
  else some { x with used := k :: x.used }

/-- Whether the bundle of ring cycle `t` leaves an FMA pipe empty: it holds no command for it, or the ring is at a coast or a
hold (R224). `k` is the pipe's slot number. -/
def Ring.leavesFree (r : Ring) (i : Issue) (k t : Nat) (p : Instr → Bool) : Bool :=
  if r.issuing then
    match r.tt.indexAt t with
    | some b =>
      (r.tt.current.bundles.isEmpty || !r.tt.holdsCmd i b p) && !(r.tt.at_ == some t && r.tt.used.contains k)
    | none => true
  else true

/-- The ring, at the start of ring cycle `t`, with slot `k` of its bundle issued; none where it is not issuing, its bundle
holds no command of the kind `p`, or the slot can no longer issue, the cycle being at its end or another slot barring it. -/
def Ring.entered (r : Ring) (i : Issue) (k : Nat) (p : Instr → Bool) (t : Nat) : Option Ring :=
  if r.issuing && decide (r.ended ≤ t) then
    match r.tt.indexAt t with
    | some b => if r.tt.holdsCmd i b p then (r.tt.enter t b k).map (fun x => { r with tt := x }) else none
    | none => none
  else none

/-- Slot `k` of the bundle of ring cycle `i.cycle` issues: the ring is brought to that cycle and does `f`. -/
def Ring.issue (r : Ring) (i : Issue) (k : Nat) (p : Instr → Bool) (f : Nat → Ring → Ring) : Ring :=
  if !r.awake then r
  else
    let t := max i.cycle r.now
    let r := r.settle i.ring t
    match r.entered i k p t with
    | some x => f t x
    | none => r

/-- Something other than a bundle comes about in ring cycle `c` of a ring that is awake. -/
def Ring.event (r : Ring) (ring c : Nat) (f : Nat → Ring → Ring) : Ring :=
  if !r.awake then r else f (max c r.now) (r.settle ring (max c r.now))

/-! ## Holds (R168 to R173) -/

/-- The engine stops its request and empties its queue, without a status word or a token (R234). -/
def Trestle.stop (x : Trestle) : Trestle := { x with run := none, queue := [] }

/-- The ring stops at the hold it is at (R173, R234). -/
def Ring.haltHere (r : Ring) : Ring :=
  { r with tt := { r.tt with hold := none, run := .halted }, tr := r.tr.stop }

/-- A hold bundle is reached in ring cycle `t`: a ring that has received a report stops there (R173). -/
def Ring.reach (r : Ring) (t : Nat) (k : HoldKind) : Ring :=
  if r.tt.report then r.haltHere
  else { r with tt := { r.tt with hold := some ⟨k, t, false⟩, run := .hold } }

def Cluster.quiet (c : Cluster) : Bool :=
  c.agenda.isEmpty && !c.bat.open_ && c.xq.isEmpty && c.xfers.all (·.isNone) &&
    c.eng.all (fun e => e.st == .stopped) && c.mx.st == .off

def Cluster.pipesIdle (c : Cluster) (t : Nat) : Bool :=
  decide (c.vec.va ≤ t ∧ c.vec.vb ≤ t ∧ c.vec.vc ≤ t ∧ c.vec.ls ≤ t)

def RingTt.holds (x : RingTt) (leg : Nat) : Bool :=
  (x.buf0.whole && x.buf0.leg == leg) || (x.buf1.whole && x.buf1.leg == leg)

/-- `SWAIT`: whether an engine reports ready (R185, R186). -/
def StreamEng.ready (e : StreamEng) : Bool :=
  (e.st != .stopped) &&
    match e.dir with
    | .inbound => (if e.owed then e.h1 else e.h0) == .full
    | .outbound => (if e.owed then e.h1 else e.h0) == .owned

/-- Conditions that the ring decides by itself; span and device counters are the partition's (R169, R170,
R231). -/
def Ring.condition (r : Ring) (t : Nat) (shared : Scope → Nat → Nat) (k : HoldKind) : Bool :=
  match k with
  | .twait .cluster name n => r.cl.all (fun c => decide (n ≤ Tab.get 0 c.tok name))
  | .twait .ring name n => decide (n ≤ Tab.get 0 r.tok name)
  | .twait sc name n => decide (n ≤ shared sc name)
  | .swait mask => r.cl.all (fun c => (List.range 4).all (fun k =>
      !mask.toNat.testBit k || (c.eng.getD k .reset).ready))
  | .leg target => r.tt.holds (legOf target)
  | .fin => r.cl.all (fun c => c.quiet && c.pipesIdle t) && r.tr.held == 0
  | .start => r.tt.holds (legOf r.tt.next)

/-- A post to a shared counter in the ring's present cycle (R194). -/
def Ring.lateAdd (r : Ring) (sc : Scope) (name n : Nat) : Ring :=
  { r with late := (r.now, (sc, name, n) :: (if r.late.1 = r.now then r.late.2 else [])) }

/-- What a counter holds of posts applied in the ring's present cycle. -/
def Ring.lateOf (r : Ring) (sc : Scope) (name : Nat) : Nat :=
  if r.late.1 = r.now then
    (r.late.2.filter (fun x => x.1 == sc && x.2.1 == name)).foldl (fun a x => a + x.2.2) 0
  else 0

/-- Whether the ring is at the start of a ring cycle in which the counter of a hold may serve it: a shared counter serves at most
one ring in a ring cycle of the one served (R168, R195). -/
def Ring.mayTest (r : Ring) (k : HoldKind) : Bool :=
  decide (r.ended ≤ r.now) && (match k with
    | .twait sc name _ => !(r.gone.1 == r.now && r.gone.2.contains (sc, name))
    | _ => true)

/-- A shared counter has served another ring in the present ring cycle of this one (R195). -/
def Ring.passed (r : Ring) (sc : Scope) (name : Nat) : Ring :=
  { r with gone := (r.now, (sc, name) :: (if r.gone.1 = r.now then r.gone.2 else [])) }

/-- Make the buffer that holds a leg the current one. -/
def RingTt.selectLeg (x : RingTt) (leg : Nat) : RingTt :=
  if x.buf0.whole && x.buf0.leg == leg then { x with cur := false }
  else if x.buf1.whole && x.buf1.leg == leg then { x with cur := true }
  else x

/-- Start staging a leg into the buffer that is not current (R166). -/
def RingTt.stage (x : RingTt) (leg : Nat) : RingTt :=
  let has (b : LegBuf) : Bool := b.leg == leg && b.whole
  if has x.buf0 || has x.buf1 then x
  else if x.staging && (if x.cur then x.buf0 else x.buf1).leg == leg then x
  else if x.cur then { x with buf0 := ⟨leg, false, []⟩, staging := true }
  else { x with buf1 := ⟨leg, false, []⟩, staging := true }

/-- The buffer that is not current, into which staging copies. -/
def RingTt.other (x : RingTt) : LegBuf := if x.cur then x.buf0 else x.buf1

/-- The staged leg has arrived with its bundles. -/
def RingTt.staged (x : RingTt) (bundles : List (BitVec 512)) : RingTt :=
  if x.staging then
    let b : LegBuf := { x.other with whole := true, bundles := bundles }
    if x.cur then { x with buf0 := b, staging := false } else { x with buf1 := b, staging := false }
  else x

/-- Release in ring cycle `t` (Table 7.7, "At release"): what the ring itself consumes, and the bundle that
issues in ring cycle t + 1; an `END` works through the cycle of its release (R374). -/
def Ring.release (r : Ring) (t : Nat) (k : HoldKind) : Ring :=
  let r : Ring := { r with tt := { r.tt with
    hold := none, run := .issuing, holdcnt := r.tt.holdcnt + 1, nextCycle := t + 1, at_ := none }, now := max r.now t }
  match k with
  | .twait .cluster name n =>
    r.each (fun _ c => { c with tok := Tab.set 0 c.tok name (Tab.get 0 c.tok name - n) })
  | .twait .ring name n => { r with tok := Tab.set 0 r.tok name (Tab.get 0 r.tok name - n) }
  | .leg target => { r with tt := { r.tt.selectLeg (legOf target) with next := target } }
  | .fin => { r with tt := { r.tt with run := .halted, ended := true }, worked := r.worked + 1 }
  | .start => { r with tt := r.tt.selectLeg (legOf r.tt.next) }
  | _ => r

/-! ## Registers of the ring block (R180, R205) -/

def RingTt.rstate (x : RingTt) : Nat :=
  match x.run with
  | .halted => 0
  | .issuing => 1
  | .coasting => 2
  | .hold => match x.hold with
    | some ⟨.start, _, _⟩ => 4
    | _ => 3

def Ring.readReg (r : Ring) (off : Nat) : Nat :=
  if 0x400 ≤ off ∧ off < 0x800 then Tab.get 0 r.tok ((off - 0x400) / 4)
  else match off with
  | 0x300 => r.tt.bidx % 2 ^ 24 + 2 ^ 24 * r.tt.rstate
  | 0x304 => r.tt.buf0.leg % 2048 + 2048 * b2n r.tt.buf0.whole + 65536 * (r.tt.buf1.leg % 2048)
      + 2 ^ 27 * b2n r.tt.buf1.whole + 2 ^ 28 * b2n r.tt.staging + 2 ^ 29 * b2n r.tt.cur
  | 0x308 => r.tt.fbidx % 2 ^ 24 + 2 ^ 24 * r.tt.fslot + 2 ^ 28 * r.tt.fault.toNat
  | 0x30C => r.tt.limit
  | 0x310 => word64 r.tt.holdcnt false
  | 0x314 => word64 r.tt.holdcnt true
  | _ => 0

def Ring.writeReg (r : Ring) (off : Nat) (v : BitVec 32) : Ring :=
  match off with
  | 0x308 => (r.gather r.now).clearFlags 0x308 (v >>> 28)
  | 0x30C => { r with tt := { r.tt with limit := (if v = 0 then r.tt.limit else v.toNat) } }
  | _ => r

/-- Registers of the ring's Trestle block (R237). -/
def Trestle.readReg (x : Trestle) (off : Nat) : Nat :=
  match off with
  | 0x0 => x.held
      + (match x.run with
         | some q => 4096 * (leAt q.desc 0 1 % 16) + 65536 * (leAt q.desc 2 1 % 16)
         | none => 0)
      + 8 * b2n (decide (x.store.length < ((List.range 16).filter (bit x.image)).length))
  | 0x4 => x.store.foldl (fun a p => a ||| 2 ^ p.1) 0 + 65536 * (x.image % 65536)
  | 0x8 => x.bidx % 2 ^ 24 + 2 ^ 24 * x.fault.toNat
  | 0xC => word64 x.faddr false
  | 0x10 => word64 x.faddr true
  | 0x14 => x.lastCode + 65536 * x.lastOp + 2 ^ 20 * x.lastSched
  | 0x18 => word64 x.busy false
  | 0x1C => word64 x.busy true
  | 0x20 => word64 x.steal false
  | 0x24 => word64 x.steal true
  | _ => 0

def Trestle.writeReg (x : Trestle) (off : Nat) (v : BitVec 32) : Trestle :=
  match off with
  | 0x8 =>
    let left := x.fault &&& ~~~ (v >>> 24).setWidth 3
    { x with fault := left, marked := x.marked && left != 0 }
  | _ => x

/-! ## Power (R31, R63, R101, R240) -/

/-- The volatile state of a cluster is lost when the ring's power goes; SR streams, registers loaded at a
wake and the bypass are written again at the next wake (R98, R175, R323). -/
def Cluster.powerUp (sr : List SrStream) (bypass : Option Nat) : Cluster :=
  { Cluster.reset with sr := sr, mx := { Matrix.reset with bypass := bypass } }

end Sys2Proof.Machine
end

