-- ==== Sys2Proof/Machine/Ops.lean ====
section
/-! DEFINITION. Operations on the whole device that many commands share: its tables, the event log, order
completion and notifications, partition addresses, deck bytes, faults of a step, tokens. -/

namespace Sys2Proof.Machine

/-! ## Status codes (Table 0.6) -/

def stOk : Nat := 0x0000
def stConflict : Nat := 0x0101
def stBounds : Nat := 0x0102
def stOwnership : Nat := 0x0103
def stSignature : Nat := 0x0104
def stFormat : Nat := 0x0105
def stFaulted : Nat := 0x0201
def stPoisoned : Nat := 0x0202
def stRestore : Nat := 0x0203

/-! ## Tables -/

def State.ring (s : State) (i : Nat) : Ring := Tab.get .reset s.rings i
def State.setRing (s : State) (i : Nat) (r : Ring) : State := { s with rings := Tab.ins i r s.rings }
def State.span (s : State) (i : Nat) : Span := Tab.get .reset s.spans i
def State.setSpan (s : State) (i : Nat) (x : Span) : State := { s with spans := Tab.ins i x s.spans }
def State.deck (s : State) (i : Nat) : Deck := (s.span i).deck
def State.setDeck (s : State) (i : Nat) (d : Deck) : State := s.setSpan i { s.span i with deck := d }
def State.edge (s : State) (die side : Nat) : Edge := Tab.get .reset s.edges (die * 8 + side)
def State.setEdge (s : State) (die side : Nat) (e : Edge) : State :=
  { s with edges := Tab.ins (die * 8 + side) e s.edges }
def State.part (s : State) (i : Nat) : Partition := Tab.get .reset s.parts i
def State.setPart (s : State) (i : Nat) (p : Partition) : State := { s with parts := Tab.ins i p s.parts }
def State.siding (s : State) (i : Nat) : Siding := Tab.get .reset s.sidings i
def State.setSiding (s : State) (i : Nat) (x : Siding) : State := { s with sidings := Tab.ins i x s.sidings }
def State.port (s : State) (i : Nat) : Port := Tab.get .reset s.ports i
def State.setPort (s : State) (i : Nat) (p : Port) : State := { s with ports := Tab.ins i p s.ports }
def State.setGroup (s : State) (i : Nat) (g : Group) : State := { s with groups := Tab.ins i g s.groups }
def State.fn (s : State) (i : Nat) : Fn := Tab.get .reset s.fns i
def State.setFn (s : State) (i : Nat) (f : Fn) : State := { s with fns := Tab.ins i f s.fns }

def Port.half (p : Port) (h : Bool) : Link := if h then p.h1 else p.h0
def Port.setHalf (p : Port) (h : Bool) (l : Link) : Port := if h then { p with h1 := l } else { p with h0 := l }

/-- The cluster with a global number (R11). -/
def State.cluster (s : State) (g : Nat) : Cluster := (s.ring (g / 16)).get (g % 16)
def State.setCluster (s : State) (g : Nat) (c : Cluster) : State :=
  s.setRing (g / 16) ((s.ring (g / 16)).put (g % 16) c)

def State.emit (s : State) (o : Output) : State := { s with outbox := s.outbox ++ [o] }
def State.emits (s : State) (os : List Output) : State := { s with outbox := s.outbox ++ os }

/-- One entry of the operator's event log (R341): `part` 255 for none; `node` a device ring index, or 256 +
die; `reg` the register's offset or a model number of the event's rule; `cause` the bit or the status code. -/
def State.note (s : State) (part node reg cause : Nat) : State :=
  { s with log := s.log ++ [⟨s.power.tick, part, node, reg, cause⟩] }

/-- The log's node number of the signal box, DST code 22 (Table 11.2). -/
def nodeSb : Nat := 256 + 22

/-- A rejection, logged (R9, R336, R341). -/
def State.reject (s : State) (part code : Nat) : State := s.note part nodeSb 0 code

/-! ## Partitions -/

/-- The partition that holds a ring. -/
def State.partOf (s : State) (ring : Nat) : Option Nat :=
  (s.parts.find? (fun p => p.2.rings.contains ring)).map (·.1)

/-- The partition a VF is bound to. -/
def State.boundPart (s : State) (vf : Nat) : Option Nat :=
  (s.parts.find? (fun p => p.2.vf == some vf)).map (·.1)

/-- The partition that holds a region. -/
def State.regionHolder (s : State) (span region : Nat) : Option Nat :=
  (s.parts.find? (fun p => p.2.regions.contains (span * 256 + region))).map (·.1)

def Partition.exists_ (p : Partition) : Bool := p.st != .absent

/-- Regions held on a span, ascending. -/
def Partition.regionsOn (p : Partition) (span : Nat) : List Nat :=
  (p.regions.filter (fun r => r / 256 == span)).map (· % 256)

def Partition.ringOn (p : Partition) (span : Nat) : Bool := p.rings.any (fun r => r / 16 == span)

/-- The region table entry in force (R132, R141): region and whether it is writable. -/
def Partition.entry (p : Partition) (span k : Nat) : Option (Nat × Bool) :=
  match p.image with
  | some im =>
    let w := Tab.get 0 im.tables (span * 256 + k)
    if bit w 31 then some (w % 256, bit w 30) else none
  | none => (p.regionsOn span)[k]?.map (fun r => (r, true))

/-! ## Addresses (R10, R141, R190) -/

/-- Bytes of all decks. -/
def deckSpace : Nat := 2 ^ 36

/-- Where the region table sends a deck partition address: device address and whether the entry is writable. -/
def State.tableAddr (s : State) (part pa : Nat) : Option (Nat × Bool) :=
  if deckSpace ≤ pa then none
  else
    let span := pa / 2 ^ 32
    ((s.part part).entry span (bits pa 24 8)).map (fun x => (span * 2 ^ 32 + x.1 * 2 ^ 24 + pa % 2 ^ 24, x.2))

/-- Whether a device address lies in a withdrawn region (R259). -/
def State.withdrawnAt (s : State) (dev : Nat) : Bool := (s.deck (dev / 2 ^ 32)).withdrawn.contains (bits dev 24 8)

/-- Translate a deck partition address. A withdrawn region's entries are invalid (R259). -/
def State.translate (s : State) (part pa : Nat) : Option (Nat × Bool) :=
  (s.tableAddr part pa).filter (fun x => !s.withdrawnAt x.1)

/-- Partition addresses at which a range of `len` bytes enters a new region entry, its first byte included. -/
def entryStarts (pa len : Nat) : List Nat :=
  (List.range ((pa % 2 ^ 24 + len + 2 ^ 24 - 1) / 2 ^ 24)).map
    (fun k => if k = 0 then pa else (pa / 2 ^ 24 + k) * 2 ^ 24)

/-- Whether a range translates through valid entries, writable ones where asked. -/
def State.maps (s : State) (part pa len : Nat) (write : Bool) : Bool :=
  decide (pa + len ≤ deckSpace) && (entryStarts pa len).all (fun a =>
    match s.translate part a with
    | some (_, w) => w || !write
    | none => false)

/-- The local store window of a device address, as global cluster number and offset (R10, Table 17.4). -/
def windowOf (a : Nat) : Option (Nat × Nat) :=
  if 0x010000000000 ≤ a ∧ a < 0x010200000000 then
    some ((a - 0x010000000000) / 0x200000, (a - 0x010000000000) % 0x200000)
  else none

/-- The device address of an offset of a cluster's local store window (R10). -/
def windowAt (g a : Nat) : Nat := 0x010000000000 + g * 0x200000 + a

/-- Whether a cluster lies in a partition. -/
def Partition.hasCluster (p : Partition) (g : Nat) : Bool := p.rings.contains (g / 16)

/-- A range of local store windows lies in clusters of the partition (R190). -/
def State.inWindows (s : State) (part a len : Nat) : Bool :=
  match windowOf a, windowOf (a + (len - 1)) with
  | some (g, _), some (h, _) =>
    (List.range (h + 1 - g)).all (fun k => (s.part part).hasCluster (g + k))
  | _, _ => false

/-- The partition address of a device address under the entries in force, if it has one. -/
def State.backward (s : State) (part dev : Nat) : Option Nat :=
  let span := dev / 2 ^ 32
  let r := bits dev 24 8
  ((List.range 256).find? (fun k => match (s.part part).entry span k with
    | some (x, _) => x == r
    | none => false)).map (fun k => span * 2 ^ 32 + k * 2 ^ 24 + dev % 2 ^ 24)

/-! ## Deck bytes -/

/-- The granule of a device address within its span's deck. -/
def granuleOf (dev : Nat) : Nat := dev % 2 ^ 32 / 64

def State.poisoned (s : State) (dev : Nat) : Bool :=
  (s.deck (dev / 2 ^ 32)).poison.contains (granuleOf dev)

/-- Device addresses of the granules a range touches; the range lies in one region entry. -/
def granules (dev len : Nat) : List Nat :=
  if len = 0 then [] else
    (List.range ((dev % 64 + len + 63) / 64)).map (fun k => (dev / 64 + k) * 64)

def State.deckBytes (s : State) (dev n : Nat) : List Byte := Tab.getRun deckFill s.mem dev n

/-- Put bytes into the deck. -/
def State.putBytes (s : State) (dev : Nat) (bs : List Byte) : State :=
  { s with mem := Tab.setRun deckFill s.mem dev bs }

/-- Deck cycles with data on a channel bus (`DK_BUSY`). -/
def State.busyCycles (s : State) (span n : Nat) : State :=
  let d := s.deck span
  s.setDeck span { d with busy := (d.busy + n) % 2 ^ 64 }

/-- The granules of a range enter the write buffer (R251). -/
def State.buffer (s : State) (dev len : Nat) : State :=
  let span := dev / 2 ^ 32
  s.setDeck span ((granules dev len).foldl (fun d g => d.put (g % 2 ^ 32)) (s.deck span))

/-- A range is read: each granule is an access of its channel (R254), and those that the write buffer does not hold take a deck
cycle of the bus. -/
def State.fetch (s : State) (dev len : Nat) : State :=
  let span := dev / 2 ^ 32
  let d := s.deck span
  let gs := (granules dev len).map (· % 2 ^ 32)
  (s.setDeck span (gs.foldl Deck.look d)).busyCycles span
    (gs.filter (fun g => !d.holds g)).length

/-- Clear the poison bits of the granules a write covers whole (R257). -/
def State.clearPoison (s : State) (dev len : Nat) : State :=
  let span := dev / 2 ^ 32
  let d := s.deck span
  if d.poison.isEmpty then s
  else s.setDeck span { d with poison := d.poison.filter (fun g =>
    !(decide (dev % 2 ^ 32 ≤ g * 64) && decide (g * 64 + 64 ≤ dev % 2 ^ 32 + len))) }

/-- Whether a write would merge into a poisoned granule (R251, R257). -/
def State.mergesPoison (s : State) (dev len : Nat) : Bool :=
  (granules dev len).any (fun g => s.poisoned g && !(decide (dev ≤ g) && decide (g + 64 ≤ dev + len)))

/-- Whether a range holds a poisoned granule. -/
def State.anyPoison (s : State) (dev len : Nat) : Bool := (granules dev len).any s.poisoned

/-- Cut a run of bytes at region entries: partition address and bytes of each piece. -/
def cutEntries (pa : Nat) (bs : List Byte) : List (Nat × List Byte) :=
  (entryStarts pa bs.length).map (fun a =>
    (a, (bs.drop (a - pa)).take ((a / 2 ^ 24 + 1) * 2 ^ 24 - a)))

/-- The signal box reads a range of a partition's deck; none where an entry is invalid or a granule is
poisoned (R437). -/
def State.readPart (s : State) (part pa n : Nat) : Option (List Byte) :=
  (entryStarts pa n).foldl (fun acc a =>
    match acc with
    | none => none
    | some l =>
      let len := min ((a / 2 ^ 24 + 1) * 2 ^ 24) (pa + n) - a
      match s.translate part a with
      | none => none
      | some (dev, _) => if s.anyPoison dev len then none else some (l ++ s.deckBytes dev len)) (some [])

/-- The deck cycles of a read by partition address. -/
def State.fetchPart (s : State) (part pa n : Nat) : State :=
  (cutEntries pa (List.replicate n 0)).foldl (fun s p =>
    match s.translate part p.1 with
    | some (dev, _) => s.fetch dev p.2.length
    | none => s) s

/-- Whether a write by partition address would merge into a poisoned granule. -/
def State.partMerges (s : State) (part pa : Nat) (bs : List Byte) : Bool :=
  (cutEntries pa bs).any (fun p => match s.translate part p.1 with
    | some (dev, _) => s.mergesPoison dev p.2.length
    | none => false)

/-- Zero a region, granule by granule, and clear its poison bits (R263); what waited to be written there is gone, and the granules that the scrub has written already are
not written again. -/
def State.zeroRegion (s : State) (span region : Nat) : State :=
  let base := span * 2 ^ 32 + region * 2 ^ 24
  let d := s.deck span
  let done := d.scrubbed.filter (fun g => g / 2 ^ 18 == region)
  { s with
    mem := Tab.clear s.mem base (2 ^ 24), stalled := s.stalled.filter (fun x => x.1 / 2 ^ 24 ≠ base / 2 ^ 24) }.setDeck span
    { d with
      poison := d.poison.filter (fun g => g / 2 ^ 18 ≠ region), scrubbed := d.scrubbed.filter (fun g => g / 2 ^ 18 ≠ region)
      busy := (d.busy + (2 ^ 18 - done.length)) % 2 ^ 64 }

/-! ## MSI-X, orders, notifications (R417, R418) -/

/-- How a function's TLPs travel: in its selective stream, else in the link stream, else in the clear (R364). -/
def State.via (s : State) (f : Nat) : Via :=
  if (s.fn f).ideActive then .selective else if (s.fn 0).linkActive then .link else .clear

/-- A TLP error is reported through AER on the function concerned (R420), as a bit of its uncorrectable error status. PRESUMED
(log entry 86): bit 12 a poisoned TLP, bit 20 an unsupported request, bit 22 an internal error; from bit 32 on the correctable
errors, of which bit 6 is a TLP that the link received in error. -/
def State.aerError (s : State) (f b : Nat) : State :=
  (s.setFn f { s.fn f with aer := (s.fn f).aer ||| 2 ^ b }).emit (.aer f)

/-- A message for vector `v` of a function: sent, or pending while masked. -/
def State.msix (s : State) (f v : Nat) : State :=
  let x := s.fn f
  if !x.msix.enable then s
  else if x.mutes v then
    s.setFn f { x with msix := { x.msix with pend := setIns v x.msix.pend } }
  else s.emit (.msix f v (s.via f))

/-- Pending messages of vectors that are no longer masked are sent. -/
def State.sendPend (s : State) (f : Nat) (vs : List Nat) : State :=
  vs.foldl (fun s v =>
    let x := s.fn f
    let m := x.msix
    if m.pend.contains v && m.enable && !x.mutes v then
      (s.setFn f { x with msix := { m with pend := setDel v m.pend } }).emit (.msix f v (s.via f))
    else s) s

/-- Byte offset of an order slot in its function's order book. -/
def slotAt (slot : Nat) : Nat := slot * 128

def State.bookBytes (s : State) (f o n : Nat) : List Byte := Tab.getRun 0 (s.fn f).book o n
def State.putBook (s : State) (f o : Nat) (bs : List Byte) : State :=
  s.setFn f { s.fn f with book := Tab.setRun 0 (s.fn f).book o bs }

def State.slotState (s : State) (f slot : Nat) : Nat := leNat (s.bookBytes f (slotAt slot) 1)

/-- R417 step 4: RESULT, DETAIL and STATUS are written, then STATE = DONE, and vector 0 is signalled. An order whose
results are discarded (R419) names no function. -/
def State.complete (s : State) (f slot code detail : Nat) (result : List (Nat × List Byte)) : State :=
  if 64 ≤ f then s else
  let o := slotAt slot
  let s := s.putBook f (o + 64) (List.replicate 64 0)
  let s := result.foldl (fun s p => s.putBook f (o + p.1) p.2) s
  let s := s.putBook f (o + 4) (toLe 4 detail)
  let s := s.putBook f (o + 2) (toLe 2 code)
  (s.putBook f o [3]).msix f 0

/-- Complete an order that was rejected: nothing else changes, and the rejection is logged. -/
def State.completeBad (s : State) (f slot part code : Nat) : State :=
  (s.complete f slot code 0 []).reject part code

/-- A notification of the partition's tenancy (R418). -/
def State.notify (s : State) (part kind arg : Nat) : State :=
  match (s.part part).vf with
  | none => s
  | some f =>
    let x := s.fn f
    let l := x.notices ++ [⟨x.prod, kind, arg⟩]
    (s.setFn f { x with notices := l.drop (l.length - 64), prod := (x.prod + 1) % 2 ^ 32 }).msix f 1

/-- The operator is notified (R341: an entry of the event log; log entry 34). -/
def State.notifyOperator (s : State) (part reg arg : Nat) : State := s.note part nodeSb reg arg

def State.session (s : State) (i : Nat) : Option Session := s.il.sessions.getD i none
def State.setSession (s : State) (i : Nat) (x : Option Session) : State :=
  { s with il := { s.il with sessions := s.il.sessions.set i x } }

/-- A reply on a management session (R421): its own sequence number is above the last one sent there (R368), and it carries the
command's and the session's tag. -/
def State.reply (s : State) (h : Mgmt) (code : Nat) (data : List Nat) : State :=
  match s.session h.sess.val with
  | some x => (s.setSession h.sess.val (some { x with tx := x.tx + 1 })).emit (.reply h.sess.val (x.tx + 1) h.seq code data
      (messageTag x.key replyType (x.tx + 1) (replyBody h.seq code (data.flatMap (toLe 8)))))
  | none => s.emit (.reply h.sess.val 0 h.seq code data (List.replicate 48 0))

/-- Answer an origin: complete its slot, or reply to its message. -/
def State.answer (s : State) (o : Origin) (code : Nat) (data : List Nat) : State :=
  match o with
  | .slot f k => s.complete f k code 0 []
  | .mgmt h => s.reply h code data

/-! ## Faults of a step (R28, R173, R308) -/

def Partition.stepJob (p : Partition) : Option StepJob :=
  match p.job with
  | .step j => some j
  | _ => none

/-- Change the step in progress, if there is one. -/
def State.onStep (s : State) (part : Nat) (f : StepJob → StepJob) : State :=
  let p := s.part part
  match p.job with
  | .step j => s.setPart part { p with job := .step (f j) }
  | _ => s

/-- Deliver a halt or fault report to a ring (R173): from now on it stops at the next hold it reaches. A ring that
is halted or asleep has nothing to stop. -/
def Ring.receiveReport (r : Ring) : Ring :=
  if r.awake && (r.tt.run != .halted) then { r with tt := { r.tt with report := true } } else r

def State.reportAll (s : State) (part : Nat) : State :=
  (s.part part).rings.foldl (fun s i => s.setRing i (s.ring i).receiveReport) s

/-- Whether a step runs whose commit point has not passed. -/
def State.stepOpen (s : State) (part : Nat) : Bool :=
  match (s.part part).stepJob with
  | some j => !j.committed
  | none => false

/-- A fault outside the rings faults the step; `prog` when the step is not to be repeated. -/
def State.faultStep (s : State) (part : Nat) (prog : Bool) : State :=
  if s.stepOpen part then
    (s.onStep part (fun j => { j with faulted := true, prog := j.prog || prog })).reportAll part
  else s

/-- A hardware fault outside the rings (R28). -/
def State.hardFault (s : State) (part addr : Nat) : State :=
  if s.stepOpen part then
    (s.onStep part (fun j => { j with faulted := true, faults := j.faults ++ [(256, 0, .streamMem addr)] })).reportAll part
  else s

/-! ## Transfers (R191) -/

/-- Why an access is not made. DESIGN CHOICE (log entry 86): of several causes ALIGN comes first, then XLATE, then WPROT. -/
def State.accessFault (s : State) (part a len : Nat) (write : Bool) : Option (BitVec 6) :=
  if a % 8 ≠ 0 then some sfAlign
  else if a < deckSpace then
    if !s.maps part a len false then some sfXlate
    else if write && !s.maps part a len true then some sfWprot else none
  else if s.inWindows part a len then none else some sfXlate

/-- Put a value into the first empty place. -/
def firstFree {α : Type} (x : α) : List (Option α) → List (Option α)
  | [] => []
  | none :: l => some x :: l
  | some y :: l => some y :: firstFree x l

/-- R191: check a descriptor that has been read; a transfer that passes is outstanding from then on. DESIGN CHOICE (log entry 86): a
LOCAL past the local store, or a REMOTE of the wrong kind, is XLATE, after ALIGN; `XMOVE` moves from LOCAL to REMOTE; and
`CL_STFADDR` takes REMOTE whatever failed. -/
def State.checkXfer (s : State) (part : Nat) (c : Cluster) (x : XSub) : Cluster :=
  let remote := leAt x.desc 0 8
  let near := leAt x.desc 8 4 % 2 ^ 21
  let len := leAt x.desc 12 4
  let route := leAt x.desc 16 2
  let isDeck := decide (remote < deckSpace)
  let bad : Option (BitVec 6) :=
    if len % 8 ≠ 0 ∨ len < 8 ∨ 0x200000 < len ∨ near % 8 ≠ 0 then some sfAlign
    else if 0x200000 < near + len then some sfXlate
    else match x.op with
      | .get => if isDeck ∨ remote % 8 ≠ 0 then s.accessFault part remote len false else some sfXlate
      | .put => if isDeck ∨ remote % 8 ≠ 0 then s.accessFault part remote len true else some sfXlate
      | .move => if isDeck ∧ remote % 8 = 0 then some sfXlate else s.accessFault part remote len true
  match bad with
  | some b => c.sfault b 4 (some remote)
  | none =>
    let out : Bool := match x.op with | .get => false | _ => true
    { c with xfers := firstFree ⟨x.op, ⟨out, remote, near, len, 0, 0, [], false, x.jr⟩, x.scope, x.name, route⟩ c.xfers }

/-- Take up the descriptors a ring's clusters have read. -/
def State.takeXfers (s : State) (ring : Nat) : State :=
  match s.partOf ring with
  | none => s
  | some part =>
    let r := s.ring ring
    if r.cl.all (fun c => c.xq.isEmpty) then s
    else s.setRing ring (r.each (fun _ c =>
      { c.xq.foldl (fun c x => s.checkXfer part c x) { c with xq := [] } with xq := [] }))

/-- The span takes a ring's work (R374). -/
def State.takeWork (s : State) (ring : Nat) : State :=
  let r := s.ring ring
  if r.worked = 0 then s
  else
    let s := s.setRing ring { r with worked := 0 }
    match s.partOf ring with
    | none => s
    | some part =>
      let sp := s.span (ring / 16)
      let w := Tab.get ⟨0, 0⟩ sp.work part
      s.setSpan (ring / 16) { sp with work := Tab.ins part { w with cum := (w.cum + 16 * r.worked) % 2 ^ 64 } sp.work }

/-- The partition's optimizer phase begins when its first ring enters (R306). -/
def State.takePhase (s : State) (ring : Nat) : State :=
  match s.partOf ring with
  | none => s
  | some part =>
    let p := s.part part
    if (s.ring ring).optph && !p.opt then
      s.setPart part { p with
        opt := true, optAt := (List.range 16).map (fun k => (k, (s.deck k).now)) ++ [(256, ring), (257, (s.ring ring).now)] }
    else s

/-- The flags that a ring gives a consist: its whole status block where the ring lies in the consist as a unit, else those of the
clusters of it that the consist holds (R22). -/
def Image.flagsFor (im : Image) (c : Consist) (i : Nat) (r : Ring) : List (Nat × Nat) :=
  if (im.ringsIn (im.nested 5 c)).contains i then r.unit.flags
  else ((im.clustersOf 5 c).filter (fun g => g / 16 == i)).flatMap (fun g => (r.get (g % 16)).sticky)

/-- The lowest member of a consist among those that some slots of a ring lie in; without slots, the one that holds the ring as a
unit (R23). -/
def Image.firstOf (im : Image) (c : Consist) (i : Nat) (slots : List Nat) : Option Nat :=
  if slots.isEmpty then (if (im.ringsIn (im.nested 5 c)).contains i then im.memberOf c (i * 16) else none)
  else match slots.filterMap (fun k => im.memberOf c (i * 16 + k)) with
  | [] => none
  | x :: xs => some (xs.foldl min x)

/-- A unit above a ring takes its flags and, ring cycle by ring cycle, the member that its faults lie in. -/
def UnitStat.takeNews (u : UnitStat) (i : Nat) (timed : Bool) (flags : List (Nat × Nat)) (news : List (Nat × List Nat))
    (member : List Nat → Option Nat) : UnitStat :=
  news.foldl (fun u x => u.mark (if timed then some (i, x.1) else none) (member x.2)) (u.take flags)

/-- The status blocks of a ring, its span and the consists that hold clusters of it take its flags, and the member whose fault
comes first (R22, R23); `timed` says that the faults came about in the ring's present cycle. -/
def State.takeFlagsAs (s : State) (i : Nat) (timed : Bool) : State :=
  let r := (s.ring i).gather (s.ring i).now
  if r.unit.flags.isEmpty then s
  else
    let news := r.news
    let s := s.setRing i { r with news := [], unit := if timed || news.isEmpty then r.unit else { r.unit with stamp := none } }
    let sp := s.span (i / 16)
    let s := s.setSpan (i / 16) { sp with unit := sp.unit.takeNews i timed r.unit.flags news (fun _ => some (i % 16)) }
    match s.partOf i with
    | none => s
    | some part =>
      let p := s.part part
      match p.image with
      | none => s
      | some im => s.setPart part { p with units := im.consists.foldl (fun m c =>
          Tab.ins c.id ((Tab.get .reset m c.id).takeNews i timed (im.flagsFor c i r) news (im.firstOf c i)) m) p.units }

def State.takeFlags (s : State) (i : Nat) : State := s.takeFlagsAs i true

/-! ## The token ports of units above the ring (R22) -/

/-- The least of several counts. -/
def lowest : List Nat → Nat
  | [] => 0
  | x :: xs => xs.foldl min x

/-- Member `m` of `count` has posted `n` of a name: how many of its own tokens the unit posts by that, and its port. -/
def TokPort.post (p : TokPort) (count m name n : Nat) : Nat × TokPort :=
  let had := Tab.set 0 p.had (m * 256 + name) (Tab.get 0 p.had (m * 256 + name) + n)
  let k := lowest ((List.range count).map (fun j => Tab.get 0 had (j * 256 + name)))
  (k, { tok := Tab.set 0 p.tok name (min (Tab.get 0 p.tok name + k) (2 ^ 32 - 1))
        had := if k = 0 then had else (List.range count).foldl (fun h j =>
          Tab.set 0 h (j * 256 + name) (Tab.get 0 h (j * 256 + name) - k)) had })

/-- A post by the unit `x` of a kind reaches the consists that have it as a member, and from those that every member has posted to
the consists above; `fuel` bounds the nesting. -/
def Image.postUp (im : Image) : Nat → Nat → Nat → Nat → Nat → Tab TokPort → Tab TokPort
  | 0, _, _, _, _, m => m
  | fuel + 1, kind, x, name, n, m =>
    (im.consists.filter (fun c => c.kind == kind && c.members.contains x)).foldl (fun m c =>
      let y := (Tab.get .reset m c.id).post c.members.length (c.members.idxOf x) name n
      let m := Tab.ins c.id y.2 m
      if y.1 = 0 then m else Image.postUp im fuel 3 c.id name y.1 m) m

/-- The key of a span's token port. -/
def spanFace (k : Nat) : Nat := 65536 + k

/-- A post of ring `i` reaches its span's port and the consists above. -/
def Image.ringPost (im : Image) (i name n : Nat) (m : Tab TokPort) : Tab TokPort :=
  let y := (Tab.get .reset m (spanFace (i / 16))).post 16 (i % 16) name n
  let m := im.postUp 5 1 i name n (Tab.ins (spanFace (i / 16)) y.2 m)
  if y.1 = 0 then m else im.postUp 5 2 (i / 16) name y.1 m

/-- The posts to a ring's counters and to its clusters' reach the units above. DESIGN CHOICE (log entry 81): what a member's
counter takes is what that member has posted, and a span's own tokens are not its counters of R193. -/
def State.takePosts (s : State) (i : Nat) : State :=
  let r := s.ring i
  if r.posted.isEmpty && r.cl.all (fun c => c.posted.isEmpty) then s
  else
    let s := s.setRing i { r.each (fun _ c => { c with posted := [] }) with posted := [] }
    match s.partOf i with
    | none => s
    | some part =>
      let p := s.part part
      match p.image with
      | none => s
      | some im =>
        let m := (List.range r.cl.length).foldl (fun m k => (r.get k).posted.foldl (fun m x =>
          im.postUp 5 0 (i * 16 + k) x.1 x.2 m) m) p.faces
        s.setPart part { p with faces := r.posted.foldl (fun m x => im.ringPost i x.1 x.2 m) m }

/-- Do something to a ring, and take from it what reaches the rest of the device. -/
def State.atRing (s : State) (i : Nat) (f : Ring → Ring) : State :=
  (((((s.setRing i (f (s.ring i))).takeXfers i).takeWork i).takePhase i).takePosts i).takeFlags i

/-! ## Tokens (R193 to R196) -/

/-- A span- or device-scope counter that the partition's rings on a span share. -/
def Partition.counter (p : Partition) (span : Nat) (sc : Scope) (name : Nat) : Nat :=
  match sc with
  | .span => Tab.get 0 p.spanTok (span * 256 + name)
  | .device => Tab.get 0 p.devTok name
  | _ => 0

def Partition.setCounter (p : Partition) (span : Nat) (sc : Scope) (name v : Nat) : Partition :=
  match sc with
  | .span => { p with spanTok := Tab.set 0 p.spanTok (span * 256 + name) v }
  | .device => { p with devTok := Tab.set 0 p.devTok name v }
  | _ => p

/-- Add to a counter at span or device scope; an overflow is recorded in a cluster (R196). -/
def State.postShared (s : State) (part span : Nat) (sc : Scope) (name n src cluster : Nat) : State :=
  let p := s.part part
  let v := p.counter span sc name + n
  if v < 2 ^ 32 then s.setPart part (p.setCounter span sc name v)
  else
    ((s.setPart part (p.setCounter span sc name (2 ^ 32 - 1))).setCluster cluster
      ((s.cluster cluster).sfault sfTokovf src none)).takeFlagsAs (cluster / 16) false

/-- A post of a ring to a counter its partition shares: holds of the ring see it from the next ring cycle on (R194). -/
def State.postLate (s : State) (ring : Nat) (sc : Scope) (name n src cluster : Nat) : State :=
  match s.partOf ring with
  | none => s
  | some part =>
    (s.setRing ring ((s.ring ring).lateAdd sc name n)).postShared part (ring / 16) sc name n src cluster

/-- Add 1 to a counter of any scope on behalf of a cluster, in its ring's present cycle (`S.POST`, transfers). A cluster
counter takes it at the end of that cycle and a ring counter no earlier than Table 7.7 lets a hold see it (R194). -/
def State.postFrom (s : State) (g : Nat) (sc : Scope) (name src : Nat) : State :=
  let r := s.ring (g / 16)
  match sc with
  | .cluster => s.setCluster g ((s.cluster g).due r.now r.now 30 (.add name src))
  | .ring => s.setRing (g / 16) { r with posts := r.posts ++ [⟨.ring, name, 1, r.now, src, g % 16, false⟩] }
  | sc => s.postLate (g / 16) sc name 1 src g

/-- The first cell of THERMTRIP_N in the boundary register (R432). -/
def cellTherm : Nat := 593

/-- The level THERMTRIP_N shows: low after a trip, whatever its cell holds (R434). -/
def State.driveTherm (s : State) : State :=
  let cell := match s.tap.holding with
    | some .highz => true
    | some _ => s.tap.cells.getD cellTherm true
    | none => true
  { s with lands := { s.lands with thermtrip := !s.power.tripped && cell } }

/-- Nothing but PERST# keeps the device in reset: no lost reference, no trip, no land, no rail with an open sense pair, no
instruction of the test port (R406, R407, R429, R434). -/
def State.released (s : State) : Bool :=
  !s.power.refLost && !s.power.tripped && s.lands.pwrok && s.lands.sysRst && s.lands.openSense.isEmpty && s.tap.holding.isNone

/-- What wakes the signal box's CORES domain: it comes on where the signal box has its power (R395). -/
def State.rouse (s : State) : State :=
  { s with power := { s.power with cores := s.power.cores || s.power.sbOn } }

/-- `n` bytes of the DRBG. -/
def State.random (s : State) (n : Nat) : List Byte × State :=
  (Config.cryptoBytes [21, s.il.bootcnt, s.il.drbg] n, { s with il := { s.il with drbg := s.il.drbg + 1 } })

/-- A fresh index of the device's free values. -/
def State.draw (s : State) : Nat × State := (s.free, { s with free := s.free + 1 })

end Sys2Proof.Machine
end

