-- ==== Sys2Proof/Machine/DeckQueue.lean ====
section
/-! DEFINITION. The requests that wait at a deck's channels, and the order in which they are served (R248, R251, R254, R260). -/

namespace Sys2Proof.Machine

/-! ## Requesters -/

/-- Device address, within all decks, of a request. -/
def devOf (x : DeckAcc) : Nat := x.span.val * 2 ^ 32 + x.addr.toNat

/-- The job a client's accesses serve. -/
def State.jobOf (s : State) (who : Client) : Option Job :=
  match who with
  | .stream cl e => ((s.cluster cl.val).eng.getD e.val .reset).jobs.head?
  | .transfer cl k => ((s.cluster cl.val).xfers.getD k.val none).map (·.job)
  | _ => none

/-- Whether a client keeps a job, whose requests stand in a channel's queue until they are served. -/
def keepsJob : Client → Bool
  | .stream _ _ => true
  | .transfer _ _ => true
  | _ => false

/-- Bytes that the next write of a job to the deck makes of a granule, from its address on (R192, R200). -/
def Job.piece (j : Job) (dev : Nat) : Nat := min (j.len - j.put) (64 - dev % 64)

/-- The deck access that a job makes next, where its far side is a deck: the device address, and whether it writes. A write
waits until the job holds all it writes of the granule. -/
def State.deckTurn (s : State) (part : Nat) (j : Job) : Option (Nat × Bool) :=
  match s.tableAddr part (j.far + (if j.out then j.put else j.got)) with
  | none => none
  | some (dev, _) =>
    if j.out then
      if 0 < j.piece dev ∧ j.piece dev ≤ j.buf.length then some (dev, true) else none
    else if j.got < j.len then some (dev, false)
    else none

/-! ## What waits at a channel (R251, R254) -/

/-- The jobs of a cluster that move data now, with their clients: the first of each stream engine's, and every transfer's. -/
def Cluster.jobs (c : Cluster) (g : Fin 4096) : List (Client × Job) :=
  (List.finRange 4).filterMap (fun e => ((c.eng.getD e.val .reset).jobs.head?).map (fun j => (.stream g e, j))) ++
    (List.finRange 16).filterMap (fun k => (c.xfers.getD k.val none).map (fun x => (.transfer g k, x.job)))

/-- The requests of the device's streams and transfers to a span's deck that are not yet served: the client, whether it writes,
and the byte offset. -/
def State.waitingOn (s : State) (span : Nat) : List (Client × Bool × Nat) :=
  s.parts.flatMap (fun p => p.2.rings.flatMap (fun i => (List.range 16).flatMap (fun k =>
    (((s.ring i).get k).jobs ⟨(i * 16 + k) % 4096, Nat.mod_lt _ (by decide)⟩).filterMap (fun x =>
      (s.deckTurn p.1 x.2).bind (fun y => if y.1 / 2 ^ 32 = span then some (x.1, y.2, y.1 % 2 ^ 32) else none)))))

/-- Those of one channel. -/
def State.waitingAt (s : State) (span ch : Nat) : List (Client × Bool × Nat) :=
  (s.waitingOn span).filter (fun x => (s.deck span).channel x.2.2 == ch)

/-- A channel's waiting requests in the order of their arrival: those that waited when it was last looked at, then those that came
since, in the order of `waitingAt` (log entry 85). -/
def State.arrivals (s : State) (span ch : Nat) : List (Client × Bool × Nat) :=
  let w := s.waitingAt span ch
  let old := ((s.deck span).chan ch).queue.filter w.contains
  old ++ w.filter (fun x => !old.contains x)

/-- A channel's read queue: the 40 oldest of its waiting reads, the others waiting at the router (R251, R260). -/
def State.readQueue (s : State) (span ch : Nat) : List (Client × Bool × Nat) :=
  ((s.arrivals span ch).filter (fun x => !x.2.1)).take 40

/-- The channel is looked at: who waits there now has arrived. -/
def State.lookAt (s : State) (span ch : Nat) : State :=
  let d := s.deck span
  s.setDeck span (d.setChan ch { d.chan ch with queue := s.arrivals span ch })

/-- The channel is looked at, and the request of a client leaves it. -/
def State.takeTurn (s : State) (span ch : Nat) (who : Client) : State :=
  let d := s.deck span
  s.setDeck span (d.setChan ch { d.chan ch with queue := (s.arrivals span ch).filter (fun x => x.1 != who) })

/-- The requests that came to the channel before one; a client that keeps no job has come last. -/
def State.older (s : State) (x : DeckAcc) : List (Client × Bool × Nat) :=
  (s.arrivals x.span.val ((s.deck x.span.val).channel x.addr.toNat)).takeWhile (fun y => y.1 != x.who)

/-- Whether it is a request's turn (R251): no older one waits for its granule, and a read is in the queue, ready, and the oldest
that is ready. -/
def State.turnOf (s : State) (x : DeckAcc) (out : Bool) : Bool :=
  let d := s.deck x.span.val
  let l := s.older x
  let reads := l.filter (fun y => !y.2.1)
  !l.any (fun y => y.2.2 / 64 == x.addr.toNat / 64) &&
    (out || (decide (reads.length < 40) && d.ready x.addr.toNat x.cycle && !reads.any (fun y => d.ready y.2.2 x.cycle)))

/-- Whether a range of deck addresses touches no channel that is retraining, nor one whose read queue is full, so that its
accesses need not wait (R251, R260). -/
def State.rangeServes (s : State) (part pa len : Nat) : Bool :=
  (cutEntries pa (List.replicate len 0)).all (fun p => match s.translate part p.1 with
    | some (dev, _) =>
      let d := s.deck (dev / 2 ^ 32)
      let gs := (granules dev p.2.length).map (fun g => d.channel (g % 2 ^ 32))
      let reads := (s.waitingOn (dev / 2 ^ 32)).filter (fun x => !x.2.1)
      (match d.retraining with
       | none => true
       | some ch => gs.all (fun k => k != ch)) &&
        (decide (reads.length < 40) ||
          gs.all (fun k => decide ((reads.filter (fun x => d.channel x.2.2 == k)).length < 40)))
    | none => true)

end Sys2Proof.Machine
end

