-- ==== Sys2Proof/Machine/FabricOps.lean ====
section
/-! DEFINITION. The bridge fabric: dies, edges, default routes, flit headers (R265 to R273). Dies are numbered by
the DST codes of Table 11.2; an edge is named by the die a flit leaves and the side it leaves by: north 0, east
1, south 2, west 3 for a span; the place along the die for a junction die, with 4 to 6 of junction die 2 toward
the siding dies and the signal box. -/

namespace Sys2Proof.Machine

def spanRow (n : Nat) : Nat := n / 4
def spanCol (n : Nat) : Nat := n % 4

/-- The die an edge leads to, if the edge exists (R265, R266, Table 11.1). -/
def farDie (die side : Nat) : Option Nat :=
  if die < 16 then
    match side with
    | 0 => some (if spanRow die = 0 then 16 else die - 4)
    | 1 => some (if spanCol die = 3 then 17 else die + 1)
    | 2 => some (if spanRow die = 3 then 18 else die + 4)
    | 3 => some (if spanCol die = 0 then 19 else die - 1)
    | _ => none
  else if die = 18 then
    if side < 4 then some (12 + side) else if side < 7 then some (16 + side) else none
  else if die < 20 then
    if side < 4 then
      some (match die with
        | 16 => side
        | 17 => 4 * side + 3
        | _ => 4 * side)
    else none
  else if die < 23 ∧ side = 0 then some 18 else none

/-- The edge of the far die that leads back. -/
def backEdge (die side : Nat) : Option (Nat × Nat) :=
  match farDie die side with
  | none => none
  | some far => ((List.range 7).find? (fun k => farDie far k == some die)).map (fun k => (far, k))

/-- Lanes and spares of an edge (Table 11.1). -/
def edgeLanes (die side : Nat) : Nat × Nat :=
  match farDie die side with
  | none => (0, 0)
  | some far =>
    if die = 22 ∨ far = 22 then (4, 1) else if 20 ≤ die ∨ 20 ≤ far then (84, 2) else (125, 3)

/-- Sides taken from span `n` to a destination die by the default route: east or west first (R270). -/
def spanRoute (n dst : Nat) : List Nat :=
  if dst < 16 then
    (if spanCol n ≤ spanCol dst then List.replicate (spanCol dst - spanCol n) 1
      else List.replicate (spanCol n - spanCol dst) 3) ++
    (if spanRow n ≤ spanRow dst then List.replicate (spanRow dst - spanRow n) 2
      else List.replicate (spanRow n - spanRow dst) 0)
  else match dst with
  | 16 => List.replicate (spanRow n + 1) 0
  | 17 => List.replicate (4 - spanCol n) 1
  | 19 => List.replicate (spanCol n + 1) 3
  | 18 => List.replicate (4 - spanRow n) 2
  | d => List.replicate (4 - spanRow n) 2 ++ [d - 16]

/-- Sides taken from any die by the default route, its entry into the mesh included (R270). -/
def defaultRoute (src dst : Nat) : List Nat :=
  if src = dst then []
  else if src < 16 then spanRoute src dst
  else match src with
  | 16 => 1 :: spanRoute 1 dst
  | 17 => 1 :: spanRoute 7 dst
  | 19 => 2 :: spanRoute 8 dst
  | 18 => if 20 ≤ dst then [dst - 16] else 1 :: spanRoute 13 dst
  | _ => if dst = 18 then [0] else if 20 ≤ dst then [0, dst - 16] else 0 :: 1 :: spanRoute 13 dst

/-- The edges that a list of sides crosses, from a die. -/
def crosses : Nat → List Nat → List (Nat × Nat)
  | _, [] => []
  | die, x :: xs =>
    (die, x) :: (match farDie die x with
      | some far => crosses far xs
      | none => [])

/-- Unloaded fabric cycles of a route of `h` hops (R272). -/
def fabricCycles (h : Nat) : Nat := 3 + 5 * h

/-- The sides of a request: its explicit route, or the default one. None where no such route is installed
(R271). -/
def State.sidesOf (s : State) (part src dst route : Nat) : Option (List Nat) :=
  if route = 0xFFFF then some (defaultRoute src dst)
  else match (s.part part).image with
    | none => none
    | some im => (im.routes.find? (fun r => r.id == route && r.src == src && r.dst == dst)).map (·.hops)

/-- Whether a list of edges crosses none that has failed (R273). -/
def State.edgesUp (s : State) (es : List (Nat × Nat)) : Bool :=
  es.all (fun e => (s.edge e.1 e.2).st != .failed)

/-- Whether an access from `src` can reach `dst` and its response return. -/
def State.reachable (s : State) (part src dst route : Nat) : Bool :=
  match s.sidesOf part src dst route with
  | none => false
  | some sides => s.edgesUp (crosses src sides) && s.edgesUp (crosses dst (defaultRoute dst src))

/-! ## The header (Table 11.2) -/

/-- The 64-bit header of a flit. -/
def flitHeader (f : Flit) : Nat :=
  f.type.toNat * 2 ^ 60 + f.part.toNat * 2 ^ 54 + b2n f.deflt * 2 ^ 53 + f.route.toNat * 2 ^ 43 +
    f.hop.toNat * 2 ^ 39 + f.dst.toNat * 2 ^ 34 + f.srcd.toNat * 2 ^ 29 + f.srcu.toNat * 2 ^ 17 +
    f.tag.toNat * 2 ^ 7 + f.seq.toNat * 2 ^ 5

/-- The header in its eight bytes, and the check over them. -/
def headerBytes (f : Flit) : List Byte := toLe 8 (flitHeader f)
def flitOk (f : Flit) : Bool := f.check.toNat == crc16 (headerBytes f)

/-- A flit with the header check of its header. -/
def stamped (f : Flit) : Flit := { f with check := BitVec.ofNat 16 (crc16 (headerBytes f)) }

/-- The 80 bytes of a wire flit: payload, its check bytes, header, header check with its most significant byte first (R267). -/
def wireBytes (f : Flit) : List Byte :=
  let p := slice f.payload 0 64
  p ++ rsCheck p ++ headerBytes f ++ (toLe 2 f.check.toNat).reverse

/-- A flit's number on an edge: its payload and its header as one. -/
def flitId (f : Flit) : Nat := leNat (slice f.payload 0 64) * 2 ^ 64 + flitHeader f

/-- The virtual channels: REQ 0, RSP 1, COLL 2, CTRL 3 (R266). -/
def channelOf (f : Flit) : Nat :=
  match f.type.toNat with
  | 0 | 1 | 2 | 6 => 0
  | 3 | 4 | 7 => 1
  | 5 => 2
  | _ => 3

/-- What two flits share whose order is kept (R266): the channel, the source unit, the destination, the route. -/
def orderKey (f : Flit) : Nat × BitVec 5 × BitVec 12 × BitVec 5 × Bool × BitVec 10 :=
  (channelOf f, f.srcd, f.srcu, f.dst, f.deflt, f.route)

/-- Flits the replay buffer of an edge keeps. -/
def Edge.keep (e : Edge) (l : List (Flit × Bool)) : List (Flit × Bool) := l.drop (l.length - 64 * max 1 e.lanes)

/-- Whether a virtual channel of an edge has a credit left. -/
def Edge.hasCredit (die side : Nat) (e : Edge) (vc : Nat) : Bool :=
  let u := Tab.get 0 e.used vc
  u == 0 || decide (u < Config.vcCredits die side vc)

/-! ## Collective frames (R287) -/

/-- The edges between two dies by the default route. -/
def pathOf (src dst : Nat) : List (Nat × Nat) := crosses src (defaultRoute src dst)

/-- Whether a collective frame can cross a list of edges now: none is retraining, out of credit in COLL, or has a flit of that channel
waiting (R266, R273). -/
def State.pathOpen (s : State) (es : List (Nat × Nat)) : Bool :=
  es.all (fun e =>
    let x := s.edge e.1 e.2
    (x.st != .retraining) && x.hasCredit e.1 e.2 2 && !x.held.any (fun h => channelOf h.2 == 2))

/-- The flits of a collective frame's data: TYPE 5, by the default route. PRESUMED (log entry 86): a junction's collective engine is
unit 0 of its die, and a flit's SEQ counts within its 256 bytes. -/
def collFlits (part src dst : Nat) (data : List Byte) : List Flit :=
  (List.range (ceilDiv data.length 64)).map (fun k => stamped
    { type := 5, part := BitVec.ofNat 6 part, deflt := true, route := 0, hop := 0, dst := BitVec.ofNat 5 dst
      srcd := BitVec.ofNat 5 src, srcu := 0, tag := 0, seq := BitVec.ofNat 2 k, payload := slice data (64 * k) 64, check := 0, wrong := 0 })

/-- Flits cross an edge, each accepted at the far end, so that its credit returns: they are counted, and the replay buffer holds
them. -/
def Edge.pass (e : Edge) (fs : List Flit) : Edge :=
  { e with flits := (e.flits + fs.length) % 2 ^ 64, buf := e.keep (e.buf ++ fs.map (fun f => (f, true))) }

/-- A collective frame crosses the edges between two dies. -/
def State.crossFrame (s : State) (part src dst : Nat) (data : List Byte) : State :=
  let fs := collFlits part src dst data
  (pathOf src dst).foldl (fun s e =>
    (s.setEdge e.1 e.2 ((s.edge e.1 e.2).pass fs)).emits (fs.map (fun f => .flit e.1 e.2 (wireBytes f)))) s

end Sys2Proof.Machine
end

