-- ==== Sys2Proof/Machine/DeckOps.lean ====
section
/-! DEFINITION. Decks: the map from addresses to channels and rows, what a read finds and what follows from it
(R246 to R264), the journal (R310 to R314), and the accesses of streams, transfers and other requesters. -/

namespace Sys2Proof.Machine

/-- Spare rows in use across the deck, and replacement pages unused (`DK_REPAIR`). -/
def Deck.spused (d : Deck) : Nat := d.spares.foldl (fun n p => n + p.2) 0
def Deck.rpused (d : Deck) : Nat := d.retired.foldl (fun n p => max n p.2) 0

/-! ## Repair (R256 to R259) -/

/-- What became of a failing row. -/
inductive RowFix where
  | remapped | again | exhausted
  deriving DecidableEq, Repr

/-- R256, R258: the row takes its bank's next unused spare, if there is one. -/
def Deck.fixRow (d : Deck) (a : Nat) : RowFix × Deck :=
  let row := d.rowOf a
  let bank := row / 2048
  let used := Tab.get 0 d.spares bank
  if 64 ≤ used then (.exhausted, { d with corr := Tab.del row d.corr })
  else
    let again := Tab.get 0 d.remap row ≠ 0
    (if again then .again else .remapped,
     { d with remap := Tab.ins row (used + 1) d.remap, spares := Tab.ins bank (used + 1) d.spares,
              corr := Tab.del row d.corr })

/-- `DK_RETLOG` (R264). -/
def retlogOf (part cause page : Nat) : Nat := part % 256 * 2 ^ 56 + cause % 16 * 2 ^ 52 + page % 2 ^ 20

/-- R259: the region is withdrawn; its owner and the operator are notified. -/
def State.withdraw (s : State) (span region page cause : Nat) : State :=
  let d := s.deck span
  let owner := s.regionHolder span region
  let s := s.setDeck span { d with
    withdrawn := setIns region d.withdrawn, retlog := retlogOf (owner.getD 0xFF) cause page }
  let s := s.notifyOperator (owner.getD 0xFF) 259 region
  match owner with
  | some p => s.notify p 2 region
  | none => s

/-- R258: the 4 KiB page that holds a byte offset is redirected to the next replacement page, or its region is
withdrawn when none is left. Its 64 granules of 64 bytes are read and written. -/
def State.retirePage (s : State) (span a cause : Nat) : State :=
  let d := s.deck span
  let page := a / 4096
  let region := a / 2 ^ 24
  if 256 ≤ d.rpused then s.withdraw span region page 3
  else
    let owner := s.regionHolder span region
    let s := s.setDeck span { d with
      retired := Tab.ins page (d.rpused + 1) d.retired, busy := (d.busy + 128) % 2 ^ 64, retlog := retlogOf (owner.getD 0xFF) cause page }
    match owner with
    | some p => match s.backward p (span * 2 ^ 32 + page * 4096) with
      | some pa => s.notify p 1 pa
      | none => s
    | none => s

/-- What follows the remap or failure of a row (R256, R258): a row that is copied to its spare takes 32 and 32 data cycles
(Table 10.6). -/
def State.fixRow (s : State) (span a : Nat) : State :=
  let r := (s.deck span).fixRow a
  let s := s.setDeck span r.2
  match r.1 with
  | .remapped => s.busyCycles span 64
  | .again => (s.busyCycles span 64).retirePage span a 1
  | .exhausted => s.retirePage span a 2

/-- R256: a corrected read; the granule is written back through the write buffer. -/
def State.correctedRead (s : State) (span a : Nat) : State :=
  let d := s.deck span
  let row := d.rowOf a
  let n := Tab.get 0 d.corr row + 1
  let s := s.setDeck span (({ d with cecnt := satInc 32 d.cecnt, corr := Tab.ins row n d.corr } : Deck).put a)
  if d.cethr ≤ n then s.fixRow span a else s

/-- R257: an uncorrectable read; the granule is poisoned. -/
def State.failedRead (s : State) (span a : Nat) : State :=
  let d := s.deck span
  let s := s.setDeck span { d with uecnt := satInc 32 d.uecnt, poison := setIns (a / 64) d.poison }
  (s.note 0xFF (256 + span) 0x0008 0).fixRow span a

/-- What the check of a granule that is read with `wrong` erroneous bytes makes of it: its bytes, or none (R250, R256, R257). A
granule in the write buffer is read from there (R251), unless a journal restore has poisoned it since. -/
def State.judgeGranule (s : State) (dev wrong : Nat) : Option (List Byte) × State :=
  let span := dev / 2 ^ 32
  let a := dev % 2 ^ 32
  if s.poisoned dev then (none, s)
  else if (s.deck span).holds a then (some (s.deckBytes dev 64), s)
  else match rsVerdict wrong with
    | .clean => (some (s.deckBytes dev 64), s)
    | .corrected => (some (s.deckBytes dev 64), s.correctedRead span a)
    | .uncorrectable => (none, s.failedRead span a)
    | .beyond =>
      let q := s.draw
      if Config.beyondReported [1, q.1] then (none, q.2.failedRead span a)
      else
        let bs := (List.range 64).map (Config.beyondByte [1, q.1])
        (some bs, (q.2.putBytes dev bs).correctedRead span a)

/-- Read one granule: an access of its channel, on the bus unless the write buffer holds the granule. -/
def State.readGranule (s : State) (dev wrong : Nat) : Option (List Byte) × State :=
  let span := dev / 2 ^ 32
  let a := dev % 2 ^ 32
  let held := (s.deck span).holds a
  let s := s.setDeck span ((s.deck span).look a)
  (if held then s else s.busyCycles span 1).judgeGranule dev wrong

/-- Granules that are read meet erroneous bytes, and are corrected or poisoned; a count of 0 changes nothing. -/
def State.meetErrors (s : State) (l : List (Nat × Nat)) : State :=
  l.foldl (fun s x => if x.2 = 0 then s else (s.judgeGranule x.1 x.2).2) s

/-- The granules of a range by partition address, in order. -/
def State.partGranules (s : State) (part pa n : Nat) : List Nat :=
  (cutEntries pa (List.replicate n 0)).flatMap (fun p => match s.translate part p.1 with
    | some (dev, _) => granules dev p.2.length
    | none => [])

/-- The signal box's read of a range meets erroneous bytes, `wrong` of them granule by granule (R437). -/
def State.meetPart (s : State) (part pa n : Nat) (wrong : List Nat) : State :=
  if wrong.all (· == 0) then s else s.meetErrors ((s.partGranules part pa n).zip wrong)

/-- Read granules in order; the first that cannot be delivered ends the run, and its address is answered. -/
def State.readGranules (s : State) : List Nat → List Nat → Except Nat (List Byte) × State
  | [], _ => (.ok [], s)
  | g :: gs, ws =>
    match s.readGranule g (ws.headD 0) with
    | (none, s) => (.error g, s)
    | (some bs, s) =>
      match State.readGranules s gs ws.tail with
      | (.error x, s) => (.error x, s)
      | (.ok rest, s) => (.ok (bs ++ rest), s)

/-! ## Writes (R251) -/

/-- Whether a deck's channel takes accesses (R260, R261). -/
def Deck.serves (d : Deck) (a : Nat) : Bool :=
  decide (d.pow = .on) && d.offline != some (d.channel a) && d.retraining != some (d.channel a)

/-- Merge data under a mask of bytes. -/
def mergeMask (old new : List Byte) (mask : List Bool) : List Byte :=
  ((old.zip new).zip mask).map (fun p => if p.2 then p.1.2 else p.1.1)

/-- The bytes a request covers and their mask, laid over the granules it touches: a missing mask bit covers
its byte. -/
def overGranules (dev : Nat) (data : List Byte) (mask : List Bool) : List (Nat × List Byte × List Bool) :=
  (granules dev data.length).map (fun g =>
    let bs := (List.range 64).map (fun k =>
      if dev ≤ g + k ∧ g + k < dev + data.length then data.getD (g + k - dev) 0 else 0)
    let mk := (List.range 64).map (fun k =>
      decide (dev ≤ g + k ∧ g + k < dev + data.length) && mask.getD (g + k - dev) true)
    (g, bs, mk))

/-- One granule of a write enters the write buffer: whole, or merged with the old granule, whose read meets
`wrong` erroneous bytes; answers the failing address when that read is not delivered. -/
def State.writeGranule (s : State) (cycle wrong : Nat) (x : Nat × List Byte × List Bool) : Bool × State :=
  let span := x.1 / 2 ^ 32
  let whole := x.2.2.all id
  let a := x.1 % 2 ^ 32
  let enterAt (s : State) : State :=
    s.setDeck span (((s.deck span).touch ((s.deck span).channel a) cycle).letIn a cycle)
  if whole then (true, enterAt ((s.clearPoison x.1 64).putBytes x.1 x.2.1))
  else match s.readGranule x.1 wrong with
    | (none, s) => (false, s)
    | (some old, s) => (true, enterAt (s.putBytes x.1 (mergeMask old x.2.1 x.2.2)))

def State.writeGranules (s : State) (cycle wrong : Nat) :
    List (Nat × List Byte × List Bool) → Option Nat × State
  | [] => (none, s)
  | x :: xs =>
    match s.writeGranule cycle wrong x with
    | (false, s) => (some x.1, s)
    | (true, s) => State.writeGranules s cycle wrong xs

/-! ## Requesters -/

/-- Whether the owner record admits a request (R248). -/
def Deck.admits (d : Deck) (part a : Nat) : Bool := Tab.get 0 d.owner (a / 2 ^ 24) == part + 1

/-- The ring whose engine a client is. -/
def clientRing : Client → Option Nat
  | .stream cl _ => some (cl.val / 16)
  | .transfer cl _ => some (cl.val / 16)
  | .trestle r => some r.val
  | _ => none

/-- Put an engine in its faulted state. -/
def Cluster.engFault (c : Cluster) (k : Nat) : Cluster :=
  { c with eng := c.eng.set k { c.eng.getD k .reset with st := .faulted } }

def Trestle.memerr (x : Trestle) (addr : Nat) : Trestle :=
  { x with fault := x.fault ||| trMemerr, faddr := if x.fault &&& trMemerr = 0 then addr % 2 ^ 48 else x.faddr }

/-- The running request has failed: it does nothing more until a recovery stops it. -/
def Trestle.fails (x : Trestle) : Trestle := { x with run := x.run.map (fun q => { q with failed := true }) }

/-- R235: an uncorrectable granule that a request met. -/
def Ring.trestleMemerr (r : Ring) (pa : Nat) : Ring :=
  { r with tr := (r.tr.memerr pa).fails, fresh := true, flt := r.flt ++ [(0, .trestleMem pa)] }

/-- An access of a request that no entry or owner record admits (R190, R248). -/
def Ring.trestleDenied (r : Ring) : Ring := { r with tr := r.tr.fails, flt := r.flt ++ [(0, .program 0x10008)] }

/-- The requester faults (R202, R235, R248, R257, R298): `b` is the bit of `CL_STFAULT`, `pa` the partition
address. `TR_FAULT` and the junction dies have no bit for XLATE: there it is a program fault of the step (log entry 80). A
requester that belongs to no step has no fault register. DESIGN CHOICE (log entry 80): accesses of the requester that are
under way go on until a recovery ends them. -/
def State.clientFault (s : State) (part : Nat) (who : Client) (b : BitVec 6) (pa : Nat) : State :=
  match who with
  | .stream cl e =>
    (s.setCluster cl.val (((s.cluster cl.val).sfault b e.val (some pa)).engFault e.val)).takeFlagsAs (cl.val / 16) false
  | .transfer cl _ => (s.setCluster cl.val ((s.cluster cl.val).sfault b 4 (some pa))).takeFlagsAs (cl.val / 16) false
  | .trestle r =>
    (s.setRing r.val (if b = sfMemerr then (s.ring r.val).trestleMemerr pa else (s.ring r.val).trestleDenied)).takeFlagsAs r.val false
  | .collective _ => if b = sfMemerr then s.hardFault part pa else s.faultStep part true
  | .other => s

/-- The partition address a client's fault names. -/
def State.nameAddr (s : State) (part dev : Nat) : Nat := (s.backward part dev).getD dev

/-- R248: a request the owner record refuses is not made; the requester faults with XLATE and it is logged. -/
def State.refuse (s : State) (x : DeckAcc) : State :=
  (s.clientFault x.part.val x.who sfXlate (s.nameAddr x.part.val (devOf x))).note x.part.val (256 + x.span.val) 248 0

def State.setJob (s : State) (who : Client) (j : Job) : State :=
  match who with
  | .stream cl e =>
    let c := s.cluster cl.val
    let x := c.eng.getD e.val .reset
    s.setCluster cl.val { c with eng := c.eng.set e.val { x with jobs := x.jobs.set 0 j } }
  | .transfer cl k =>
    let c := s.cluster cl.val
    match c.xfers.getD k.val none with
    | some t => s.setCluster cl.val { c with xfers := c.xfers.set k.val (some { t with job := j }) }
    | none => s
  | _ => s

/-! ## The journal (R310 to R314) -/

def blockBytes : Nat := 0x200000
def sidingBlocks : Nat := 8192
def entryBytes : Nat := 80

/-- Journal bytes and blocks of a partition on a siding die. -/
def Siding.jbytes (x : Siding) (part : Nat) : Nat :=
  entryBytes * ((x.entries.filter (fun e => e.part == part)).length +
    (x.waiting.filter (fun w => w.entry.part == part)).length)
def Siding.jblocks (x : Siding) (part : Nat) : Nat := ceilDiv (x.jbytes part) blockBytes
def Siding.jlimit (x : Siding) (part : Nat) : Nat := Tab.get 0x40 x.jlim part

/-- Blocks that hold journals; blocks that hold staged or received copies; free blocks (`SD_STAT`). -/
def Siding.jall (x : Siding) : Nat :=
  ((List.range 64).map x.jblocks).foldl (· + ·) 0
def Siding.copyBlocks (x : Siding) : Nat :=
  (x.copies.map (fun c => ceilDiv c.len blockBytes)).foldl (· + ·) 0 +
    (x.staged.map (fun p => ceilDiv p.2 blockBytes)).foldl (· + ·) 0
def Siding.free (x : Siding) : Nat := sidingBlocks - x.jall - x.copyBlocks

/-- The siding die that journals a span's deck (R311). -/
def sidingOf (span : Nat) : Nat := span % 2

/-- An entry takes its place among those stored, which stand in the order they were made. -/
def withEntry (l : List JEntry) (e : JEntry) : List JEntry :=
  l.filter (fun x => decide (x.seq < e.seq)) ++ e :: l.filter (fun x => decide (e.seq ≤ x.seq))

/-! ## Which writes are journaled, and what stops them (R310 to R313) -/

/-- Whether a write that reaches a span's deck in deck cycle `cycle` is journaled (R310): its engine took it up in its ring's
optimizer phase, or the partition's phase began more than 2 µs, 2,000 deck cycles, before. -/
def State.journals (s : State) (part span : Nat) (jr : Bool) (cycle : Nat) : Bool :=
  jr || ((s.part part).opt && decide (Tab.get 0 (s.part part).optAt span + 2000 < cycle))

/-- Ring cycles of 2 µs at a ring's clock. -/
def State.twoMicros (s : State) (ring : Nat) : Nat := 2 * (600 - 25 * Tab.get 0 s.power.ringStep ring)

/-- The same for a write that carries no deck cycle of its own: by the deck cycle that the deck has come to, or by the ring cycle
that the ring which began the phase has come to (log entry 44). -/
def State.journalsNow (s : State) (part span : Nat) (jr : Bool) : Bool :=
  let p := s.part part
  let ring := Tab.get 0 p.optAt 256
  s.journals part span jr (s.deck span).now ||
    (p.opt && decide (Tab.get 0 p.optAt 257 + s.twoMicros ring < (s.ring ring).now))

/-- Whether a span's journal entries can reach their siding die, and be acknowledged (R273). -/
def State.sidingUp (s : State) (span : Nat) : Bool :=
  let die := 20 + sidingOf span
  s.edgesUp (crosses span (defaultRoute span die)) && s.edgesUp (crosses die (defaultRoute die span))

/-- The outcome of offering an entry to a siding die. -/
inductive Offer where
  | full | noBlock | taken
  deriving DecidableEq, Repr

def Siding.offer (x : Siding) (part : Nat) : Offer :=
  let n := ceilDiv (x.jbytes part + entryBytes) blockBytes
  if x.jlimit part < n then .full
  else if n ≠ x.jblocks part ∧ x.free = 0 then .noBlock
  else .taken

/-- The journal's limit forbids a write: JFULL, logged, and the step is faulted as a program's (R313, R341). -/
def State.journalFull (s : State) (part k : Nat) : State :=
  let sd := s.siding k
  ((s.setSiding k { sd with jfull := setIns part sd.jfull }).note part (256 + 20 + k) 313 1).faultStep part true

/-- What stops an engine's access: an invalid or read-only entry, an uncorrectable granule, the journal's limit (R313), or
no free block, for which the access waits. -/
inductive EngBad where
  | xlate (pa : Nat)
  | mem (pa : Nat)
  | limit
  | wait
  deriving DecidableEq, Repr

/-- The old value of a granule is journaled at once, or what stops the write (R313). -/
def State.journalNow (s : State) (part dev : Nat) : Option EngBad × State :=
  let k := sidingOf (dev / 2 ^ 32)
  let sd := s.siding k
  if !s.sidingUp (dev / 2 ^ 32) then (some (.xlate (s.nameAddr part dev)), s)
  else match sd.offer part with
  | .full => (some .limit, s.journalFull part k)
  | .noBlock => (some .wait, s)
  | .taken =>
    let e : JEntry := ⟨dev, part, (sd.made + 1) % 2 ^ 64, if s.poisoned dev then none else some (s.deckBytes dev 64)⟩
    (none, (s.fetch dev 64).setSiding k { sd with 
      entries := sd.entries ++ [e], made := e.seq, stored := (sd.stored + 1) % 2 ^ 64 })

/-- Whether an engine on die `home` reaches the deck of a device address (R273); an engine of the deck's own span crosses no
edge. -/
def State.homeReaches (s : State) (home : Option Nat) (dev : Nat) : Bool :=
  match home with
  | none => true
  | some d =>
    let k := dev / 2 ^ 32
    s.edgesUp (crosses d (defaultRoute d k)) && s.edgesUp (crosses k (defaultRoute k d))

/-- The die of the signal box. -/
def boxDie : Nat := 22

/-- Whether a range translates through valid entries, writable ones where asked, to decks that the signal box reaches (R141,
R273). -/
def State.boxMaps (s : State) (part pa len : Nat) (write : Bool) : Bool :=
  s.maps part pa len write &&
    (entryStarts pa len).all (fun a => (s.translate part a).all (fun x => s.homeReaches (some boxDie) x.1))

/-! ## Writes that no engine of the partition makes: the signal box's -/

/-- Cut a run of bytes at granules: device address and bytes of each piece. -/
def cutGranules (dev : Nat) (bs : List Byte) : List (Nat × List Byte) :=
  (granules dev bs.length).map (fun g =>
    let a := max dev g
    (a, (bs.drop (a - dev)).take (g + 64 - a)))

/-- Bytes are written into the deck through the write buffer. -/
def State.land (s : State) (dev : Nat) (bs : List Byte) : State :=
  ((s.clearPoison dev bs.length).putBytes dev bs).buffer dev bs.length

/-- A piece within a granule waits for its channel (R260). -/
def State.stall (s : State) (x : Nat × List Byte) : State := { s with stalled := s.stalled ++ [x] }

/-- Whether a piece has to wait: its channel is retraining, or an older write of its granule waits. -/
def State.stalls (s : State) (dev : Nat) : Bool :=
  let d := s.deck (dev / 2 ^ 32)
  d.retraining == some (d.channel (dev % 2 ^ 32)) || s.stalled.any (fun y => y.1 / 64 == dev / 64)

/-- A write that restores a granule, or waits for its channel. -/
def State.putBack (s : State) (dev : Nat) (bs : List Byte) : State :=
  if s.stalls dev then s.stall (dev, bs) else s.land dev bs

/-- A piece within a granule is written, journaled where R310 journals it. It waits where its channel is retraining (R260) or its
entry finds no free block (R313); one that would merge into a poisoned granule, or whose entry is not made, is not made. -/
def State.place (s : State) (x : Nat × List Byte) : State :=
  let span := x.1 / 2 ^ 32
  if s.stalls x.1 then s.stall x
  else if s.mergesPoison x.1 x.2.length then s
  else match (s.regionHolder span (bits x.1 24 8)).filter (fun p => s.journalsNow p span false) with
  | none => s.land x.1 x.2
  | some part => match s.journalNow part (x.1 / 64 * 64) with
    | (none, t) => t.land x.1 x.2
    | (some .wait, t) => t.stall x
    | (some _, t) => t

/-- The writes that waited, each within a granule, are made, or wait on. -/
def State.unstall (s : State) : State :=
  s.stalled.foldl (fun s x => s.place (x.1, x.2.take (64 - x.1 % 64))) { s with stalled := [] }

/-- A write of a partition's deck by the signal box. A piece that would merge into a poisoned granule, that no writable entry
maps, or whose deck is not reached (R273), is not made. -/
def State.writePart (s : State) (part pa : Nat) (bs : List Byte) : State :=
  (cutEntries pa bs).foldl (fun s p =>
    match s.translate part p.1 with
    | some (dev, true) =>
      if s.mergesPoison dev p.2.length || !s.homeReaches (some boxDie) dev then s
      else if (s.part part).opt || (s.deck (dev / 2 ^ 32)).retraining.isSome || !s.stalled.isEmpty then
        (cutGranules dev p.2).foldl State.place s
      else s.land dev p.2
    | _ => s) s

/-! ## The journal restored (R314) -/

/-- R314: write back, for each granule with entries of the partition, the old value of its earliest entry, in
the order the entries were made; `bad` are the sequence numbers of the die's uncorrectable entries, whose granules keep
what they hold. -/
def State.journalBack (s : State) (part : Nat) (bad : List Nat) : List JEntry → List Nat → State
  | [], _ => s
  | e :: es, seen =>
    if e.part ≠ part ∨ seen.contains e.addr then State.journalBack s part bad es seen
    else
      let s := if bad.contains e.seq then s
        else match e.old with
          | some bs => s.putBack e.addr bs
          | none =>
            let span := e.addr / 2 ^ 32
            let d := s.deck span
            s.setDeck span { d with poison := setIns (granuleOf e.addr) d.poison }
      State.journalBack s part bad es (e.addr :: seen)

/-- Drop a partition's journal (R307, R314). -/
def State.journalDrop (s : State) (part : Nat) : State :=
  [0, 1].foldl (fun s k =>
    let x := s.siding k
    s.setSiding k { x with
      entries := x.entries.filter (fun e => e.part ≠ part)
      waiting := x.waiting.filter (fun w => w.entry.part ≠ part) }) s

/-- The entries of siding die `k` among those that were found uncorrectable: each die numbers its own (R314). -/
def badOn (k : Nat) (bad : List (Fin 2 × Nat)) : List Nat := (bad.filter (fun b => b.1.val == k)).map (·.2)

def State.journalRestore (s : State) (part : Nat) (bad : List (Fin 2 × Nat)) : State :=
  let s := s.journalBack part (badOn 0 bad) (s.siding 0).entries []
  let s := s.journalBack part (badOn 1 bad) (s.siding 1).entries []
  s.journalDrop part

/-- Whether one of the partition's entries is among the uncorrectable ones. -/
def State.journalBad (s : State) (part : Nat) (bad : List (Fin 2 × Nat)) : Bool :=
  [0, 1].any (fun k => (s.siding k).entries.any (fun e => e.part == part && (badOn k bad).contains e.seq))

/-- Entries a partition has on both dies, stored or waiting. -/
def State.journalWaits (s : State) (part : Nat) : Bool :=
  [0, 1].any (fun k => (s.siding k).waiting.any (fun w => w.entry.part == part))

end Sys2Proof.Machine
end

