-- ==== Sys2Proof/Machine/Targets.lean ====
section
/-! DEFINITION. What an applied image says about a ring: its consists, its timetable target and the member
indices of its clusters (R25 to R27, R139, R140, R171, R175). -/

namespace Sys2Proof.Machine

/-- Code of a lone ring's target (R143). -/
def loneTarget (ring : Nat) : Nat := 0x8000 + ring

/-- The timetable target that holds a ring. -/
def Image.targetOf (im : Image) (ring : Nat) : Nat :=
  match im.consists.find? (fun c => c.top && (im.consistRings c).contains ring) with
  | some c => c.id
  | none => loneTarget ring

/-- The rings of a target. -/
def Image.targetRings (im : Image) (target : Nat) : List Nat :=
  if 0x8000 ≤ target then [target - 0x8000]
  else match im.consist target with
    | some c => im.consistRings c
    | none => []

def Image.timetable (im : Image) (target : Nat) (c77 : Bool) : Option Timetable :=
  im.tts.find? (fun t => t.target == target && t.c77 == c77)

/-- The physical slot that serves a logical one (R21). -/
def State.physOf (s : State) (ring slot : Nat) : Nat :=
  if Tab.get 0 s.repair.spare ring = slot + 1 then 16 else slot

/-- The block bypassed in a physical cluster (R96, R98). -/
def State.bypassOf (s : State) (ring phys : Nat) : Option Nat :=
  (Tab.find s.repair.bypass (ring * 17 + phys)).map (· / 7)

/-- Whether a target takes class 77 (R27): the repair record lists a bypass in a cluster that serves it. -/
def State.targetC77 (s : State) (im : Image) (target : Nat) : Bool :=
  (im.targetRings target).any (fun k => (List.range 16).any (fun n => (s.bypassOf k (s.physOf k n)).isSome))

/-- The targets of a partition's rings. -/
def Image.targets (im : Image) (rings : List Nat) : List Nat := dedup (rings.map im.targetOf)

/-- Targets of a partition that take class 77. -/
def State.c77Targets (s : State) (part : Nat) : List Nat :=
  match (s.part part).image with
  | none => []
  | some im => (im.targets (s.part part).rings).filter (s.targetC77 im)

/-- The partition is told which targets have changed their class, given those that were of class 77 (R27, R418). -/
def State.tellClasses (s : State) (part : Nat) (was : List Nat) : State :=
  let now := s.c77Targets part
  let s := (now.filter (fun t => !was.contains t)).foldl (fun s _ => s.notify part 5 77) s
  (was.filter (fun t => !now.contains t)).foldl (fun s _ => s.notify part 5 84) s

/-- A target of class 77 has no timetable that it could run. -/
def State.untaken (s : State) (part : Nat) : Bool :=
  match (s.part part).image with
  | none => false
  | some im => (s.c77Targets part).any (fun t => (im.timetable t true).isNone)

/-! ## Member indices (R175) -/

/-- Index and member count in the consists that hold a consist, upward. -/
def Image.climb (im : Image) : Nat → Nat → List (Nat × Nat)
  | 0, _ => []
  | n + 1, id =>
    match im.consists.find? (fun c => c.kind == 3 && c.members.contains id) with
    | some c => (c.members.idxOf id, c.members.length) :: Image.climb im n c.id
    | none => []

/-- Levels from a cluster up to its target: index and count at each. -/
def Image.levels (im : Image) (ring slot : Nat) : List (Nat × Nat) :=
  let find (kind unit : Nat) : Option Consist :=
    im.consists.find? (fun c => c.kind == kind && c.members.contains unit)
  match find 0 (ring * 16 + slot) with
  | some c => (c.members.idxOf (ring * 16 + slot), c.members.length) :: im.climb 4 c.id
  | none => match find 1 ring with
    | some c => [(slot, 16), (c.members.idxOf ring, c.members.length)] ++ im.climb 4 c.id
    | none => match find 2 (ring / 16) with
      | some c => [(slot, 16), (ring % 16, 16), (c.members.idxOf (ring / 16), c.members.length)] ++ im.climb 4 c.id
      | none => [(slot, 16)]

/-- Flat index over levels: INDEX₀ + COUNT₀ × (INDEX₁ + …). -/
def flatIndex : List (Nat × Nat) → Nat
  | [] => 0
  | (i, n) :: rest => i + n * flatIndex rest

def flatCount (l : List (Nat × Nat)) : Nat := l.foldl (fun a p => a * p.2) 1

/-- `CL_MIDX0` to `CL_MIDX3` and `CL_MFLAT`. -/
def memberRegs (l : List (Nat × Nat)) : List Nat × Nat :=
  ((List.range 4).map (fun k =>
    let p := l.getD k (0, 1)
    p.2 % 65536 * 65536 + p.1 % 65536),
   l.length % 8 * 2 ^ 29 + flatCount l % 2 ^ 13 * 65536 + flatIndex l % 4096)

/-- Programs of a target's engine, by slot, as the program stores hold them. -/
def Image.programs (im : Image) (target eng : Nat) : Tab (List (BitVec 64)) :=
  (im.progs.filter (fun p => p.target == target && p.engine == eng)).foldl
    (fun m p => Tab.ins p.slot p.body m) []

end Sys2Proof.Machine
end

