-- ==== Sys2Proof/Machine/StreamOps.lean ====
section
/-! DEFINITION. Stream engines and the transfer engine between a local store and the rest of the device (R181 to
R192, R198, R243). -/

namespace Sys2Proof.Machine

def Cluster.engine (c : Cluster) (k : Nat) : StreamEng := c.eng.getD k .reset
def Cluster.setEngine (c : Cluster) (k : Nat) (e : StreamEng) : Cluster := { c with eng := c.eng.set k e }

def StreamEng.halfSt (e : StreamEng) (h : Bool) : HalfSt := if h then e.h1 else e.h0
def StreamEng.setHalf (e : StreamEng) (h : Bool) (x : HalfSt) : StreamEng :=
  if h then { e with h1 := x } else { e with h0 := x }

/-- The engine with everything of its program dropped. -/
def StreamEng.clear (e : StreamEng) : StreamEng := { e.halt with jobs := [] }

/-! ## Slot operations (R181, R187) -/

def sfaultOrder (c : Cluster) (k : Nat) : Cluster := c.sfault sfOrder k none

/-- The direction that a stored program's `S.CFG` sets; `d` where the store holds no such program. -/
def StreamEng.programDir (e : StreamEng) (slot : Nat) (d : Dir) : Dir :=
  match (Tab.find e.store slot).bind (·.head?) with
  | some w => if bits w.toNat 58 6 = 1 then (if bit w.toNat 47 then .outbound else .inbound) else d
  | none => d

/-- `STGO` in ring cycle `t` (R181, R185, R186): the program's first instruction executes in the next. -/
def Cluster.stgo (c : Cluster) (t k slot : Nat) (p : BitVec 64) : Cluster :=
  let e := c.engine k
  if e.st ≠ .stopped then sfaultOrder c k
  else
    let d := e.programDir slot e.dir
    c.setEngine k { e with
      st := .running, a := List.replicate 8 0, par := p, pc := 0, loops := [], dir := d, sel := false, pos := 0
      touched := false, owed := false, h0 := restHalf d, h1 := restHalf d
      posts := [], slot := slot, from_ := t + 1, rel0 := t + 1, rel1 := t + 1 }

/-- Half `h` goes back to the engine in ring cycle `t`, which may touch it from the next on (R189). -/
def StreamEng.yield (e : StreamEng) (t : Nat) (h : Bool) (x : HalfSt) : StreamEng :=
  let e : StreamEng := if h then { e with rel1 := t + 1 } else { e with rel0 := t + 1 }
  { e.setHalf h x with owed := !h }

/-- `STREL` in ring cycle `t` (R185 to R187, R189). -/
def Cluster.strel (c : Cluster) (t k : Nat) : Cluster :=
  let e := c.engine k
  let x : HalfSt × HalfSt := match e.dir with
    | .inbound => (.full, .free)
    | .outbound => (.owned, .queued)
  if e.st ≠ .stopped ∧ e.halfSt e.owed = x.1 then c.setEngine k (e.yield t e.owed x.2)
  else sfaultOrder c k

/-- `STHALT` in ring cycle `t`: the engine stops in the next (R187). -/
def Cluster.sthalt (c : Cluster) (t k : Nat) : Cluster := c.due (t + 1) t (20 + k) (.sthalt k)

/-! ## Program flow (R182, R184, R188) -/

/-- Leave the loops whose body ends at `pc`, or return to the body of one with turns left. -/
def loopNext (pc : Nat) : List LoopFrame → Nat × List LoopFrame
  | [] => (pc, [])
  | f :: fs =>
    if pc = f.stop then
      if 0 < f.left then (f.first, { f with left := f.left - 1 } :: fs) else loopNext pc fs
    else (pc, f :: fs)

/-- The next instruction. -/
def StreamEng.advance (e : StreamEng) : StreamEng :=
  let n := loopNext (e.pc + 1) e.loops
  { e with pc := n.1, loops := n.2, st := .running }

/-- R188: an engine at `S.END` stops once its halves are settled. -/
def StreamEng.tryEnd (e : StreamEng) : StreamEng :=
  if e.st ≠ .ending then e
  else match e.dir with
    | .inbound => if e.h0 = .free ∧ e.h1 = .free then { e with st := .stopped } else e
    | .outbound =>
      if e.h0 = .owned ∧ e.h1 = .owned ∧ !e.jobs.any (·.out) then { e with st := .stopped } else e

def Cluster.tryEnds (c : Cluster) : Cluster := { c with eng := c.eng.map StreamEng.tryEnd }

/-- An address register. -/
def StreamEng.reg (e : StreamEng) (i : Nat) : BitVec 64 := e.a.getD i 0
def StreamEng.setReg (e : StreamEng) (i : Nat) (v : BitVec 64) : StreamEng := { e with a := e.a.set i v }

/-- Whether the engine executes instructions. -/
def StreamEng.executes (e : StreamEng) : Bool := (e.st == .running) || (e.st == .waiting)

/-- Bytes of a half. -/
def StreamEng.halfBytes (e : StreamEng) : Nat := 64 * e.half

/-- Local store address of a half. -/
def StreamEng.halfAt (e : StreamEng) (h : Bool) : Nat := e.base + (if h then e.halfBytes else 0)

/-- Whether the current half may be touched, or touched for the first time, in ring cycle `t` (R185, R186, R189). -/
def StreamEng.mayTouch (e : StreamEng) (t : Nat) : Bool :=
  e.touched || (decide ((if e.sel then e.rel1 else e.rel0) ≤ t) &&
    e.halfSt e.sel == (match e.dir with | .inbound => .free | .outbound => .queued))

/-- `S.GET` and `S.PUT` on the current half (R185, R186, R190): wait, fault, or take up the access. -/
def State.streamAccess (s : State) (part t : Nat) (optph : Bool) (c : Cluster) (k sa len : Nat) (inc : Bool)
    (out : Bool) : Cluster :=
  let e := c.engine k
  if !e.mayTouch t then c.setEngine k { e with st := .waiting }
  else
    let addr := (e.reg sa).toNat
    if e.halfBytes < e.pos + len then (c.sfault sfOrder k none).setEngine k { e with st := .faulted }
    else match s.accessFault part addr len out with
      | some b => (c.sfault b k (some addr)).setEngine k { e with st := .faulted }
      | none =>
        let j : Job := ⟨out, addr, e.halfAt e.sel + e.pos, len, 0, 0, [], e.sel, out && optph⟩
        let e : StreamEng := { e with jobs := e.jobs ++ [j], pos := e.pos + len, touched := true }
        let e := if inc then e.setReg sa (e.reg sa + BitVec.ofNat 64 len) else e
        c.setEngine k e.advance

/-- Whether bytes of a half are still on their way: not landed inbound, not read outbound. -/
def StreamEng.halfBusy (e : StreamEng) (h : Bool) : Bool :=
  e.jobs.any (fun j => j.half == h && (if j.out then decide (j.got < j.len) else decide (j.put < j.len)))

/-- `S.FLIP` in ring cycle `t` (R185, R186). -/
def StreamEng.flip (e : StreamEng) (t : Nat) : StreamEng :=
  let next (e : StreamEng) : StreamEng := { e with sel := !e.sel, pos := 0, touched := false }.advance
  if !e.mayTouch t then { e with st := .waiting }
  else match e.dir with
    | .inbound => next (e.setHalf e.sel (if e.halfBusy e.sel then .closed else .full))
    | .outbound =>
      if e.halfBusy e.sel then { e with st := .waiting } else next (e.setHalf e.sel .owned)

/-- `S.GET` writes of a closed half have all landed (R185). -/
def StreamEng.fillHalf (e : StreamEng) (h : Bool) : StreamEng :=
  if e.halfSt h = .closed ∧ e.halfBusy h = false then e.setHalf h .full else e

/-! ## Completed accesses and posts (R192, R198) -/

/-- Drop the jobs that are done; each post waits for one fewer write. -/
def StreamEng.retire (e : StreamEng) : StreamEng :=
  let done (j : Job) : Bool := decide (j.len ≤ j.put)
  let n := (e.jobs.filter (fun j => j.out && done j)).length
  { e with jobs := e.jobs.filter (fun j => !done j),
           posts := e.posts.map (fun p => { p with behind := p.behind - n }) }

/-- Apply the posts of an engine that wait for nothing, in program order. -/
def State.streamPosts (s : State) (g k : Nat) : State :=
  let e := (s.cluster g).engine k
  let ready := e.posts.filter (fun p => p.behind == 0)
  let s := s.setCluster g ((s.cluster g).setEngine k { e with posts := e.posts.filter (fun p => p.behind != 0) })
  ready.foldl (fun s p => s.postFrom g p.scope p.name k) s

/-- After a job of an engine has moved: retire, post, and end if it can. -/
def State.afterJob (s : State) (who : Client) : State :=
  match who with
  | .stream cl e =>
    let c := s.cluster cl.val
    let s := s.setCluster cl.val (c.setEngine e.val (c.engine e.val).retire)
    let s := s.streamPosts cl.val e.val
    s.setCluster cl.val (s.cluster cl.val).tryEnds
  | _ => s

/-! ## Local store accesses of free requesters (R243) -/

/-- Banks that the fixed-latency requesters have claimed in ring cycle `t`, which is at its end; those in conflict too (R242). -/
def Cluster.claimed (c : Cluster) (t : Nat) : List Nat :=
  if c.ls.claim.1 = t then dedup (c.ls.claim.2.map bankOf) else []

/-- Bytes from `a` up to the end of its line. -/
def toLineEnd (a : Nat) : Nat := 64 - a % 64

/-- Bytes at an address cut at the ends of lines. -/
def lineCuts (o : Nat) (bs : List Byte) : List (Nat × List Byte) :=
  if bs.isEmpty then [] else
    (List.range ((o % 64 + bs.length + 63) / 64)).map (fun k =>
      let a := if k = 0 then o else (o / 64 + k) * 64
      (a, slice bs (a - o) (toLineEnd a)))

/-- `wrong` erroneous bytes are found in a line; whether its storage is defective is open (R244, log entry 68). -/
def LStore.found (ls : LStore) (k : LsCtx) (l wrong : Nat) : LStore :=
  if wrong = 0 then ls
  else { ls with upset := Tab.ins l wrong ls.upset
                 defect := if Config.lineDefect (k.key l) then Tab.ins l true ls.defect else ls.defect }

/-- A free read of at most one line, of the bytes from `a`: the bytes and the cluster afterwards; `wrong`
erroneous bytes are found in the line (R244, R250). -/
def Cluster.freeRead (c : Cluster) (k : LsCtx) (a n wrong : Nat) : List Byte × Cluster :=
  let l := lineOf a
  let ls := c.ls.found k l wrong
  let x := ls.note k [l]
  (ls.read k a n, { c with ls := x.1 }.raises x.2)

/-- A free write of at most one line. -/
def Cluster.freeWrite (c : Cluster) (k : LsCtx) (a wrong : Nat) (bs : List Byte) : Cluster :=
  let l := lineOf a
  let ls := c.ls.found k l wrong
  let x := ls.write k k.cycle (((List.range bs.length).zip bs).map (fun p => (a + p.1, p.2, (0xFF : Byte))))
  { c with ls := x.1 }.raises x.2

/-- What a job does with the local store of cluster `g` next, on its cluster's local side or in a window at its far side:
address, bytes, and whether it writes. A line is read as a whole, and written once the job holds all that it writes of it
(R192, R200); a write that is ready goes before a read. -/
def Job.nextAccess (j : Job) (home g : Nat) : Option (Nat × Nat × Bool) :=
  let near (done : Nat) : Option Nat := if home = g then some (j.near + done) else none
  let far (done : Nat) : Option Nat := match windowOf (j.far + done) with
    | some (h, o) => if h = g then some o else none
    | none => none
  let wr : Option (Nat × Nat × Bool) := ((if j.out then far else near) j.put).bind (fun o =>
    let n := min (j.len - j.put) (toLineEnd o)
    if 0 < n ∧ n ≤ j.buf.length then some (o, n, true) else none)
  let rd : Option (Nat × Nat × Bool) := ((if j.out then near else far) j.got).bind (fun o =>
    let n := min (j.len - j.got) (toLineEnd o)
    if 0 < n then some (o, n, false) else none)
  wr.or rd

/-- A job after `bs` have been read from its source, or its first `n` bytes delivered. -/
def Job.took (j : Job) (bs : List Byte) : Job := { j with buf := j.buf ++ bs, got := j.got + bs.length }
def Job.gave (j : Job) (n : Nat) : Job := { j with buf := j.buf.drop n, put := j.put + n }

/-- The cluster a client's engine belongs to. -/
def clientCluster : Client → Option Nat
  | .stream cl _ => some cl.val
  | .transfer cl _ => some cl.val
  | _ => none

/-- Explicit route of a client's accesses; streams and engines of the device take the default one (R271). -/
def State.routeOf (s : State) (who : Client) : Nat :=
  match who with
  | .transfer cl k => match (s.cluster cl.val).xfers.getD k.val none with
    | some x => x.route
    | none => 0xFFFF
  | _ => 0xFFFF

/-- Whether a client's accesses reach a span (R271, R273). -/
def State.clientReaches (s : State) (part : Nat) (who : Client) (span : Nat) : Bool :=
  match clientRing who with
  | some r => r / 16 == span || s.reachable part (r / 16) span (s.routeOf who)
  | none => true

/-- The line access that a Trestle request makes next in a logical slot, once the fixed-latency writes up to its submission have
landed (R217): the headers that its start checks read, then what it writes, in the order of its writes, then what it
reads (R220 to R222, R229, R243). -/
def Ring.trestleLine (r : Ring) (slot : Nat) : Option (Nat × Nat × Bool) :=
  let rd (l : List (Nat × Nat)) : Option (Nat × Nat × Bool) :=
    (l.find? (fun p => p.1 == slot)).map (fun p => (64 * p.2, 64, false))
  match r.tr.run with
  | none => none
  | some q =>
    if q.failed || !r.covered q.issued then none
    else match q.heads, q.lines with
      | _ :: _, _ => rd q.heads
      | [], w :: _ =>
        (q.lines.find? (fun x => x.ord == w.ord && x.slot == slot)).map (fun x => (x.addr, x.bytes.length, true))
      | [], [] => if q.unread then none else rd q.todo

/-- The line access that a client makes next in cluster `g`: address, bytes, whether it writes. -/
def State.freeLine (s : State) (g : Nat) (who : Client) : Option (Nat × Nat × Bool) :=
  match who with
  | .trestle r => if r.val = g / 16 then (s.ring r.val).trestleLine (g % 16) else none
  | who => match s.jobOf who, clientCluster who with
    | some j, some home => j.nextAccess home g
    | _, _ => none

/-- The free requester whose access a client's is: all transfers of a cluster are its transfer engine's (R243). -/
def requesterOf : Client → Client
  | .transfer cl _ => .transfer cl 0
  | who => who

/-- Whether a requester has an access to make in bank `b` of cluster `g`. -/
def State.wants (s : State) (g b : Nat) (who : Client) : Bool :=
  let at_ (x : Client) : Bool := match s.freeLine g x with
    | some (a, _, _) => bankOf (lineOf a) == b
    | none => false
  match who with
  | .transfer cl _ => (List.range 16).any (fun k => at_ (.transfer cl (Fin.ofNat 16 k)))
  | who => at_ who

/-- The record of ring cycle `t`; requesters that no longer wait leave the queue. -/
def FreeUse.enter (u : FreeUse) (t : Nat) (keep : Nat → Client → Bool) : FreeUse :=
  let q := u.queue.filter (fun p => keep p.1 p.2)
  if u.cycle = t then { u with queue := q } else { u with cycle := t, lines := [], served := [], waited := false, queue := q }

/-- A requester's place in the round of a cluster's free requesters (R243), from 1: its stream engines, its transfer engine,
its ring's Trestle engine, accesses from outside. -/
def roundPlace (g : Nat) : Client → Nat
  | .stream cl e => if cl.val = g then e.val + 1 else 7
  | .transfer cl _ => if cl.val = g then 5 else 7
  | .trestle _ => 6
  | _ => 7

/-- How far a requester's place lies past that of the one served last. -/
def FreeUse.turn (u : FreeUse) (g b : Nat) (w : Client) : Nat := (roundPlace g w + 6 - Tab.get 0 u.last b) % 7

/-- Whether requester `w` must wait for bank `b` of cluster `g` in this ring cycle: its line is not the one the bank is used
for, or the round comes first to another that waits for the bank; of one place the longest waiting goes first (R243). -/
def FreeUse.bars (u : FreeUse) (g b line : Nat) (w : Client) : Bool :=
  (match Tab.find u.lines b with
   | some l => l != line
   | none => false) ||
  (u.queue.takeWhile (fun p => p != (b, w))).any (fun p => p.1 == b && decide (u.turn g b p.2 ≤ u.turn g b w)) ||
  u.queue.any (fun p => p.1 == b && decide (u.turn g b p.2 < u.turn g b w))

def FreeUse.wait (u : FreeUse) (b : Nat) (w : Client) : FreeUse :=
  { u with waited := true, queue := if u.queue.contains (b, w) then u.queue else u.queue ++ [(b, w)] }

def FreeUse.serve (u : FreeUse) (g b line : Nat) (w : Client) : FreeUse :=
  { u with lines := Tab.ins b line u.lines, served := w :: u.served, queue := u.queue.filter (fun p => p != (b, w))
           last := Tab.ins b (roundPlace g w) u.last }

/-- A line of a Trestle request has been read, or written. -/
def TrRun.moved (q : TrRun) (slot a : Nat) (write : Bool) : TrRun :=
  if write then { q with lines := q.lines.eraseP (fun x => x.slot == slot && x.addr == a) }
  else if q.heads.isEmpty then { q with todo := q.todo.erase (slot, lineOf a) }
  else { q with heads := q.heads.erase (slot, lineOf a) }

/-- The bytes of the line that a request writes at an address. -/
def Trestle.lineBytes (x : Trestle) (slot a : Nat) : List Byte :=
  ((x.run.bind (fun q => q.lines.find? (fun x => x.slot == slot && x.addr == a))).map (·.bytes)).getD []

/-- A line has moved between cluster `g` and a client. -/
def State.freeMove (s : State) (g : Nat) (who : Client) (k : LsCtx) (c : Cluster) (a n wrong : Nat) (write : Bool) : State :=
  let failed (s : State) (x : Cluster) : State :=
    if x.flt.length ≠ c.flt.length then s.clientFault ((s.partOf (g / 16)).getD 0) who sfMemerr (windowAt g a) else s
  match s.jobOf who with
  | some j =>
    if write then
      ((s.setCluster g (c.freeWrite k a wrong (j.buf.take n))).setJob who (j.gave n)).afterJob who
    else
      let x := c.freeRead k a n wrong
      failed ((s.setCluster g x.2).setJob who (j.took x.1)) x.2
  | none =>
    let x := if write then c.freeWrite k a wrong ((s.ring (g / 16)).tr.lineBytes (g % 16) a) else (c.freeRead k a n wrong).2
    let s := s.setCluster g x
    let r := s.ring (g / 16)
    failed (s.setRing (g / 16) { r with tr := { r.tr with run := r.tr.run.map (fun q => q.moved (g % 16) a write) } }) x

/-- A free requester's turn at a line of cluster `g` in its ring's present cycle (R242, R243): it has it, unless it has had its
line of this ring cycle; it waits where the bank is claimed or another requester comes first. -/
def State.freeTurn (s : State) (g line : Nat) (w : Client) (has : FreeUse → State) : State :=
  let t := (s.ring (g / 16)).now
  let c := s.cluster g
  let b := bankOf line
  let u := c.ls.use.enter t (fun b w => s.wants g b w)
  if u.served.contains w then s
  else if (c.claimed t).contains b || u.bars g b line w then
    s.setCluster g { c with ls := { c.ls with wait := c.ls.wait + b2n !u.waited, use := u.wait b w } }
  else has (u.serve g b line w)

/-- One free access in the present ring cycle of cluster `g`, which its ring has ended: one line moves where the requester has its
turn. An access that cannot reach the window's span is not made (R271, R273). -/
def State.freeAccess (s : State) (g : Nat) (who : Client) (wrong : Nat) : State :=
  match s.freeLine g who with
  | none => s
  | some (a, n, write) =>
    let part := (s.partOf (g / 16)).getD 0
    if !s.clientReaches part who (g / 256) then s.clientFault part who sfXlate (windowAt g a)
    else s.freeTurn g (lineOf a) (requesterOf who) (fun u =>
      let r := s.ring (g / 16)
      let c := s.cluster g
      s.freeMove g who ⟨g / 16, r.wakes, r.now, 16 + g % 16, []⟩ { c with ls := { c.ls with use := u } } a n wrong write)

end Sys2Proof.Machine
end

