-- ==== Sys2Proof/Machine/PartitionOps.lean ====
section
/-! DEFINITION. Rings going off and coming on, self-tests and spares, and the ends of steps, loads, tenancies and
partitions (R130 to R133, R150, R244, R323 to R328, R337, R338, R362, R394, R399, R418). -/

namespace Sys2Proof.Machine

/-! ## Rings (R31, R240, R323, R394) -/

/-- The signal box's copy of a cluster's random streams. -/
def State.srOf (s : State) (g : Nat) : List SrStream := Tab.get (List.replicate 8 .reset) s.srCopy g

/-- The copy takes the live values of a ring's clusters (R323). -/
def State.saveStreams (s : State) (ring : Nat) : State :=
  let m := ((List.range 16).zip (s.ring ring).cl).foldl (fun m p => Tab.ins (ring * 16 + p.1) p.2.sr m) s.srCopy
  { s with srCopy := m }

/-- A ring's power switch opens: what it holds is lost (R31); the copy carries its random streams. -/
def State.ringOff (s : State) (ring : Nat) : State :=
  let r := s.ring ring
  if !r.awake then s
  else ((s.takeWork ring).saveStreams ring).setRing ring { Ring.reset with wakes := r.wakes }

def State.ringsOff (s : State) (rings : List Nat) : State := rings.foldl (fun s i => s.ringOff i) s

/-- The copy of a ring's random streams is set to zero (R323, R362). -/
def State.zeroStreams (s : State) (rings : List Nat) : State :=
  rings.foldl (fun s i => { s with srCopy := Tab.clear s.srCopy (i * 16) 16 }) s

/-- Whether a ring stands still: asleep, halted. -/
def Ring.still (r : Ring) : Bool := !r.awake || r.tt.run == .halted

def State.allStill (s : State) (part : Nat) : Bool := (s.part part).rings.all (fun i => (s.ring i).still)

/-- Schedules the image holds for a ring (R207). -/
def Image.schedsOf (im : Image) (ring : Nat) : List SchedRec := im.scheds.filter (fun x => x.ring == ring)

/-- What the signal box writes into a cluster at its ring's wake: random streams, bypass, member index registers,
stream programs (R98, R175, R181, R323). A recorded bypass is applied again whatever the wake's self-test finds, which R98 does
not say of a test that fails to confirm it (log entry 78). -/
def State.loadCluster (s : State) (im : Option Image) (ring slot : Nat) : Cluster :=
  let c := Cluster.powerUp (s.srOf (ring * 16 + slot)) (s.bypassOf ring (s.physOf ring slot))
  match im with
  | none => c
  | some im =>
    let m := memberRegs (im.levels ring slot)
    let t := im.targetOf ring
    { c with
      midx := m.1, mflat := m.2
      eng := (List.range 4).map (fun k => { StreamEng.reset with store := im.programs t k }) }

/-! ## Self-tests, bypasses, spares, retirement (R95 to R98, R244, R326 to R328) -/

/-- What a finding calls for. -/
inductive Finding where
  | fine | bypassed | failed
  deriving DecidableEq, Repr

/-- R95, R98, R244: the finding in a physical cluster; a new bypass enters the repair record. -/
def State.judge (s : State) (ring phys : Nat) (x : SelfTest) : Finding × State :=
  match x with
  | .clean => (.fine, s)
  | .broken => (.failed, s)
  | .column col =>
    let block := col.val / 7
    match s.bypassOf ring phys with
    | some b => if b = block then (.fine, s.note 0xFF ring 95 block) else (.failed, s)
    | none => (.bypassed, { s with repair := { s.repair with
        bypass := Tab.ins (ring * 17 + phys) col.val s.repair.bypass } }.note 0xFF ring 95 block)

/-! ## Random streams (R323, R324) -/

/-- The streams of a cluster: live ones, or the signal box's copy of a ring that is asleep. -/
def State.liveSr (s : State) (g : Nat) : List SrStream :=
  if (s.ring (g / 16)).awake then (s.cluster g).sr else s.srOf g

def State.setSr (s : State) (g : Nat) (l : List SrStream) : State :=
  if (s.ring (g / 16)).awake then s.setCluster g { s.cluster g with sr := l }
  else { s with srCopy := Tab.ins g l s.srCopy }

/-- Global numbers of a partition's active clusters, ascending. -/
def Partition.clusters (p : Partition) : List Nat :=
  p.rings.flatMap (fun r => (List.range 16).map (fun k => r * 16 + k))

def State.mapSr (s : State) (part : Nat) (f : SrStream → SrStream) : State :=
  (s.part part).clusters.foldl (fun s g => s.setSr g ((s.liveSr g).map f)) s

/-! ## Substitution (R326) -/

/-- Whether a ring's spare is free to serve. -/
def State.spareFree (s : State) (ring : Nat) : Bool :=
  Tab.get 0 s.repair.spare ring == 0 && !s.repair.failedSpares.contains ring

/-- R326: the spare takes a logical slot: its member index registers, cleared local store, random streams with live
values set to the anchors, and its own class. -/
def SrStream.toAnchor (x : SrStream) : SrStream := { x with step := x.astep, draw := x.adraw, cursor := x.acursor }

def State.substitute (s : State) (im : Option Image) (ring slot : Nat) : State :=
  let s := { s with repair := { s.repair with spare := Tab.ins ring (slot + 1) s.repair.spare } }
  let r := s.ring ring
  let g := ring * 16 + slot
  let sr := (if r.awake then (r.get slot).sr else s.srOf g).map SrStream.toAnchor
  let s := s.note 0xFF ring 326 slot
  if r.awake then s.setRing ring (r.put slot { s.loadCluster im ring slot with sr := sr })
  else { s with srCopy := Tab.ins g sr s.srCopy }

/-- Every stream goes back to its anchor (R324). -/
def State.toAnchors (s : State) (part : Nat) : State := s.mapSr part SrStream.toAnchor

/-- R328: a ring is retired: off for good, out of its partition, in the repair record. -/
def State.retireRing (s : State) (ring : Nat) : State :=
  let s := s.ringOff ring
  let s := { s with repair := { s.repair with retired := setIns ring s.repair.retired } }
  match s.partOf ring with
  | none => s.note 0xFF ring 328 0
  | some part =>
    let p := s.part part
    ((s.setPart part { p with rings := setDel ring p.rings }).notify part 4 ring).note part ring 328 0

/-- One finding at a physical slot of a ring: answers whether the ring is to be retired. -/
def State.handleFinding (s : State) (im : Option Image) (ring phys : Nat) (x : SelfTest) : Bool × State :=
  match s.judge ring phys x with
  | (.fine, s) => (false, s)
  | (.bypassed, s) =>
    let r := s.ring ring
    if r.awake then
      (false, (List.range 16).foldl (fun s k =>
        if s.physOf ring k = phys then
          let r := s.ring ring
          let c := r.get k
          s.setRing ring (r.put k { c with mx := { c.mx with bypass := s.bypassOf ring phys } })
        else s) s)
    else (false, s)
  | (.failed, s) =>
    if phys = 16 then
      let serves := Tab.get 0 s.repair.spare ring ≠ 0
      (serves, { s with repair := { s.repair with failedSpares := setIns ring s.repair.failedSpares } })
    else if s.physOf ring phys = 16 then (false, s)
    else if s.spareFree ring then (false, s.substitute im ring phys)
    else (true, s)

/-- Findings at the physical slots of a ring, one after another. -/
def State.handleFindings (s : State) (im : Option Image) (ring : Nat) :
    List (Nat × SelfTest) → Bool × State
  | [] => (false, s)
  | (phys, x) :: rest =>
    match s.handleFinding im ring phys x with
    | (true, s) => (true, s)
    | (false, s) => State.handleFindings s im ring rest

/-! ## Power of shared domains (R395, R399) -/

/-- Partitions with a region on a span. -/
def State.partsOn (s : State) (span : Nat) : List Nat :=
  (s.parts.filter (fun p => !(p.2.regionsOn span).isEmpty)).map (·.1)

/-- Whether any partition holds a region on a span. -/
def State.granted (s : State) (span : Nat) : Bool := s.parts.any (fun p => !(p.2.regionsOn span).isEmpty)

/-- R395: with DECKOFF, a deck that is on or in self-refresh and has no region granted turns off. -/
def State.restFree (s : State) : State :=
  if s.power.deckoff then
    (List.range 16).foldl (fun s k =>
      let d := s.deck k
      if (d.pow = .on ∨ d.pow = .selfRefresh) ∧ !s.granted k ∧ d.scrub = [] then
        s.setDeck k { d with pow := .off, clean := [] }
      else s) s
  else s

/-- All sixteen span uncores, the siding logic and memory, and the edges come on; decks in self-refresh wake. -/
def State.fabricOn (s : State) : State :=
  if s.power.unc then s
  else
    let s := { s with power := { s.power with unc := true } }
    let s := (List.range 16).foldl (fun s k =>
      let d := s.deck k
      if d.pow = .selfRefresh ∧ s.granted k then s.setDeck k { d with pow := .on } else s) s
    (List.range 23).foldl (fun s die => (List.range 7).foldl (fun s side =>
      let e := s.edge die side
      if (farDie die side).isSome && e.st == .absent then
        s.setEdge die side { e with
          st := .active, lanes := (edgeLanes die side).1, spares := (edgeLanes die side).2 }
      else s) s) s

/-- A deck comes on, from self-refresh or from off; one that was off is scrubbed (R395), and its counts begin at its power-up
(R264). -/
def State.deckOn (s : State) (span : Nat) : State :=
  let d := s.deck span
  match d.pow with
  | .on => s
  | .off =>
    let s := s.setDeck span { d with
      cecnt := 0, uecnt := 0, forced := 0, maxowed := 0, busy := 0, now := 0, chans := [], scrubbed := [] }
    let s := (List.range d.regions).foldl (fun s r => s.zeroRegion span r) s
    s.setDeck span { s.deck span with pow := .on, clean := List.range 256 }
  | _ => s.setDeck span { d with pow := .on }

/-! ## Orders of a tenancy (R418) -/

/-- Orders TAKEN complete with `taken`, orders POSTED with OWNERSHIP; each is logged (R341). -/
def State.closeOrders (s : State) (part f taken : Nat) : State :=
  (List.range 64).foldl (fun s k =>
    match s.slotState f k with
    | 1 => s.completeBad f k part stOwnership
    | 2 => s.completeBad f k part taken
    | _ => s) s

/-- Halts of the operator that wait for the step they halted (R178). -/
def State.answerHalts (s : State) (part : Nat) (slots : Bool) : State :=
  let p := s.part part
  let s := s.setPart part { p with halts := [] }
  p.halts.foldl (fun s o => match o with
    | .slot _ _ => if slots then s.answer o stOk [] else s
    | .mgmt _ => s.answer o stOk []) s

/-- The frame that tells the meter of a partition event, under the next event number (R377). -/
def State.meterEvent (s : State) (ev : PEvent) (part : Nat) (rings : List Nat) : State :=
  { s with evseq := s.evseq + 1 }.emit (.event ev part rings (s.evseq + 1))

/-! ## Group slots (R282) -/

def State.freeGroups (s : State) (part : Nat) : State :=
  { s with
    groups := s.groups.filter (fun g => g.2.part ≠ part)
    colls := s.colls.filter (fun x => !((Tab.find s.groups x.slot).any (fun g => g.part == part))) }

/-- The lowest free group slots take the groups of an image (R282, R304). -/
def State.takeGroups (s : State) (part : Nat) (rs : List GroupRec) : State :=
  rs.foldl (fun s r =>
    match (List.range 16).find? (fun k => (Tab.find s.groups k).isNone) with
    | some k => s.setGroup k
        { part := part, rcd := r, epoch := 0, fault := 0, fpos := 0, flags := 0, slowest := 0, slowLag := 0,
          done := 0, inv := [], norm := 0 }
    | none => s) s

/-! ## The end of a tenancy and of a partition (R133, R338, R362) -/

/-- The regions of a partition as (span, region). -/
def Partition.regionPairs (p : Partition) : List (Nat × Nat) := p.regions.map (fun x => (x / 256, x % 256))

def State.startScrub (s : State) (rs : List (Nat × Nat)) : State :=
  rs.foldl (fun s x => let d := s.deck x.1; s.setDeck x.1 { d with scrub := setIns x.2 d.scrub }) s

def State.scrubbing (s : State) (part : Nat) : Bool :=
  (s.part part).regionPairs.any (fun x => (s.deck x.1).scrub.contains x.2)

/-- Whether a router holds a flit that carries the partition's identifier (R362). -/
def State.inRouters (s : State) (part : Nat) : Bool :=
  s.edges.any (fun e => e.2.held.any (fun f => f.2.part.toNat == part))

/-- What the last steps of an end wait for: the scrub, and the routers' buffers. -/
def State.lingers (s : State) (part : Nat) : Bool := s.scrubbing part || s.inRouters part

/-- Siding blocks attributed to a partition are zeroed and freed (R338, R362). -/
def State.freeSiding (s : State) (part : Nat) : State :=
  let s := s.journalDrop part
  [0, 1].foldl (fun s k =>
    let x := s.siding k
    s.setSiding k { x with
      copies := x.copies.filter (fun c => c.part ≠ part), staged := Tab.del part x.staged
      jfull := setDel part x.jfull }) s

/-- VFs disappear once the tenancies that the clearing of VF Enable ends have ended (R412). -/
def State.settleVfs (s : State) : State :=
  if s.host.clearing && s.parts.all (fun p => p.2.vf.isNone) then
    { s with host := { s.host with vfEnable := false, clearing := false } }
  else s

/-- What a tenancy leaves is gone: image with its consists' status blocks, keys, tokens, streams, groups, siding blocks; the
partition stays in EMPTY with its rings and regions. -/
def State.clearTenancy (s : State) (part : Nat) : State :=
  let p := s.part part
  let s := (s.freeGroups part).freeSiding part
  let s := s.zeroStreams p.rings
  let s := match p.vf with
    | some f => s.setFn f { s.fn f with ideKeys := [], ideAlt := none, ideActive := false, spdm := false }
    | none => s
  (s.setPart part { p with
    st := .empty, came := .empty, vf := none, key := none, image := none, stepno := 0, spanTok := [], devTok := []
    job := .idle, halts := [], opt := false, optAt := [], ckpt := none, drains := [], handling := false, units := [], faces := [] }).settleVfs

/-- A tenancy begins (R337). -/
def State.beginTenancy (s : State) (part vf : Nat) : State :=
  let p := s.part part
  (s.setPart part { p with vf := some vf, tenancy := p.tenancy + 1 }).meterEvent .bind part p.rings

/-- Step 5 of R133: identifier, rings and regions are released. -/
def State.release (s : State) (part : Nat) : State :=
  let p := s.part part
  let s := p.regionPairs.foldl (fun s x =>
    let d := s.deck x.1
    s.setDeck x.1 { d with owner := Tab.del x.2 d.owner, clean := [] }) s
  (s.setPart part { Partition.reset with tenancy := p.tenancy }).restFree.meterEvent .teardown part p.rings

/-- The last steps, once the scrub is done and no router holds a flit of the partition. -/
def State.finishEnd (s : State) (part : Nat) : State :=
  match (s.part part).job with
  | .teardown h true =>
    if s.lingers part then s else ((s.clearTenancy part).release part).reply h stOk []
  | .ending slot next true =>
    if s.lingers part then s
    else
      let s := (s.clearTenancy part).meterEvent .unbind part (s.part part).rings
      let s := match next with
        | some vf => s.beginTenancy part vf
        | none => s
      match slot with
      | some k => s.complete 0 k stOk 0 []
      | none => s
  | _ => s

/-- The ends that waited go on. -/
def State.finishEnds (s : State) : State := (List.range 64).foldl State.finishEnd s

/-- Steps 2 and 3 of R133: rings off, scrub under way. -/
def State.powerOffEnd (s : State) (part : Nat) : State :=
  let p := s.part part
  let off (j : PJob) : PJob := match j with
    | .teardown h _ => .teardown h true
    | .ending a b _ => .ending a b true
    | j => j
  let s := s.ringsOff p.rings
  let s := s.setPart part { s.part part with job := off p.job }
  (s.startScrub p.regionPairs).finishEnd part

/-- A partition that is ending goes on when its rings stand still. -/
def State.proceed (s : State) (part : Nat) : State :=
  match (s.part part).job with
  | .teardown _ false => if s.allStill part then s.powerOffEnd part else s
  | .ending _ _ false => if s.allStill part then s.powerOffEnd part else s
  | _ => s

/-- An accepted teardown or end of tenancy: what is in progress ends, orders complete, the rings are told to
halt (R133, R152, R338, R418). -/
def State.beginEnd (s : State) (part : Nat) (job : PJob) (st : PState) : State :=
  let p := s.part part
  let s := match p.vf with
    | some f => s.closeOrders part f stConflict
    | none => s
  let s := s.answerHalts part false
  let s := s.setPart part { s.part part with job := job, st := st }
  (s.reportAll part).proceed part

/-! ## Member faults seen at the unit's status block (R22, R23) -/

/-- Program registers and hardware causes a ring and its clusters have raised, with the logical slot. -/
def Ring.causes (r : Ring) : List (Nat × Cause) :=
  ((List.range 16).zip r.cl).flatMap (fun p => p.2.flt.map (fun c => (p.1, c))) ++ r.flt

end Sys2Proof.Machine
end

