-- ==== Sys2Proof/Machine/Gates.lean ====
section
/-! DEFINITION. What stands before every order of a function and every message of a management session
(R9, R336, R345, R352, R365, R368, R417, R418), and the ends of a step and of a checkpoint that commands of several
roles bring about (R178, R305, R307, R315, R319). -/

namespace Sys2Proof.Machine

/-! ## Functions and orders -/

/-- Whether a function exists (R412); a bound VF does until it has been unbound. -/
def State.fnExists (s : State) (f : Nat) : Bool :=
  decide (f = 0) || (s.host.vfEnable && (decide (f ≤ s.host.numVfs) || (s.boundPart f).isSome))

/-- The answer to a configuration request of a function before step 7 of Table 14.8, and in recovery: Request Retry Status (R352,
R408). -/
def State.retryConfig (s : State) (f : Nat) : State :=
  if s.il.boot = .recovery ∨ (s.il.boot = .none_ ∧ s.released ∧ s.lands.perst) then s.emit (.retry f) else s

/-- Whether a partition's tenancy or the partition itself is ending. -/
def Partition.ending (p : Partition) : Bool :=
  match p.job with
  | .teardown _ _ => true
  | .ending _ _ _ => true
  | _ => false

/-- The partition whose tenant holds a VF (R337, R418). -/
def State.tenant (s : State) (vf : Nat) : Option Nat :=
  match s.boundPart vf with
  | some p => if (s.part p).ending then none else some p
  | none => none

/-- The partition in TEARDOWN that a VF is still bound to. -/
def State.torn (s : State) (vf : Nat) : Option Nat :=
  if vf = 0 then none else (s.boundPart vf).filter (fun p => (s.part p).st == .teardown)

/-- The signal box takes an order: STATE becomes TAKEN (R417). -/
def State.takeOrder (s : State) (f slot : Nat) : State :=
  let s := s.putBook f (slotAt slot) [2]
  { s with host := { s.host with scanFn := f }, power := { s.power with cores := true } }

/-- Whether the signal box evaluates an order in a slot now: it has booted, the function exists, and the slot holds no
order in progress. -/
def State.takes (s : State) (f slot : Nat) : Bool :=
  (s.il.boot == .booted) && s.fnExists f && (s.slotState f slot != 2)

/-- An order of the PF (R336). `ok` says that its arguments check. -/
def State.pfOrder (s : State) (f slot : Nat) (ok : Bool) (g : State → State) : State :=
  if !s.takes f slot then s
  else
    let s := s.takeOrder f slot
    if f ≠ 0 then s.completeBad f slot 0xFF stOwnership
    else if !ok then s.completeBad f slot 0xFF stFormat
    else if s.il.locked then s.completeBad f slot 0xFF stConflict
    else g s

/-- Whether IDE is required and the VF's selective stream is active: its TLPs come in that stream (R365). -/
def State.ideNeeds (s : State) (f part : Nat) : Bool :=
  match (s.part part).key with
  | some k => k.idereq && (s.fn f).ideActive
  | none => false

/-- Whether IDE is required and the VF's selective stream is not active (R365). -/
def State.ideBars (s : State) (f part : Nat) : Bool :=
  match (s.part part).key with
  | some k => k.idereq && !(s.fn f).ideActive
  | none => false

/-- An order of a tenant that names what is not its own: OWNERSHIP (R336). -/
def State.foreignOrder (s : State) (f slot part : Nat) : State :=
  if s.takes f slot then (s.takeOrder f slot).completeBad f slot part stOwnership else s

/-- A certificate, seal or unseal order of a VF whose partition is in TEARDOWN: STATE_CONFLICT (R339, R359). -/
def State.tornOrder (s : State) (f slot part : Nat) (ok : Bool) : State :=
  if s.takes f slot then (s.takeOrder f slot).completeBad f slot part (if ok then stConflict else stFormat) else s

/-- An order of a tenant; a function whose tenancy has ended or is ending, by a teardown too, has no tenant (R336, R337, R418; log
entry 84). `cert` marks the request that R365 lets through. -/
def State.vfOrder (s : State) (f slot : Nat) (ok cert : Bool) (g : State → Nat → State) : State :=
  if !s.takes f slot then s
  else
    let s := s.takeOrder f slot
    match (if f = 0 then none else s.tenant f) with
    | none => s.completeBad f slot 0xFF stOwnership
    | some part =>
      if !ok then s.completeBad f slot part stFormat
      else if s.il.locked then s.completeBad f slot part stConflict
      else if s.ideBars f part && !cert then s.completeBad f slot part stConflict
      else g s part

/-! ## Management sessions (R368) -/

/-- Thirty minutes in ticks of the standing clock. -/
def sessLimit : Nat := 3686400000

/-- Reject a management command (R336): its reply carries the code, and it is logged. -/
def State.rejectMsg (s : State) (h : Mgmt) (part code : Nat) : State := (s.reply h code []).reject part code

/-- A management command: it wakes CORES (R395); its session is open and fresh, its sequence number rises and its tag verifies, and the device
is in a state that takes it. -/
def State.command (s : State) (h : Mgmt) (lockedOk recoveryOk : Bool) (g : State → State) : State :=
  if s.il.boot = .none_ then s
  else
  let s := s.rouse
  match s.session h.sess.val with
  | none => s
  | some x =>
    if x.stage ≠ .open_ then s
    else if x.last + sessLimit ≤ h.tick then s.setSession h.sess.val none
    else if !h.tagOk || (match x.rx with | some r => decide (h.seq ≤ r) | none => false) then
      s.note 0xFF nodeSb 368 0
    else
      let s : State := { s with power := { s.power with tick := max s.power.tick h.tick } }
      let x : Session := { x with rx := some h.seq, count := x.count + 1, last := max x.last h.tick }
      let s := { s.setSession h.sess.val (some x) with power := { s.power with cores := true } }
      let s :=
        if s.il.locked && !lockedOk then s.rejectMsg h 0xFF stConflict
        else if s.il.boot == .recovery && !recoveryOk then s.rejectMsg h 0xFF stConflict
        else g s
      if 2 ^ 32 ≤ x.count then s.setSession h.sess.val none else s

/-- A command that names something of the device: the ownership test comes before those of R345 and R352 (R336). -/
def State.commandOwn (s : State) (h : Mgmt) (own : State → Bool) (g : State → State) : State :=
  s.command h true true (fun s =>
    if !own s then s.rejectMsg h 0xFF stOwnership
    else if s.il.locked || s.il.boot == .recovery then s.rejectMsg h 0xFF stConflict
    else g s)

/-! ## A channel goes offline (R261) -/

def State.zeroDeck (s : State) (span : Nat) : State :=
  let d := s.deck span
  { s with
    mem := Tab.clear s.mem (span * 2 ^ 32) (2 ^ 32), stalled := s.stalled.filter (fun x => x.1 / 2 ^ 32 ≠ span) }.setDeck span
    { d with poison := [], scrubbed := [], clean := List.range 256, busy := (d.busy + 2 ^ 26) % 2 ^ 64 }

/-- Step 1 of R261: every partition with a region on the span halts at its next hold, its step faulted. The journal is
restored as its recovery ends. -/
def State.channelHalt (s : State) (span ch : Nat) : State :=
  let s := (s.partsOn span).foldl (fun s p => s.faultStep p true) s
  s.setDeck span { s.deck span with failing := some ch }

/-- Steps 2 to 5: the scrub, the 63-channel interleave, the withdrawn regions, the reports. -/
def State.channelOff (s : State) (span ch : Nat) : State :=
  let s := s.zeroDeck span
  let d := { s.deck span with failing := none, offline := some ch }
  let s := s.setDeck span (d.setChan ch .reset).nextRetrain
  let s := [252, 253, 254, 255].foldl (fun s r => s.withdraw span r (r * 4096) 4) s
  let s := s.note 0xFF (256 + span) 261 ch
  ((s.partsOn span).foldl (fun s p => s.notify p 3 span) s).unstall

/-- A channel that is to go offline does so once every step of a partition with a region on the span has ended (R261). -/
def State.settleChannel (s : State) (span : Nat) : State :=
  match (s.deck span).failing with
  | some ch => if (s.partsOn span).any (fun p => (s.part p).stepJob.any (fun j => j.done.isNone)) then s
    else s.channelOff span ch
  | none => s

def State.settleChannels (s : State) : State := (List.range 16).foldl (fun s k => s.settleChannel k) s

/-- Whether a deck that the partition has a region on is about to lose a channel. -/
def State.failingOn (s : State) (part : Nat) : Bool :=
  (List.range 16).any (fun k => (s.deck k).failing.isSome && (s.partsOn k).contains part)

/-- The step order completes with its code and STEPNO; halts that waited for it complete with OK. -/
def State.finishStep (s : State) (part code : Nat) (replan : Bool) : State :=
  let p := s.part part
  match p.stepJob with
  | none => s
  | some j =>
    let s := s.setPart part { p with st := (if replan || j.replan then .replan else .ready), job := .idle, opt := false }
    let s := s.complete j.fn j.slot code 0 [(64, toLe 8 p.stepno)]
    let s := if code = stOk then s else s.note part nodeSb 0 code
    s.answerHalts part true

/-- Steps that waited for their decks to be scrubbed end. -/
def State.finishSteps (s : State) : State :=
  s.parts.foldl (fun s p => match p.2.stepJob.bind (·.done) with
    | some (code, replan) => if s.failingOn p.1 then s else s.finishStep p.1 code replan
    | none => s) s

/-- A step ends. On a deck that is about to lose a channel the partition returns to READY once that is scrubbed (R261). -/
def State.endStep (s : State) (part code : Nat) (replan : Bool) : State :=
  if s.failingOn part then
    ((s.onStep part (fun j => { j with done := j.done.or (some (code, replan)) })).settleChannels).finishSteps
  else s.finishStep part code replan

/-! ## Manifests (Table 13.3) -/

def mfCapturing : Nat := 0
def mfStaged : Nat := 1
def mfComplete : Nat := 2
def mfFailed : Nat := 3

/-- Write the state, the cause and the first failing extent of a manifest. -/
def State.manifestState (s : State) (part addr st cause fext : Nat) : State :=
  s.writePart part (addr + 4) ([BitVec.ofNat 8 st, BitVec.ofNat 8 cause] ++ toLe 2 fext)

/-- A capture ends in FAILED; it has staged nothing yet. -/
def State.failCkpt (s : State) (part cause fext : Nat) : State :=
  let p := s.part part
  match p.ckpt with
  | none => s
  | some ck =>
    (s.setPart part { p with ckpt := none }).manifestState part ck.manifest mfFailed cause fext

/-! ## Halts (R178) -/

/-- A halt accepted for a RUNNING partition. After the commit point it ends the capture, and the step order completes
with OK. -/
def State.haltPart (s : State) (part : Nat) (who : List Origin) : State :=
  let p := s.part part
  match p.stepJob with
  | none => s
  | some j =>
    let s := s.setPart part { p with halts := p.halts ++ who }
    if j.committed then (s.failCkpt part 3 0xFFFF).endStep part stOk j.replan
    else (s.onStep part (fun j => { j with halting := true })).reportAll part

end Sys2Proof.Machine
end

