-- ==== Sys2Proof/Machine/DeckCtl.lean ====
section
/-! DEFINITION. What the deck controllers' commands share: requests on behalf of engines, journaled writes,
retraining, repair orders (R248, R251, R254 to R263, R273, R310 to R313). -/

namespace Sys2Proof.Machine

/-! ## Requests -/

/-- Whether a request can reach its deck (R271, R273). -/
def State.reaches (s : State) (x : DeckAcc) : Bool := s.clientReaches x.part.val x.who x.span.val

/-- Whether an entry of a partition's region table leads to a device address, a writable one where asked (R141). -/
def State.tableAdmits (s : State) (part dev : Nat) (write : Bool) : Bool :=
  (List.range 256).any (fun k => match (s.part part).entry (dev / 2 ^ 32) k with
    | some (r, w) => r == bits dev 24 8 && (w || !write)
    | none => false)

/-- Whether a request is one that its client's job makes next at its address; a Trestle engine reaches its own span's deck, under
the region table, for the request that runs (R206), and other clients keep no job. -/
def State.matchesJob (s : State) (x : DeckAcc) (out : Bool) : Bool :=
  match x.who with
  | .stream _ _ | .transfer _ _ =>
    match s.jobOf x.who with
    | none => false
    | some j => s.deckTurn x.part.val j == some (devOf x, out)
  | .trestle r => r.val / 16 == x.span.val && s.partOf r.val == some x.part.val &&
      (s.ring r.val).tr.run.any (fun q => !q.failed && !q.unread) && s.tableAdmits x.part.val (devOf x) out
  | _ => true

/-- Whether every ring of every partition with a region on the span is at a hold bundle or halted (R254). -/
def State.spanQuiet (s : State) (span : Nat) : Bool :=
  (s.partsOn span).all (fun p => (s.part p).rings.all (fun i =>
    let r := s.ring i
    !r.awake || r.tt.run == .halted || r.tt.run == .hold))

/-- What becomes of a request before the controller serves it: it waits, it is refused, or it is served. -/
inductive Entry where
  | waits | refused | unreachable | served
  deriving DecidableEq, Repr

def State.entryOf (s : State) (x : DeckAcc) (out : Bool) : Entry :=
  let d := s.deck x.span.val
  if !d.serves x.addr.toNat || !s.matchesJob x out || !s.turnOf x out then .waits
  else if s.withdrawnAt (devOf x) then .unreachable
  else if !d.admits x.part.val x.addr.toNat then .refused
  else if !s.reaches x then .unreachable
  else .served

/-- The access of a request that is not served faults with XLATE, or waits. -/
def State.unserved (s : State) (x : DeckAcc) (e : Entry) : State :=
  match e with
  | .refused => s.refuse x
  | .unreachable => s.clientFault x.part.val x.who sfXlate (s.nameAddr x.part.val (devOf x))
  | _ => s

/-- The step in progress has met an uncorrectable granule (R257). -/
def State.meets (s : State) (part g : Nat) : State := s.onStep part (fun j => { j with pages := setIns g j.pages })

/-- The same, by partition address; an address outside the decks names no granule. -/
def State.meetsAt (s : State) (part pa : Nat) : State :=
  match s.tableAddr part pa with
  | some (dev, _) => s.meets part (dev / 64 * 64)
  | none => s

/-- MEMERR of a request, at a granule. -/
def State.memerr (s : State) (x : DeckAcc) (g : Nat) : State :=
  (s.clientFault x.part.val x.who sfMemerr (s.nameAddr x.part.val g)).meets x.part.val g

/-- Bytes a client's write carries: those of its job up to the end of the granule, or those of the command. -/
def State.writeData (s : State) (x : DeckAcc) (data : List Byte) : List Byte :=
  match s.jobOf x.who with
  | some j => j.buf.take (j.piece (devOf x))
  | none => data

/-- A client's job has delivered `n` bytes. -/
def State.gave (s : State) (who : Client) (n : Nat) : State :=
  match s.jobOf who with
  | some j => (s.setJob who (j.gave n)).afterJob who
  | none => s

/-! ## Journaled writes (R310, R311, R313) -/

/-- Whether a request's job, or the Trestle request it serves, was taken up in its ring's optimizer phase. -/
def State.jobJr (s : State) (who : Client) : Bool :=
  match who with
  | .trestle r => (s.ring r.val).tr.run.any (·.jr)
  | who => (s.jobOf who).any (·.jr)

/-- One granule of a journaled write. -/
def State.journalGranule (s : State) (x : DeckAcc) (count : Nat) (w : Nat × List Byte × List Bool) : State :=
  let k := sidingOf x.span.val
  let sd := s.siding k
  let part := x.part.val
  let whole := w.2.2.all id
  let bad := s.poisoned w.1
  if bad && !whole then s.memerr x w.1
  else match sd.offer part with
  | .full => s.journalFull part k
  | .noBlock => s
  | .taken =>
    let e : JEntry := ⟨w.1, part, (sd.made + 1) % 2 ^ 64, if bad then none else some (s.deckBytes w.1 64)⟩
    (s.fetch w.1 64).setSiding k { sd with made := e.seq, waiting := sd.waiting ++ [⟨e, x.who, count, w.2.1, w.2.2⟩] }

/-- Whether a journaled write of a client waits already. -/
def State.journaling (s : State) (who : Client) : Bool :=
  match s.jobOf who with
  | some _ => [0, 1].any (fun k => (s.siding k).waiting.any (fun w => w.who == who))
  | none => false

/-! ## Writes of engines whose work is one act: collectives, Trestle (R251, R257, R310, R311) -/

/-- One granule of such a write; it may not merge into a poisoned granule. -/
def State.engineGranule (s : State) (part : Nat) (jr : Bool) (w : Nat × List Byte × List Bool) : Option EngBad × State :=
  let whole := w.2.2.all id
  let span := w.1 / 2 ^ 32
  if s.poisoned w.1 && !whole then (some (.mem (s.nameAddr part w.1)), s)
  else
    match if s.journalsNow part span jr then s.journalNow part w.1 else (none, s) with
    | (some b, s) => (some b, s)
    | (none, s) =>
      let old := s.deckBytes w.1 64
      let s := if whole then s.clearPoison w.1 64 else s.fetch w.1 64
      (none, (s.putBytes w.1 (mergeMask old w.2.1 w.2.2)).buffer w.1 64)

def State.engineGranules (s : State) (part : Nat) (jr : Bool) : List (Nat × List Byte × List Bool) → Option EngBad × State
  | [] => (none, s)
  | w :: ws =>
    match s.engineGranule part jr w with
    | (some b, s) => (some b, s)
    | (none, s) => State.engineGranules s part jr ws

/-- Write bytes at a partition address, piece by piece, from die `home`. -/
def State.engineWrite (s : State) (home : Option Nat) (part pa : Nat) (jr : Bool) (bs : List Byte) : Option EngBad × State :=
  (cutEntries pa bs).foldl (fun acc p =>
    match acc with
    | (some b, s) => (some b, s)
    | (none, s) =>
      match s.translate part p.1 with
      | some (dev, true) =>
        if !s.homeReaches home dev then (some (.xlate p.1), s) else s.engineGranules part jr (overGranules dev p.2 [])
      | _ => (some (.xlate p.1), s)) (none, s)

/-- The first line of a range whose read is not delivered. -/
def State.firstBad (s : State) (part pa len : Nat) : Nat :=
  ((List.range (ceilDiv len 64)).map (fun k => pa + 64 * k) |>.find? (fun a => (s.readPart part a 1).isNone)).getD pa

/-- The first piece of a range that an engine on die `home` does not reach. -/
def State.firstFar (s : State) (home : Option Nat) (part pa len : Nat) : Option Nat :=
  (entryStarts pa len).find? (fun a => match s.translate part a with
    | some (dev, _) => !s.homeReaches home dev
    | none => false)

/-- The deck cycles of an engine's reads of ranges. -/
def State.engineFetch (s : State) (part : Nat) (rs : List (Nat × Nat)) : State :=
  rs.foldl (fun s r => s.fetchPart part r.1 r.2) s

/-- Read a range by partition address from die `home`, or what stops the read. -/
def State.engineRead (s : State) (home : Option Nat) (part pa len : Nat) : Except EngBad (List Byte) :=
  match s.firstFar home part pa len with
  | some a => .error (.xlate a)
  | none => match s.readPart part pa len with
  | some l => .ok l
  | none => .error (if s.maps part pa len false then .mem (s.firstBad part pa len) else .xlate pa)

/-- The granules that writes to ranges of partition addresses would journal now. -/
def State.toJournal (s : State) (part : Nat) (rs : List (Nat × Nat)) : List Nat :=
  (rs.flatMap (fun r => (cutEntries r.1 (List.replicate r.2 0)).flatMap (fun p =>
    match s.translate part p.1 with
    | some (dev, true) => granules dev p.2.length
    | _ => []))).filter (fun g => s.journalsNow part (g / 2 ^ 32) false)

/-- Whether the siding dies have the blocks that those entries take, as far as the partition's limit lets it write (R313). -/
def State.journalRoom (s : State) (part : Nat) (rs : List (Nat × Nat)) : Bool :=
  let gs := s.toJournal part rs
  [0, 1].all (fun k =>
    let x := s.siding k
    let n := ceilDiv (x.jbytes part + (gs.filter (fun g => sidingOf (g / 2 ^ 32) == k)).length * entryBytes) blockBytes
    decide (min n (x.jlimit part) ≤ x.free + x.jblocks part))

/-- Whether an engine's reads and writes of ranges can be made now: none waits for a channel that is retraining or for a
free journal block (R260, R313). -/
def State.engineReady (s : State) (part : Nat) (rd wr : List (Nat × Nat)) : Bool :=
  (rd ++ wr).all (fun r => s.rangeServes part r.1 r.2) && s.journalRoom part wr

/-! ## Scrubs (R263) -/

/-- The scrub's last write is made: its regions hold zero granules; what waited for it goes on. -/
def State.scrubDone (s : State) (span : Nat) : State :=
  let rs := (s.deck span).scrub
  let s := rs.foldl (fun s r => s.zeroRegion span r) s
  let d := s.deck span
  let s := s.setDeck span { d with scrub := [], clean := rs.foldl (fun l r => setIns r l) d.clean }
  s.finishEnds

/-! ## Repair orders (R262) -/

/-- Whether every region of the deck has been scrubbed since its last region was released, those that a 63-channel deck
lacks left out (R261, R262). -/
def Deck.isClean (d : Deck) : Bool := (List.range d.regions).all (fun r => d.clean.contains r)

/-- Whether repair orders may reach a deck: in TEST, or in FIELD where it is empty and scrubbed (R262, Table 14.7). -/
def State.repairable (s : State) (span : Nat) : Bool :=
  (s.il.lc == 1) || ((s.il.lc == 2) && !s.granted span && (s.deck span).isClean)

/-- OP 1: the row is copied to its bank's next spare, in 32 and 32 data cycles (Table 10.6). -/
def State.repairRow (s : State) (span ch bank row : Nat) : Nat × State :=
  let d := s.deck span
  let used := Tab.get 0 d.spares (bankKey ch bank)
  if !s.repairable span then (stConflict, s)
  else if 64 ≤ used then (stBounds, s)
  else
    let key := rowKey ch bank row
    (stOk, s.setDeck span { d with
      busy := (d.busy + 64) % 2 ^ 64, remap := Tab.ins key (used + 1) d.remap, spares := Tab.ins (bankKey ch bank) (used + 1) d.spares
      corr := Tab.del key d.corr })

/-- OP 2: an offline channel returns to service. -/
def State.repairChannel (s : State) (span ch : Nat) : Nat × State :=
  let d := s.deck span
  if !s.repairable span then (stConflict, s)
  else if d.offline ≠ some ch then (stBounds, s)
  else (stOk, s.setDeck span { d with offline := none })

/-- OP 3: a withdrawn region is reinstated. -/
def State.repairRegion (s : State) (span region : Nat) : Nat × State :=
  let d := s.deck span
  if !s.repairable span then (stConflict, s)
  else if !d.withdrawn.contains region || (d.offline.isSome && decide (252 ≤ region)) then (stBounds, s)
  else (stOk, s.setDeck span { d with withdrawn := setDel region d.withdrawn })

/-- A write of `DK_RPCMD`. A reserved OP names no repair and does nothing. -/
def State.repairOrder (s : State) (span v : Nat) : Nat × State :=
  match bits v 28 4 with
  | 1 => s.repairRow span (bits v 22 6) (bits v 18 4) (bits v 7 11)
  | 2 => s.repairChannel span (bits v 22 6)
  | 3 => s.repairRegion span (bits v 7 8)
  | _ => if s.repairable span then (stOk, s) else (stConflict, s)

end Sys2Proof.Machine
end

