-- ==== Sys2Proof/Machine/Aes.lean ====
section
/-! DEFINITION. AES-256-GCM as FIPS 197 and SP 800-38D give it, which R276, R348 and R366 name. -/

namespace Sys2Proof.Machine

/-! ## The field of the cipher -/

/-- A product in GF(2⁸) by the low `k` bits of `b`, the reduction polynomial being x⁸ + x⁴ + x³ + x + 1. -/
def aesMulAux : Nat → Nat → Nat → Nat → Nat
  | 0, _, _, acc => acc
  | k + 1, a, b, acc =>
    let twice := if 128 ≤ a then (2 * a) % 256 ^^^ 0x1B else 2 * a
    aesMulAux k twice (b / 2) (if b % 2 = 1 then acc ^^^ a else acc)

def aesMul (a b : Nat) : Nat := aesMulAux 8 a b 0

/-- The inverse in the field, which is the power 254; that of 0 is 0. -/
def aesInv (a : Nat) : Nat :=
  let p2 := aesMul a a
  let p3 := aesMul p2 a
  let p12 := (fun x => aesMul x x) (aesMul p3 p3)
  let p15 := aesMul p12 p3
  let p240 := (List.range 4).foldl (fun x _ => aesMul x x) p15
  aesMul (aesMul p240 p12) p2

/-- The substitution of a byte: the inverse, then the affine map. -/
def aesSub (x : Nat) : Nat :=
  let b := aesInv x
  let turn (k : Nat) : Nat := (b * 2 ^ k % 256) ||| (b * 2 ^ k / 256)
  b ^^^ turn 1 ^^^ turn 2 ^^^ turn 3 ^^^ turn 4 ^^^ 0x63

/-! ## The cipher -/

/-- The round keys' words after one more group of eight (Nk = 8), the newest group first. -/
def aesExpand : Nat → Nat → List (List Nat) → List (List Nat)
  | 0, _, ws => ws
  | n + 1, rcon, ws =>
    let i := ws.length
    let prev := ws.headD []
    let temp :=
      if i % 8 = 0 then
        match prev with
        | [a, b, c, d] => [aesSub b ^^^ rcon, aesSub c, aesSub d, aesSub a]
        | w => w
      else if i % 8 = 4 then prev.map aesSub
      else prev
    let w := List.zipWith (· ^^^ ·) (ws.getD 7 []) temp
    aesExpand n (if i % 8 = 0 then aesMul 2 rcon else rcon) (w :: ws)

/-- The sixty words of a 32-byte key's schedule. -/
def aesWords (key : List Byte) : List (List Nat) :=
  let first := (List.range 8).map (fun k => (slice key (4 * k) 4).map BitVec.toNat)
  (aesExpand 52 1 first.reverse).reverse

/-- The sixteen bytes of round key `r`. -/
def roundKey (ws : List (List Nat)) (r : Nat) : List Nat := ((ws.drop (4 * r)).take 4).flatten

/-- Rows shift left by their number; bytes lie by columns. -/
def aesShift (b : List Nat) : List Nat := (List.range 16).map (fun k => b.getD ((k + 4 * (k % 4)) % 16) 0)

/-- Columns are multiplied by the fixed polynomial. -/
def aesMix (b : List Nat) : List Nat :=
  (List.range 16).map (fun k =>
    let at_ (j : Nat) : Nat := b.getD (k / 4 * 4 + (k + j) % 4) 0
    aesMul 2 (at_ 0) ^^^ aesMul 3 (at_ 1) ^^^ at_ 2 ^^^ at_ 3)

/-- A block of sixteen bytes under a key's schedule. -/
def aesBlock (ws : List (List Nat)) (b : List Nat) : List Nat :=
  let add (b : List Nat) (r : Nat) : List Nat := List.zipWith (· ^^^ ·) b (roundKey ws r)
  let mid := (List.range 13).foldl (fun b r => add (aesMix (aesShift (b.map aesSub))) (r + 1)) (add b 0)
  add (aesShift (mid.map aesSub)) 14

/-! ## Counter mode and the tag -/

/-- A product of GHASH by the bits of `x` from the most significant down. -/
def ghashMulAux : Nat → Nat → Nat → Nat → Nat
  | 0, _, _, z => z
  | k + 1, x, v, z =>
    let z := if x.testBit k then z ^^^ v else z
    ghashMulAux k x (if v % 2 = 1 then v / 2 ^^^ 0xE1 * 2 ^ 120 else v / 2) z

/-- The blocks of a byte string, the last padded with zeros, as numbers. -/
def gcmBlocks (l : List Byte) : List Nat := (List.range (ceilDiv l.length 16)).map (fun k => beNat (slice l (16 * k) 16))

def ghash (h : Nat) (blocks : List Nat) : Nat := blocks.foldl (fun y b => ghashMulAux 128 (y ^^^ b) h 0) 0

/-- The sixteen bytes of block `c` of the keystream of a 12-byte nonce. -/
def gcmStream (ws : List (List Nat)) (nonce : List Byte) (c : Nat) : List Byte :=
  (aesBlock ws ((slice nonce 0 12 ++ toBe 4 c).map BitVec.toNat)).map (BitVec.ofNat 8)

/-- Bytes under the keystream, from its block 2 on. -/
def gcmCrypt (key nonce l : List Byte) : List Byte :=
  let ws := aesWords key
  (List.range (ceilDiv l.length 16)).flatMap (fun k =>
    List.zipWith (· ^^^ ·) ((l.drop (16 * k)).take 16) (gcmStream ws nonce (k + 2)))

/-- The tag over additional data and ciphertext. -/
def gcmTag (key nonce aad ct : List Byte) : List Byte :=
  let ws := aesWords key
  let h := beNat ((aesBlock ws (List.replicate 16 0)).map (BitVec.ofNat 8))
  let sum := ghash h (gcmBlocks aad ++ gcmBlocks ct ++ [8 * aad.length * 2 ^ 64 + 8 * ct.length])
  List.zipWith (· ^^^ ·) (toBe 16 sum) (gcmStream ws nonce 1)

end Sys2Proof.Machine
end

