-- ==== Sys2Proof/Machine/NaridOps.lean ====
section
/-! DEFINITION. Narid links: frames waiting, the order they are sent in, acknowledgements, replays and link states
(R276 to R279, R302). -/

namespace Sys2Proof.Machine

/-! ## Links of a port -/

def State.link (s : State) (port : Nat) (half : Bool) : Link := (s.port port).half half
def State.setLink (s : State) (port : Nat) (half : Bool) (l : Link) : State :=
  s.setPort port ((s.port port).setHalf half l)

/-- The weight of a flow in the round robin (R302). -/
def State.weight (s : State) (k : Nat) : Nat :=
  if k = 16 then s.bulkw else match Tab.find s.groups k with
    | some g => g.rcd.weight
    | none => 1

/-- A flow's number in the round robin: group slots, then the bulk flow. -/
def Flow.round : Flow → Option Nat
  | .group k => some k
  | .bulk => some 16
  | _ => none

/-! ## Sending (R276, R277, R302) -/

/-- Take the first waiting frame of a flow. -/
def takeFlow (p : Flow → Bool) : List (Flow × NFrame) → Option (NFrame × List (Flow × NFrame))
  | [] => none
  | (k, f) :: l =>
    if p k then some (f, l)
    else match takeFlow p l with
      | some (g, l') => some (g, (k, f) :: l')
      | none => none

/-- The 32 header bytes of a frame (Table 11.4). -/
def frameHeader (f : NFrame) : List Byte :=
  [f.cls, 0] ++ toLe 2 f.seq.toNat ++ toLe 2 f.ack.toNat ++ toLe 2 f.data.length ++ toLe 8 f.gtag.toNat ++
    toLe 8 f.offset ++ List.replicate 8 0

/-- The GCM nonce of a frame: the direction bit, then the 95-bit count of frames (R366). -/
def linkNonce (port : Nat) (half : Bool) (count : Nat) : List Byte :=
  toBe 12 (b2n (Config.directionBit port half) * 2 ^ 95 + count % 2 ^ 95)

/-- That of a frame of the far end, whose direction bit is the other. -/
def farNonce (port : Nat) (half : Bool) (count : Nat) : List Byte :=
  toBe 12 (b2n (!Config.directionBit port half) * 2 ^ 95 + count % 2 ^ 95)

/-- A frame's bytes on a link: header, data, tag. Collective and bulk frames are encrypted and authenticated with
AES-256-GCM under the link's key, the header as additional data (R276); a link control frame's tag is open. -/
def Link.wire (l : Link) (port : Nat) (half : Bool) (f : NFrame) : List Byte :=
  let h := frameHeader f
  if f.cls = 0 then h ++ f.data ++ Config.cryptoBytes [35, leNat (h ++ f.data)] 16
  else
    let nonce := linkNonce port half l.sent
    let ct := gcmCrypt l.key nonce f.data
    h ++ ct ++ gcmTag l.key nonce h ct

/-- How many frames of the far end lie before one with sequence number `seq` under the present key, from those accepted since it was
set. -/
def Link.countOf (l : Link) (seq : Nat) : Nat :=
  let d := (seq + 65536 - l.rxseq) % 65536
  if d < 32768 then l.taken + d - 1 else l.taken + d - 65537

/-- A frame that came over a link as it was sent: a collective or bulk frame is decrypted under the receiving key, if its tag
verifies (R276, R366). -/
def Link.opens (l : Link) (port : Nat) (half : Bool) (f : NFrame) (tag : List Byte) : Option NFrame :=
  if f.cls = 0 then some f
  else
    let nonce := farNonce port half (l.countOf f.seq.toNat)
    if l.keys && tag == gcmTag l.rkey nonce (frameHeader f) f.data then some { f with data := gcmCrypt l.rkey nonce f.data } else none

/-- A frame goes out: it takes the direction's next sequence number and enters the replay buffer. -/
def State.sendNow (s : State) (port : Nat) (half : Bool) (f : NFrame) (out : List (Flow × NFrame)) : State :=
  let p := s.port port
  let l := p.half half
  let f : NFrame := { f with seq := BitVec.ofNat 16 l.seq, ack := BitVec.ofNat 16 l.rxseq }
  let w := l.wire port half f
  let l : Link := { l with
    out := out, seq := (l.seq + 1) % 65536, buf := l.buf ++ [⟨f, w, 0⟩], sent := l.sent + 1
    spent := Tab.set 0 l.spent f.cls.toNat (Tab.get 0 l.spent f.cls.toNat + 1) }
  ((s.setPort port { p.setHalf half l with pbytes := (p.pbytes + f.data.length) % 2 ^ 64 })).emit (.narid port half w)

/-- Whether a class has a credit left (R277). -/
def Link.hasCredit (l : Link) (cls : Nat) : Bool :=
  let u := Tab.get 0 l.spent cls
  u == 0 || decide (u < Config.linkCredits cls)

/-- Whether a link carries a frame of a class now: ACTIVE, with keys but for link control, with room to replay it and a credit,
and fewer than 2³² frames sent under its key (R366). -/
def Link.carries (l : Link) (cls : Nat) : Bool :=
  (l.st == .active) && (l.keys || cls == 0) && decide (l.buf.length < 256) &&
    (cls == 0 || (l.hasCredit cls && decide (l.sent < 2 ^ 32)))

/-- Credits that a link control frame returns. -/
def Link.credited (l : Link) (data : List Byte) : Link :=
  let back (cls : Nat) (m : Tab Nat) : Tab Nat := Tab.set 0 m cls (Tab.get 0 m cls - Config.creditsIn cls data)
  { l with spent := back 2 (back 1 l.spent) }

/-- The class of the frame that a flow's turn would send. -/
def Flow.cls : Flow → Nat
  | .control => 0
  | .bulk => 2
  | _ => 1

/-- One move of the round robin. `deficit` holds the flow being served under 17 and, under 18, whether its weight has been
added in this round. -/
def State.roundStep (s : State) (port : Nat) (half : Bool) : State :=
  let l := s.link port half
  let k := Tab.get 0 l.deficit 17
  let on (d : Tab Nat) : Tab Nat := Tab.set 0 (Tab.set 0 d 17 ((k + 1) % 17)) 18 0
  match takeFlow (fun x => (x.round == some k) && l.carries x.cls) l.out with
  | none =>
    let idle := !l.out.any (fun x => x.1.round == some k)
    s.setLink port half { l with deficit := on (if idle then Tab.set 0 l.deficit k 0 else l.deficit) }
  | some (f, out) =>
    let d := if Tab.get 0 l.deficit 18 = 1 then l.deficit
      else Tab.set 0 (Tab.set 0 l.deficit k (Tab.get 0 l.deficit k + s.weight k * 1024)) 18 1
    let have_ := Tab.get 0 d k
    if f.data.length ≤ have_ then
      (s.setLink port half { l with deficit := Tab.set 0 d k (have_ - f.data.length) }).sendNow port half f out
    else s.setLink port half { l with deficit := on d }

def State.serveAux (port : Nat) (half : Bool) : Nat → State → State
  | 0, s => s
  | n + 1, s =>
    let l := s.link port half
    let can (k : Flow) : Bool := l.carries k.cls
    match takeFlow (fun k => (k == .control) && can k) l.out with
    | some (f, out) => State.serveAux port half n (s.sendNow port half f out)
    | none => match takeFlow (fun k => (k == .verdict) && can k) l.out with
      | some (f, out) => State.serveAux port half n (s.sendNow port half f out)
      | none => if l.out.any (fun x => can x.1) then State.serveAux port half n (s.roundStep port half) else s

/-- A flow with nothing waiting has its deficit set to zero, and its turn in the round is over (R302). -/
def Link.tidy (l : Link) : Link :=
  let idle (k : Nat) : Bool := !l.out.any (fun x => x.1.round == some k)
  let d := (List.range 17).foldl (fun d k => if idle k then Tab.set 0 d k 0 else d) l.deficit
  let k := Tab.get 0 d 17
  { l with deficit := if idle k then Tab.set 0 (Tab.set 0 d 17 ((k + 1) % 17)) 18 0 else d }

/-- Send what waits on a link, in the order of R302. -/
def State.serve (s : State) (port : Nat) (half : Bool) : State :=
  let s := State.serveAux port half (40 * ((s.link port half).out.length + 1)) s
  s.setLink port half (s.link port half).tidy

/-- A frame joins the frames waiting on a link. -/
def State.queueFrame (s : State) (port : Nat) (half : Bool) (k : Flow) (f : NFrame) : State :=
  let l := (s.link port half).tidy
  (s.setLink port half { l with out := l.out ++ [(k, f)] }).serve port half

/-! ## Acknowledgement and replay (R277) -/

/-- Frames up to an acknowledged one leave the replay buffer. -/
def Link.acked (l : Link) (ack : Nat) : Link :=
  if l.buf.any (fun x => x.f.seq.toNat == ack) then
    { l with buf := (l.buf.dropWhile (fun x => x.f.seq.toNat != ack)).drop 1 }
  else l

/-- The frames from the one named on are replayed once more. -/
def Link.replayed (l : Link) (seq : Nat) : Link :=
  { l with buf := l.buf.takeWhile (fun x => x.f.seq.toNat != seq) ++
      (l.buf.dropWhile (fun x => x.f.seq.toNat != seq)).map (fun x => { x with times := x.times + 1 }) }

/-- How a received sequence number stands to the last one accepted. -/
inductive SeqPlace where
  | next | old | ahead
  deriving DecidableEq, Repr

def Link.place (l : Link) (seq : Nat) : SeqPlace :=
  let d := (seq + 65536 - l.rxseq) % 65536
  if d = 1 then .next else if d = 0 ∨ 32768 ≤ d then .old else .ahead

/-- The link leaves ACTIVE for RETRAIN. -/
def Port.toRetrain (p : Port) (half : Bool) : Port :=
  let l := p.half half
  { p.setHalf half { l with st := .retrain, buf := l.buf.map (fun x => { x with times := 0 }) } with retrains := min 15 (p.retrains + 1) }

/-- Send frames of the replay buffer again, from the one named. -/
def State.replayFrom (s : State) (port : Nat) (half : Bool) (seq : Nat) : State :=
  s.emits (((s.link port half).buf.dropWhile (fun x => x.f.seq.toNat != seq)).map (fun x => .narid port half x.wire))

/-- The link has no keys any more and returns to DOWN. -/
def State.linkDown (s : State) (port : Nat) (half : Bool) : State :=
  let l := s.link port half
  s.setLink port half { l with st := .down, fresh := false, keys := false, key := [], rkey := [], own := [], sent := 0, taken := 0, badRetrains := 0 }

/-- The pre-FEC symbol error rate lies above the threshold: 10 to the −BERTHR or, at 0, 2.4 × 10⁻⁴ (R278, R280). -/
def Port.overBer (p : Port) (errors symbols : Nat) : Bool :=
  if p.berthr = 0 then decide (24 * symbols < 100000 * errors) else decide (symbols < 10 ^ p.berthr * errors)

/-! ## Configuration (R274, R278, R279) -/

/-- States in which a port's configuration is changed. -/
def LinkSt.settled : LinkSt → Bool
  | .disabled => true | .down => true | .failed => true
  | _ => false

/-- A link after configuration. -/
def Link.configured (l : Link) (on : Bool) : Link :=
  if on then { Link.reset with st := .down, out := l.out } else { Link.reset with out := l.out }

/-- A write of `JN_PCFG`: none where the port's state forbids it. -/
def Port.configure (p : Port) (v : Nat) : Option Port :=
  if !p.h0.st.settled || !p.h1.st.settled then none
  else
    let mode := if bits v 0 2 = 3 then p.mode else bits v 0 2
    let base := if p.mode = 0 ∨ mode = 0 then Port.reset else p
    some { base with
      berthr := bits v 24 8, idle := bits v 8 16, mode := mode
      h0 := p.h0.configured (decide (mode ≠ 0)), h1 := p.h1.configured (decide (mode = 2)) }

end Sys2Proof.Machine
end

