-- ==== Sys2Proof/Machine/CollectiveOps.lean ====
section
/-! DEFINITION. Collective groups: places of chunks, frames, the joins of a device and of a root, verdicts
(R282 to R301, R303). -/

namespace Sys2Proof.Machine

/-! ## Places (R286 to R288, R300) -/

def GroupRec.chunk (r : GroupRec) : Nat := 2 ^ r.chunklog
def GroupRec.bucket (r : GroupRec) (b : Nat) : Bucket := r.buckets.getD b ⟨0, 0, 0, 0, 0⟩
def GroupRec.chunks (r : GroupRec) (b : Nat) : Nat := ceilDiv (r.bucket b).len r.chunk
def GroupRec.chunkLen (r : GroupRec) (b c : Nat) : Nat := min r.chunk ((r.bucket b).len - c * r.chunk)
def GroupRec.root (r : GroupRec) (b c : Nat) : Nat := (b + c) % r.gsize

/-- The junction die that does the device's work on a chunk, as its DST code. -/
def homeDie (b c : Nat) : Nat := 16 + (b + c) % 4

/-- Positions this device acts for, with the offset added to their addresses. -/
def GroupRec.held (r : GroupRec) : List (Nat × Nat) := (r.mypos, 0) :: r.hosts
def GroupRec.offOf (r : GroupRec) (pos : Nat) : Option Nat := (r.held.find? (fun p => p.1 == pos)).map (·.2)

/-- Bytes of a wire element (DCLASS). -/
def GroupRec.elt (r : GroupRec) : Nat := match r.dclass with | 0 => 4 | 1 => 8 | _ => 1

/-- Start of a bucket's staging area (R288). -/
def GroupRec.stageOf (r : GroupRec) (b : Nat) : Nat :=
  (List.range b).foldl (fun a k => a + r.gsize * ceilDiv (r.chunks k) r.gsize * r.chunk) r.stage

/-- Where the contribution of a position to a chunk lands. -/
def GroupRec.stageAt (r : GroupRec) (b c pos : Nat) : Nat :=
  r.stageOf b + (c / r.gsize * r.gsize + pos) * r.chunk + (r.offOf (r.root b c)).getD 0

/-- Where a result chunk of a position lies. -/
def GroupRec.dstAt (r : GroupRec) (b c pos : Nat) : Nat :=
  (r.bucket b).dst + c * r.chunk + (r.offOf pos).getD 0

/-- Chunks a position receives (R292). -/
def GroupRec.receives (r : GroupRec) (b pos : Nat) : List Nat :=
  (List.range (r.chunks b)).filter (fun c => (r.op != 1) || (r.root b c == pos))

/-- Key of a chunk and a position. -/
def chunkKey (c pos : Nat) : Nat := c * 4096 + pos

/-! ## Frames (Tables 12.3, 12.4) -/

structure Gtag where
  base : Nat
  kind : Nat
  pos : Nat
  bucket : Nat
  chunk : Nat
  epoch : Nat
  deriving DecidableEq, Repr

def Gtag.code (g : Gtag) : BitVec 64 :=
  BitVec.ofNat 64 (g.base * 2 ^ 40 + g.kind * 2 ^ 38 + g.pos * 2 ^ 26 + g.bucket * 2 ^ 20 + g.chunk * 2 ^ 10 + g.epoch)

def Gtag.ofCode (x : BitVec 64) : Gtag :=
  let n := x.toNat
  ⟨bits n 40 24, bits n 38 2, bits n 26 12, bits n 20 6, bits n 10 10, bits n 0 10⟩

/-- The data of a verdict frame. -/
def verdictBytes (v : Verdict) : List Byte :=
  [BitVec.ofNat 8 (b2n v.pass), v.cause.setWidth 8, v.flags.setWidth 8, 0] ++ toLe 2 v.slowPos.toNat ++ [0, 0] ++
    toLe 8 v.lag.toNat ++ List.replicate 48 0

def verdictOf (bs : List Byte) : Verdict :=
  { pass := leAt bs 0 1 == 1, cause := BitVec.ofNat 3 (leAt bs 1 1), flags := BitVec.ofNat 7 (leAt bs 2 1),
    slowPos := BitVec.ofNat 16 (leAt bs 4 2), lag := BitVec.ofNat 64 (leAt bs 8 8) }

/-- Cut bytes into frame data of at most 1,024 bytes, each a multiple of 64, with their offsets. -/
def frameData : Nat → Nat → List Byte → List (Nat × List Byte)
  | 0, _, _ => []
  | n + 1, o, bs =>
    if bs.isEmpty then []
    else
      let d := bs.take 1024
      (o, d ++ List.replicate ((64 - d.length % 64) % 64) 0) :: frameData n (o + 1024) (bs.drop 1024)

def framesOf (bs : List Byte) : List (Nat × List Byte) := frameData (bs.length / 1024 + 1) 0 bs

/-- The edges between a port's junction die and a frame's home: as it arrives, and as it leaves (R287). -/
def pathIn (port : Nat) (t : Gtag) : List (Nat × Nat) := pathOf (16 + port / 4) (homeDie t.bucket t.chunk)
def pathOut (port : Nat) (t : Gtag) : List (Nat × Nat) := pathOf (homeDie t.bucket t.chunk) (16 + port / 4)

/-- A frame of a partition's group that is ready to leave its home: it crosses the fabric and joins its flow. Where an edge of its
way has failed it is not carried, and the step is faulted; where one is retraining or out of credit, or an earlier frame of the group
waits, it waits (R266, R273). -/
def State.leaveHome (s : State) (part : Nat) (x : CollWait) : State :=
  let t := Gtag.ofCode x.frame.gtag
  let port := x.hop / 2 % 16
  if !s.edgesUp (pathOut port t) then s.faultStep part true
  else if !s.pathOpen (pathOut port t) || s.colls.any (fun y => y.slot == x.slot) then { s with colls := s.colls ++ [x] }
  else (s.crossFrame part (homeDie t.bucket t.chunk) (16 + port / 4) x.frame.data).queueFrame port (x.hop % 2 == 1) x.flow x.frame

/-- Send a frame of a group toward a position (R287). -/
def State.sendGroup (s : State) (slot : Nat) (g : Group) (dest : Nat) (t : Gtag) (offset : Nat) (d : List Byte) : State :=
  s.leaveHome g.part
    { slot := slot, hop := g.rcd.nexthop.getD dest 0xFF, flow := if 2 ≤ t.kind then .verdict else .group slot
      frame := { cls := 1, seq := 0, ack := 0, gtag := t.code, offset := offset, data := d } }

/-- The frames that waited for an edge go on, or wait on. -/
def State.freeColls (s : State) : State :=
  s.colls.foldl (fun s x => match Tab.find s.groups x.slot with
    | some g => s.leaveHome g.part x
    | none => s) { s with colls := [] }

def Group.tag (g : Group) (kind pos b c : Nat) : Gtag := ⟨g.rcd.tagbase, kind, pos, b, c, g.epoch⟩

/-! ## Groups and invocations -/

def State.group (s : State) (slot : Nat) : Option Group := Tab.find s.groups slot

def Group.invOf (g : Group) (b : Nat) : Invoc := (Tab.find g.inv b).getD Invoc.new
def Group.setInv (g : Group) (b : Nat) (x : Invoc) : Group := { g with inv := Tab.ins b x g.inv }
def Group.dropInv (g : Group) (b : Nat) : Group := { g with inv := Tab.del b g.inv }
def Group.liveIn (g : Group) : Tab Invoc := g.inv.filter (fun p => p.2.live)

/-- Change an invocation of a group. -/
def State.onInv (s : State) (slot b : Nat) (f : Invoc → Invoc) : State :=
  match s.group slot with
  | some g => s.setGroup slot (g.setInv b (f (g.invOf b)))
  | none => s

/-- The group that a tag base and an epoch name (R276, R286). -/
def State.groupOf (s : State) (t : Gtag) : Option (Nat × Group) :=
  s.groups.find? (fun p => p.2.rcd.tagbase == t.base && p.2.epoch == t.epoch)

/-! ## Arithmetic (R289, R290, R301) -/

/-- Width of the entries of a class. -/
def GroupRec.width (r : GroupRec) : Nat := if r.dclass = 0 then 96 else 160

/-- Join one-term operands in order into an entry that starts at zero. -/
def joinTerms (W : Nat) (F : FFmt) (codes : List Nat) : Sum × Fl :=
  codes.foldl (fun a c =>
    let t := termOf F c
    let j := joinAcc W a.1 t.1
    (j.1, a.2 ||| t.2 ||| j.2)) (Sum.zero, 0)

/-- Read an entry out to the wire format. -/
def GroupRec.readOut (r : GroupRec) (a : Sum × Fl) : Nat × Fl :=
  let x := readSingle (.flt (if r.dclass = 0 then fp32 else fp64)) .rne false 0 0x7F a.1
  (x.1, a.2 ||| x.2)

/-- FP64 codes that one contributor's area gives for element `i`. -/
def GroupRec.partial_ (r : GroupRec) (area : List Byte) (i : Nat) : List Nat :=
  if r.dclass = 0 then [leAt area (8 * i) 8] else [leAt area (16 * i) 8, leAt area (16 * i + 8) 8]

/-- A device's contribution, of elements whose partials the areas hold, in contributor order. -/
def GroupRec.contribution (r : GroupRec) (areas : List (List Byte)) (n : Nat) : List Byte × Fl :=
  (List.range n).foldl (fun acc i =>
    let x := r.readOut (joinTerms r.width fp64 (areas.flatMap (fun a => r.partial_ a i)))
    (acc.1 ++ toLe r.elt x.1, acc.2 ||| x.2)) ([], 0)

/-- The root's result, of wire values in position order. -/
def GroupRec.result (r : GroupRec) (parts : List (List Byte)) (n : Nat) : List Byte × Fl :=
  let F := if r.dclass = 0 then fp32 else fp64
  (List.range n).foldl (fun acc i =>
    let x := r.readOut (joinTerms r.width F (parts.map (fun a => leAt a (r.elt * i) r.elt)))
    (acc.1 ++ toLe r.elt x.1, acc.2 ||| x.2)) ([], 0)

/-- Read areas, each of `n` bytes, from a chunk's home die, or what stops the first that cannot be read. -/
def State.readAreas (s : State) (home : Option Nat) (part n : Nat) : List Nat → Except EngBad (List (List Byte))
  | [] => .ok []
  | a :: as => match s.engineRead home part a n with
    | .error e => .error e
    | .ok x => match State.readAreas s home part n as with
      | .error e => .error e
      | .ok xs => .ok (x :: xs)

/-- Flags of a join on this device (R289). -/
def State.groupFlags (s : State) (slot : Nat) (fl : Fl) : State :=
  match s.group slot with
  | some g => s.setGroup slot { g with flags := g.flags ||| fl }
  | none => s

/-! ## Abandonment (R298) -/

/-- A position's verdict among those collected: a FAIL of an invocation abandoned before is not taken back (R298). -/
def Invoc.collect (x : Invoc) (pos : Nat) (v : Verdict) : Invoc :=
  if x.verdicts.any (fun p => p.1 == pos && !p.2.pass) then x
  else { x with verdicts := x.verdicts.filter (fun p => p.1 != pos) ++ [(pos, v)] }

/-- Send a verdict of a position to position 0. -/
def State.sendVerdict (s : State) (slot b pos : Nat) (v : Verdict) : State :=
  match s.group slot with
  | none => s
  | some g =>
    if (g.rcd.offOf 0).isSome then
      s.onInv slot b (fun x => x.collect pos v)
    else s.sendGroup slot g 0 (g.tag 2 pos b 0) 0 (verdictBytes v)

/-- The largest lag, on a tie of the lowest position. -/
def slowestOf (lag : Tab Nat) : Nat × Nat :=
  lag.foldl (fun m p => if m.2 < p.2 then p else m) (lag.headD (0, 0))

def Invoc.causes (x : Invoc) : BitVec 3 := BitVec.ofNat 3 (b2n x.digest + 2 * b2n x.abandon + 4 * b2n x.dup)

def Invoc.verdict (x : Invoc) : Verdict :=
  let m := slowestOf x.lag
  { pass := x.causes == 0, cause := x.causes, flags := x.flags
    slowPos := BitVec.ofNat 16 m.1, lag := BitVec.ofNat 64 m.2 }

/-- One verdict for every position the device holds. -/
def State.sendVerdicts (s : State) (slot b : Nat) : State :=
  match s.group slot with
  | none => s
  | some g =>
    let v := (g.invOf b).verdict
    let s := s.onInv slot b (fun x => { x with verdictSent := true })
    g.rcd.held.foldl (fun s p => s.sendVerdict slot b p.1 v) s

/-- Whether a frame is one that this device made: a contribution of a position it holds, or a result of a root it holds. -/
def GroupRec.made (r : GroupRec) (t : Gtag) : Bool :=
  match t.kind with
  | 0 => (r.offOf t.pos).isSome
  | 1 => (r.offOf (r.root t.bucket t.chunk)).isSome
  | _ => false

/-- The device's own frames of a bucket that wait on links or for an edge are discarded; those it relays are not. -/
def State.dropFrames (s : State) (slot b : Nat) (r : GroupRec) : State :=
  let keep (x : Flow × NFrame) : Bool := match x.1 with
    | .group k => !(k == slot && (Gtag.ofCode x.2.gtag).bucket == b && r.made (Gtag.ofCode x.2.gtag))
    | _ => true
  { s with
    colls := s.colls.filter (fun x => keep (x.flow, x.frame))
    ports := s.ports.map (fun p => (p.1, { p.2 with
      h0 := { p.2.h0 with out := p.2.h0.out.filter keep }
      h1 := { p.2.h1 with out := p.2.h1.out.filter keep } })) }

/-- An invocation in flight is abandoned: its staging and frames are discarded, and FAIL verdicts with ABANDON go
out; the timetables wait for the group verdict. -/
def State.abandon (s : State) (slot b : Nat) : State :=
  match s.group slot with
  | none => s
  | some g =>
    let x := g.invOf b
    if !x.live || x.abandon then s
    else
      let s := (s.dropFrames slot b g.rcd).onInv slot b (fun x => { x with
        abandon := true, got := [], full := [], rgot := [], rfull := [], trailer := [] })
      s.sendVerdicts slot b

/-- The event log's node and register of a group slot: junction die 0, `JN_GFAULT` (R304, R341). -/
def State.noteGroup (s : State) (part slot cause : Nat) : State := s.note part (256 + 16) (0x2004 + 0x20 * slot) cause

/-- What stops a junction's access is a fault of the step that leads to the same abandonment: an uncorrectable granule, a
refused address, the journal's limit (R28, R298, R313). An access that waits for a block has not been made. -/
def State.junctionFault (s : State) (slot b : Nat) (e : EngBad) : State :=
  match s.group slot with
  | none => s
  | some g =>
    match e with
    | .mem pa => (((s.hardFault g.part pa).meetsAt g.part pa).noteGroup g.part slot 257).abandon slot b
    | .xlate _ => ((s.faultStep g.part true).noteGroup g.part slot 190).abandon slot b
    | .limit => s.abandon slot b
    | .wait => s

/-! ## Contributions (R288, R289, R295) -/

/-- Contribution bytes arrive at a root, in a fabric cycle. The bytes the chunk still lacks land; an excess, the padding of a
frame apart, is discarded and raises DUP. -/
def State.contribute (s : State) (slot b c pos offset fc : Nat) (d : List Byte) : State :=
  match s.group slot with
  | none => s
  | some g =>
    let key := chunkKey c pos
    let len := g.rcd.chunkLen b c
    let x := g.invOf b
    let real := d.take (len - offset)
    let lands := real.take (len - Tab.get 0 x.got key)
    if x.abandon then s
    else
      let excess := decide (roundUp len 64 < offset + d.length ∨ lands.length < real.length)
      let s := if excess then s.onInv slot b (fun x => { x with dup := true }) else s
      if lands.isEmpty then s
      else match s.engineWrite (some (homeDie b c)) g.part (g.rcd.stageAt b c pos + offset) false lands with
      | (some e, s) => s.junctionFault slot b e
      | (none, s) =>
        let n := Tab.get 0 x.got key + lands.length
        s.onInv slot b (fun x => { x with
          got := Tab.ins key n x.got, last := max x.last fc
          full := (if n = len then Tab.ins key (fc + 1) x.full else x.full) })

/-- Where the contributors' elements of a chunk start, for a position's offset. -/
def GroupRec.sources (r : GroupRec) (b c hoff : Nat) : List Nat :=
  r.contrib.map (fun a => a + (r.bucket b).srcoff + hoff + c * r.chunk / r.elt * (if r.dclass = 0 then 8 else 16))

/-- A held position's contribution to one chunk is formed and goes to the chunk's root. -/
def State.formContribution (s : State) (slot b fc c : Nat) (p : Nat × Nat) : State :=
  match s.group slot with
  | none => s
  | some g =>
    let r := g.rcd
    let n := r.chunkLen b c / r.elt
    let w := if r.dclass = 0 then 8 else 16
    if (g.invOf b).abandon then s
    else match s.readAreas (some (homeDie b c)) g.part (n * w) (r.sources b c p.2) with
    | .error e => s.junctionFault slot b e
    | .ok as =>
      let s := s.engineFetch g.part ((r.sources b c p.2).map (fun a => (a, n * w)))
      let x := r.contribution as n
      let s := (s.onInv slot b (fun y => { y with flags := y.flags ||| x.2 })).groupFlags slot x.2
      let root := r.root b c
      if (r.offOf root).isSome then s.contribute slot b c p.1 0 fc x.1
      else (framesOf x.1).foldl (fun s f => s.sendGroup slot g root (g.tag 0 p.1 b c) f.1 f.2) s

/-! ## Results (R290, R292, R293) -/

/-- Result bytes for a position arrive, or the trailer. -/
def State.takeResult (s : State) (slot b c pos offset fc : Nat) (d : List Byte) : State :=
  match s.group slot with
  | none => s
  | some g =>
    let key := chunkKey c pos
    let len := g.rcd.chunkLen b c
    if (g.invOf b).abandon then s
    else if roundUp len 64 ≤ offset then
      s.onInv slot b (fun x => { x with trailer := Tab.ins key (leAt d 0 8 + 1) x.trailer })
    else
      let d := d.take (len - offset)
      match s.engineWrite (some (homeDie b c)) g.part (g.rcd.dstAt b c pos + offset) false d with
      | (some e, s) => s.junctionFault slot b e
      | (none, s) => s.onInv slot b (fun x =>
          let n := Tab.get 0 x.rgot key + d.length
          { x with normv := (if pos = g.rcd.mypos then some (leNat (d.take 8)) else x.normv), rgot := Tab.ins key n x.rgot, last := max x.last fc
                   rfull := (if len ≤ n then Tab.ins key (fc + 1) x.rfull else x.rfull) })

/-- A root's result goes to the positions that receive it, with its digest, until an access that fails abandons the
invocation (R298). -/
def State.spread (s : State) (slot b c : Nat) (bs : List Byte) : State :=
  match s.group slot with
  | none => s
  | some g =>
    let r := g.rcd
    let root := r.root b c
    let fc := (g.invOf b).last
    let digest := toLe 8 (crc64 bs) ++ List.replicate 56 0
    let endOff := roundUp bs.length 64
    (List.range r.gsize).foldl (fun s pos =>
      if (r.op = 1 ∧ pos ≠ root) ∨ ((s.group slot).any (fun g => (g.invOf b).abandon)) = true then s
      else if (r.offOf pos).isSome then (s.takeResult slot b c pos 0 fc bs).takeResult slot b c pos endOff fc digest
      else
        let s := (framesOf bs).foldl (fun s f => s.sendGroup slot g pos (g.tag 1 pos b c) f.1 f.2) s
        s.sendGroup slot g pos (g.tag 1 pos b c) endOff digest) s

/-- Lags of the positions at a root, once a chunk's contributions are complete (R303). -/
def Invoc.noteLags (x : Invoc) (r : GroupRec) (c : Nat) : Invoc :=
  let at_ (pos : Nat) : Nat := Tab.get 0 x.full (chunkKey c pos)
  let first := (List.range r.gsize).foldl (fun m pos => min m (at_ pos)) (at_ 0)
  (List.range r.gsize).foldl (fun x pos =>
    let lag := at_ pos - first
    { x with lag := Tab.ins pos (max (Tab.get 0 x.lag pos) lag) x.lag
             lagsum := Tab.ins pos (Tab.get 0 x.lagsum pos + lag) x.lagsum }) x

/-! ## Posts -/

/-- Add POSTN to a device-scope counter of the group's partition (R196). -/
def State.groupPost (s : State) (g : Group) (name : Nat) : State :=
  let ring := (s.part g.part).rings.headD 0
  s.postShared g.part (ring / 16) .device name g.rcd.postn 5 (ring * 16)

/-- Chunks a position has complete from the first it has not posted, posted in ascending order (R292). -/
def State.postChunks (slot b pos : Nat) : List Nat → State → State
  | [], s => s
  | c :: cs, s =>
    match s.group slot with
    | none => s
    | some g =>
      if Tab.get 0 (g.invOf b).rgot (chunkKey c pos) < g.rcd.chunkLen b c then s
      else
        let s := s.onInv slot b (fun x => { x with posted := Tab.ins pos (Tab.get 0 x.posted pos + 1) x.posted })
        State.postChunks slot b pos cs (s.groupPost g (g.rcd.bucket b).rtok)

/-! ## Verdicts (R295, R296, R303) -/

/-- The group verdict of the verdicts collected. -/
def groupVerdictOf (vs : List (Nat × Verdict)) : Verdict :=
  let worst := vs.foldl (fun (m : Nat × Nat) p =>
    if m.2 < p.2.lag.toNat ∨ (m.2 = p.2.lag.toNat ∧ p.2.slowPos.toNat < m.1) then (p.2.slowPos.toNat, p.2.lag.toNat)
    else m) (match vs with
      | [] => (0, 0)
      | p :: _ => (p.2.slowPos.toNat, p.2.lag.toNat))
  { pass := vs.all (fun p => p.2.pass)
    cause := vs.foldl (fun a p => a ||| p.2.cause) 0
    flags := vs.foldl (fun a p => a ||| p.2.flags) 0
    slowPos := BitVec.ofNat 16 worst.1, lag := BitVec.ofNat 64 worst.2 }

def gfPoisoned : BitVec 4 := 1
def gfAbandon : BitVec 4 := 2
def gfLost : BitVec 4 := 4
def gfDup : BitVec 4 := 8

/-- Record a group fault and, for the first, the position concerned. -/
def Group.record (g : Group) (b : BitVec 4) (pos : Nat) : Group :=
  { g with fault := g.fault ||| b, fpos := if g.fault = 0 then pos else g.fpos }

/-- The lag table after a PASS. -/
def State.lagTable (s : State) (g : Group) (x : Invoc) (b slow : Nat) : State :=
  (List.range g.rcd.gsize).foldl (fun s pos =>
    let a := g.rcd.lagaddr + 16 * pos
    match s.readPart g.part a 16 with
    | none => s
    | some old =>
      let sum := min (leAt old 0 8 + Tab.get 0 x.lagsum pos) (2 ^ 64 - 1)
      let n := (leAt old 8 4 + b2n (decide (pos = slow))) % 2 ^ 32
      (s.engineWrite (some (homeDie b 0)) g.part a false (toLe 8 sum ++ toLe 4 n ++ [0, 0, 0, 0])).2) s

/-- PASS: the invocation completes. -/
def State.passVerdict (s : State) (slot b : Nat) (v : Verdict) : State :=
  match s.group slot with
  | none => s
  | some g =>
    let x := g.invOf b
    let s := s.lagTable g x b v.slowPos.toNat
    let norm := if g.rcd.op = 3 then x.normv.getD g.norm else g.norm
    let s := s.setGroup slot { g.dropInv b with
      flags := g.flags ||| v.flags, slowest := v.slowPos.toNat, slowLag := min v.lag.toNat (2 ^ 40 - 1)
      done := (g.done + 1) % 2 ^ 64, norm := norm }
    s.groupPost g g.rcd.tdone

/-- DIGEST of a group's attempt: of the one in progress or, where `late`, of the one repeated already. Where that one was the
second in a row to end so, the step is not repeated, and it completes with POISONED (R296). -/
def State.digestFail (s : State) (part slot : Nat) (late : Bool) : State :=
  match (s.part part).stepJob with
  | none => s
  | some j =>
    if !late then s.onStep part (fun j => { j with digests := setIns slot j.digests })
    else
      let s := s.onStep part (fun j => { j with lastDigests := setIns slot j.lastDigests })
      if j.oldDigests.contains slot && s.stepOpen part then
        (s.faultStep part true).onStep part (fun j => { j with endCode := some stPoisoned })
      else s

/-- Whether a partition's step is one that has been repeated since its last fault. -/
def State.repeated (s : State) (part : Nat) : Bool :=
  match (s.part part).stepJob with
  | some j => !j.faulted
  | none => false

/-- FAIL: the epoch advances, what came under the old one for invocations not yet started is discarded, and the step is
faulted; that of an abandoned invocation is faulted already (R298). The failing position is known where the verdicts were
collected; elsewhere the manual does not say which position the register names. -/
def State.failVerdict (s : State) (slot b : Nat) (v : Verdict) : State :=
  match s.group slot with
  | none => s
  | some g =>
    let x := g.invOf b
    let q := s.draw
    let pos := match x.verdicts.find? (fun p => !p.2.pass) with
      | some p => p.1
      | none => Config.choice 8 q.1 g.rcd.gsize
    let bit_ : BitVec 4 := if v.cause.toNat.testBit 0 then gfPoisoned
      else (if v.cause.toNat.testBit 1 then gfAbandon else 0) ||| (if v.cause.toNat.testBit 2 then gfDup else 0)
    let g' := (g.dropInv b).record bit_ pos
    let s := (q.2.setGroup slot { g' with epoch := (g.epoch + 1) % 1024, inv := g'.liveIn }).noteGroup g.part slot bit_.toNat
    let s := if v.cause.toNat.testBit 0 then s.digestFail g.part slot (x.abandon && s.repeated g.part) else s
    if x.abandon then s else s.faultStep g.part false

/-- A group verdict acts on this device. A FAIL acts also where the invocation is gone; a PASS then completes nothing. -/
def State.verdictArrives (s : State) (slot b : Nat) (v : Verdict) : State :=
  match s.group slot with
  | none => s
  | some g =>
    if !v.pass then s.failVerdict slot b v
    else if (Tab.find g.inv b).isNone then s else s.passVerdict slot b v

/-! ## Awaited positions (R299) -/

/-- Positions whose frames an invocation awaits: what the device's own positions send it travels in no frame. -/
def Invoc.awaits (x : Invoc) (r : GroupRec) (b : Nat) : List Nat :=
  let far (p : Nat) : Bool := (r.offOf p).isNone
  let cs := List.range (r.chunks b)
  let contribs := if r.op = 2 ∨ x.abandon then [] else
    cs.flatMap (fun c => if !far (r.root b c) && !x.joined.contains c then
      (List.range r.gsize).filter (fun p => far p && Tab.get 0 x.full (chunkKey c p) == 0) else [])
  let results := if x.abandon then [] else r.held.flatMap (fun p => (r.receives b p.1).filterMap (fun c =>
    if far (r.root b c) ∧ (Tab.get 0 x.rgot (chunkKey c p.1) < r.chunkLen b c ∨ Tab.get 0 x.trailer (chunkKey c p.1) = 0) then
      some (r.root b c) else none))
  let verdicts := if far 0 then [0]
    else (List.range r.gsize).filter (fun p => far p && !x.verdicts.any (fun q => q.1 == p))
  contribs ++ results ++ verdicts

/-- Whether a copy is the one of a sender and a serial number. -/
def Copy.is (c : Copy) (base pos ser : Nat) : Bool := (c.base == base) && (c.pos == pos) && (c.ser == ser)

/-- The siding die that keeps copies of a sender. -/
def copyDie (pos : Nat) : Nat := pos % 2

/-! ## Frames that arrive (R286, R287) -/

/-- The position a collective frame is addressed to. -/
def Gtag.dest (t : Gtag) (r : GroupRec) : Nat :=
  match t.kind with
  | 0 => r.root t.bucket t.chunk
  | 2 => 0
  | _ => t.pos

/-- The range that an arriving frame writes on this device (R288, R292, R303). -/
def Gtag.writes (t : Gtag) (r : GroupRec) (offset n : Nat) : List (Nat × Nat) :=
  if (r.offOf (t.dest r)).isNone then []
  else match t.kind with
  | 0 => [(r.stageAt t.bucket t.chunk t.pos + offset, n)]
  | 1 => if offset < r.chunkLen t.bucket t.chunk then [(r.dstAt t.bucket t.chunk t.pos + offset, n)] else []
  | 3 => [(r.lagaddr, 16 * r.gsize)]
  | _ => []

/-- A collective frame of an active group that arrived on a port, in a fabric cycle: delivered, or relayed unchanged. Where the
fabric between the port and its home has failed it is not carried, and the step is faulted (R273). A device that holds several
positions acts once on a group verdict, on the one for its own. -/
def State.groupFrame (s : State) (port slot : Nat) (g : Group) (t : Gtag) (f : NFrame) (fc : Nat) : State :=
  let dest := t.dest g.rcd
  let home := homeDie t.bucket t.chunk
  if !s.edgesUp (pathIn port t) then s.faultStep g.part true
  else
  let s := s.crossFrame g.part (16 + port / 4) home f.data
  if (g.rcd.offOf dest).isNone then s.sendGroup slot g dest t f.offset f.data
  else match t.kind with
  | 0 => s.contribute slot t.bucket t.chunk t.pos f.offset fc f.data
  | 1 => s.takeResult slot t.bucket t.chunk t.pos f.offset fc f.data
  | 2 => s.sendVerdict slot t.bucket t.pos (verdictOf f.data)
  | _ => if t.pos = g.rcd.mypos then s.verdictArrives slot t.bucket (verdictOf f.data) else s

end Sys2Proof.Machine
end

