-- ==== Sys2Proof/Machine/Operands.lean ====
section
/-! DEFINITION. Operands of the vector slots: governing width, pairs and single registers, broadcasts, vector
length and masks, rounding and SR draws, pipes (R101 to R113, R48). -/

namespace Sys2Proof

/-- Source and destination format of a vector slot (Table 5.4). -/
def VSlot.sf (f : VSlot) : Machine.Fmt := Machine.Fmt.ofCode f.sfmt.toNat
def VSlot.df (f : VSlot) : Machine.Fmt := Machine.Fmt.ofCode f.dfmt.toNat

/-- The pipes by slot number: VA 2, VB 3, VC 4, LS 5. -/
def FmaPipe.slot : FmaPipe → Nat
  | .va => 2
  | .vb => 3

/-- Element width in bits (R108). -/
def VWidth.bits : VWidth → Nat
  | .w16 => 16
  | .w32 => 32
  | .w64 => 64

end Sys2Proof

namespace Sys2Proof.Machine

/-- R104: the widest element width, at least 16. -/
def govern (ws : List Nat) : Nat := ws.foldl max 16

/-- R107: element count for a governing width. -/
def Cluster.count (c : Cluster) (g : Nat) : Nat := min c.r.vl (256 / g)

/-- The 256 bits of a pair named by its first register. -/
def Regs.pair (r : Regs) (n : Nat) : Nat := (r.getV n).toNat + 2 ^ 128 * (r.getV (n + 1)).toNat

/-- Element `i` of width `w` of a source operand under governing width `g` (R104, R105). -/
def Regs.src (r : Regs) (op : BitVec 6) (w g i : Nat) : Nat :=
  let n := op.toNat % 32
  if 32 ≤ op.toNat then bits (r.getS n).toNat 0 w
  else if w = g then bits (r.pair n) (i * w) w
  else bits (r.getV n).toNat (i * w) w

/-- R109: whether element `i` is active. -/
def Cluster.active (c : Cluster) (f : VSlot) (i : Nat) : Bool :=
  !f.men || (c.r.getM f.msk.toNat).getLsbD i

def Cluster.dynRm (c : Cluster) : Nat := c.fpctrl % 8
def Cluster.satm (c : Cluster) : Bool := bit c.fpctrl 3
def Cluster.srs (c : Cluster) : Nat := bits c.fpctrl 4 3

/-- SAT mode of an instruction (R46). -/
def Cluster.sat (c : Cluster) (f : VSlot) : Bool := f.satb || c.satm

/-- The rounding mode for a destination width (R44, R45). -/
def Cluster.rm (c : Cluster) (field : BitVec 3) (w : Nat) : Rm :=
  (rmOf field.toNat c.dynRm).forWidth w

/-- The mode of an instruction of Tables 5.6's IEEE operations, which round on floating formats alone (R115); work on
integers rounds nothing and uses no draw (R48; log entry 77). -/
def Cluster.rmFor (c : Cluster) (f : VSlot) : Rm :=
  match f.sf with
  | .flt _ => c.rm f.rm f.df.width
  | .int _ _ => .rne

/-- R48: the draws of `n` element positions of an instruction that rounds by SR, with the stream's index
advanced past them; none otherwise. -/
def Cluster.draws (c : Cluster) (rm : Rm) (n : Nat) : List Nat × Cluster :=
  if rm = .sr then
    let k := c.srs
    let s := c.sr.getD k .reset
    ((List.range n).map (fun i => philoxDraw s.seed s.step s.id ((s.draw + i) % 2 ^ 64)),
     { c with sr := c.sr.set k { s with draw := (s.draw + n) % 2 ^ 64 } })
  else (List.replicate n 0, c)

/-- The ring cycle from which a pipe is free. -/
def VecSt.until_ (v : VecSt) (slot : Nat) : Nat :=
  match slot with
  | 2 => v.va
  | 3 => v.vb
  | 4 => v.vc
  | _ => v.ls

def VecSt.setUntil (v : VecSt) (slot u : Nat) : VecSt :=
  match slot with
  | 2 => { v with va := u }
  | 3 => { v with vb := u }
  | 4 => { v with vc := u }
  | _ => { v with ls := u }

/-- R113, R129: a pipe takes an instruction of interval `n`, and is busy when that is above 1; FMA pipes count into
`CL_VBUSY`. -/
def VecSt.occupy (v : VecSt) (slot t n : Nat) : VecSt :=
  let v := if 1 < n then v.setUntil slot (t + n) else v
  if slot = 2 ∨ slot = 3 then
    { v with busy := v.busy + (t + n - max t v.busyTo), busyTo := max v.busyTo (t + n) }
  else v

/-- Issue to a pipe in ring cycle `t`: a busy pipe faults with BUSY and does nothing (R113). -/
def Cluster.toPipe (c : Cluster) (slot t n : Nat) (f : Cluster → Cluster) : Cluster :=
  if t < c.vec.until_ slot then c.vfault vfBusy (slot - 2)
  else f { c with vec := c.vec.occupy slot t n }

/-- Results and flags of an element-wise instruction land in ring cycle `t + lat` (R111, R127). -/
def Cluster.deliver (c : Cluster) (t slot lat : Nat) (acts : List Act) (fl : Fl) : Cluster :=
  let c := c.dues (t + lat) t slot acts
  if fl = 0 then c else c.due (t + lat) t slot (.vfl fl)

/-- An element-wise instruction: `op` delivers the code and flags of active element `i` from its draw and
its sources; `act` says which elements are written. -/
def Cluster.elementwise (c : Cluster) (t slot lat : Nat) (f : VSlot) (dw n : Nat) (rm : Rm)
    (act : Nat → Bool) (op : Nat → Nat → Nat × Fl) : Cluster :=
  let d := c.draws rm n
  let res := ((List.range n).filter act).map (fun i => (i, op i (d.1.getD i 0)))
  d.2.deliver t slot lat (vput (f.dst.toNat % 32) (res.map (fun p => (p.1 * dw, dw, p.2.1))))
    (res.foldl (fun a p => a ||| p.2.2) 0)

end Sys2Proof.Machine
end

