-- ==== Sys2Proof/Machine/SeqOps.lean ====
section
/-! DEFINITION. The sequencer slot on a ring (R156 to R161, R92, R108, R166): each operation acts in every
active cluster in ring cycle `t`, reading registers as they stand at its start (R155). -/

namespace Sys2Proof.Machine

/-- A result of `v` in register `rd`, `lat` ring cycles after issue. -/
def Ring.seqResult (r : Ring) (t lat : Nat) (rd : Fin 32) (v : Regs → BitVec 64) : Ring :=
  r.each (fun _ c => c.due (t + lat) t 0 (.sreg rd.val (v c.r)))

/-- Two-source arithmetic of latency `lat`. -/
def Ring.seqAlu (r : Ring) (t lat : Nat) (rd ra rb : Fin 32)
    (op : BitVec 64 → BitVec 64 → BitVec 64) : Ring :=
  r.seqResult t lat rd (fun q => op (q.getS ra.val) (q.getS rb.val))

/-- IMM sign-extended to 64 bits. -/
def immS (imm : BitVec 32) : BitVec 64 := imm.signExtend 64

def smin (a b : BitVec 64) : BitVec 64 := if b.slt a then b else a
def smax (a b : BitVec 64) : BitVec 64 := if a.slt b then b else a
def sslt (a b : BitVec 64) : BitVec 64 := if a.slt b then 1 else 0
def shAmt (b : BitVec 64) : Nat := bits b.toNat 0 6

/-- The address of `SLD` and `SST`: bits [20:0] of ra + IMM (R158). -/
def seqAddr (q : Regs) (ra : Fin 32) (imm : BitVec 32) : Nat :=
  bits (q.getS ra.val + immS imm).toNat 0 21

/-- The lowest logical slot whose cluster meets a test. -/
def Ring.firstSlot (r : Ring) (p : Cluster → Bool) : Option Nat := r.cl.findIdx? p

/-- `SLD` (R158, R241). -/
def Ring.sld (r : Ring) (t : Nat) (rd ra : Fin 32) (imm : BitVec 32) : Ring :=
  let bad (c : Cluster) : Bool := seqAddr c.r ra imm % 8 != 0
  let r' := r.each (fun _ c =>
    if bad c then c else c.due (t + 1) t 0 (.sld rd.val (seqAddr c.r ra imm)))
  match r.firstSlot bad with
  | some k => r'.ttFault tfSalign (some k)
  | none => r'

/-- `SST` (R158, R241). -/
def Ring.sst (r : Ring) (t : Nat) (rb ra : Fin 32) (imm : BitVec 32) : Ring :=
  let bad (c : Cluster) : Bool := seqAddr c.r ra imm % 8 != 0
  let bytes (c : Cluster) : LsBytes :=
    (List.range 8).map (fun k => (seqAddr c.r ra imm + k,
      BitVec.ofNat 8 ((c.r.getS rb.val).toNat >>> (8 * k)), (0xFF : Byte)))
  let r' := r.each (fun _ c => if bad c then c else c.due (t + 3) t 0 (.lsw (t + 3) (bytes c)))
  match r.firstSlot bad with
  | some k => r'.ttFault tfSalign (some k)
  | none => r'

/-- `SRDS` (R159). DESIGN CHOICE (log entry 78): it reads the state as the bundle finds it, `CL_MSTAT` in the bundle of an `MSTART`
or `MSTOP` too (R89). -/
def Ring.srds (r : Ring) (t : Nat) (rd : Fin 32) (off : Nat) : Ring :=
  r.each (fun _ c => c.due (t + 2) t 0 (.sreg rd.val (BitVec.ofNat 64 (c.readReg t r.optph (4 * off)))))

/-- `SWRS` (R159). A write of `CL_TRSUB` by a logical slot other than 0 is ignored (R217). -/
def Ring.swrs (r : Ring) (t : Nat) (ra : Fin 32) (off : Nat) : Ring :=
  r.each (fun k c =>
    if off = 0x340 ∧ k ≠ 0 then c
    else c.due (t + 1) t 0 (.swrs (4 * off) ((c.r.getS ra.val).setWidth 32) r.tt.bidx))

/-- The bundle index of a branch target within the current leg (R160). -/
def Ring.target (r : Ring) (target : BitVec 13) : Nat := legOf r.tt.bidx * 8192 + target.toNat

/-- A branch whose outcome is `taken` per cluster: the ring follows the lowest logical slot and faults when
outcomes disagree (R160, R161). -/
def Ring.branch (r : Ring) (target : BitVec 13) (taken : Cluster → Bool) : Ring :=
  let o := taken (r.get 0)
  let r' : Ring := if o then { r with tt := { r.tt with next := r.target target } } else r
  if r.cl.all (fun c => taken c == o) then r' else r'.ttFault tfDiverge none

/-- `BNZD`: decrement with latency 1, branch on the new value. -/
def Ring.bnzd (r : Ring) (t : Nat) (ra : Fin 32) (target : BitVec 13) : Ring :=
  let r' := r.branch target (fun c => c.r.getS ra.val - 1 != 0)
  r'.each (fun _ c => c.due (t + 1) t 0 (.sreg ra.val (c.r.getS ra.val - 1)))

/-- `VSETVL` (R108). -/
def Ring.vsetvl (r : Ring) (t : Nat) (rd ra : Fin 32) (w : VWidth) : Ring :=
  r.each (fun _ c =>
    let n := min (c.r.getS ra.val).toNat (256 / w.bits)
    (c.due (t + 1) t 0 (.vl n)).due (t + 1) t 0 (.sreg rd.val (BitVec.ofNat 64 n)))

/-- `MBR` (R92): append a row request. A batch takes its settings from its first request on (R100). DEDUCED (log entry 78):
a request that fills the queue or carries the flush bit triggers in the next ring cycle, since a batch takes the requests
of the ring cycles before its trigger (R93). -/
def Cluster.mbr (c : Cluster) (t : Nat) (ra rb : Fin 32) (flush : Bool) : Cluster :=
  let c := c.fireBatches t
  if c.bat.queue.isEmpty && !c.bat.en then c.mfault mfBatch
  else
    let req : RowReq := ⟨c.r.getS ra.val, bits (c.r.getS rb.val).toNat 0 16, t⟩
    let c : Cluster :=
      if c.bat.queue.isEmpty then
        ({ c with bat := { c.bat with
          queue := [req], first := t, qtoken := c.bat.token, qlimit := c.bat.limit,
          qdesc := c.bat.desc } }).due (t + c.bat.limit) t 1 (.bLimit t)
      else { c with bat := { c.bat with queue := c.bat.queue ++ [req] } }
    if flush || decide (c.batchCap ≤ c.bat.queue.length) then c.due (t + 1) t 1 .bTrigger else c

/-- `LPRE` (R166). -/
def Ring.lpre (r : Ring) (leg : BitVec 11) : Ring := { r with tt := r.tt.stage leg.toNat }

end Sys2Proof.Machine
end

