-- ==== Sys2Proof/Machine/MatOps.lean ====
section
/-! DEFINITION. The matrix slot in a cluster (R81 to R94, R99): load, compute and write-out, refused while a
batch window is open. -/

namespace Sys2Proof.Machine

/-- R94: inside a batch window the matrix fields belong to the batcher. -/
def Cluster.matrixOp (c : Cluster) (f : Cluster → Cluster) : Cluster :=
  if c.bat.open_ then c.mfault mfBatch else f c

/-- `MMUL` of a bundle (R83, R85). -/
def Cluster.mmulOp (c : Cluster) (t : Nat) (f : MmulF) : Cluster :=
  c.matrixOp (fun c => c.mmul t f.sgna f.ovw (c.r.getS f.sa.val)
    ((f.accw.toNat + bits (c.r.getS f.sc.val).toNat 0 16) % 65536))

def Cluster.mldwOp (c : Cluster) (t : Nat) (sd : Fin 32) : Cluster :=
  c.matrixOp (fun c => c.mldw t (bits (c.r.getS sd.val).toNat 0 21))

/-- `MWR` of a bundle (R86, R90, Table 4.11). DESIGN CHOICE (log entry 78): one that overlaps an earlier write-out and is
misaligned as well sets ORDER alone. -/
def Cluster.mwrOp (c : Cluster) (t : Nat) (f : MwrF) : Cluster :=
  c.matrixOp (fun c =>
    match Mode.ofCode f.mode.toNat with
    | none => c
    | some m =>
      let ptr := (c.r.getS f.sw.val).toNat
      let edest := bits ptr 0 21
      let d := Fmt.ofCode f.ofmt.toNat
      let n := m.outs c.c77
      let rm := c.rm f.rm d.width
      let ro0 : ReadOut := ⟨m, bits ptr 42 16, f.clr, List.range n, d, rm, f.satb || c.satm, f.pair,
        f.bout.toNat, []⟩
      let len := mwrLen ro0
      if t + 4 < c.mx.outUntil then c.mfault mfOrder
      else if edest % max 1 (d.width / 8) ≠ 0 then c.mfault mfAlign
      else
        let dr := c.draws rm n
        let c := dr.2
        ({ c with mx := { c.mx with outUntil := t + 4 + (len + 511) / 512 } }).due (t + 1) t 1
          (.mwr { ro0 with draws := dr.1 } edest (bits ptr 21 21)))

/-- Whether the check of a physical cell column runs (R95): clocked, and part of an output block. DESIGN CHOICE (log entry
78): a ramp clocks the columns in ascending order; columns 77 to 83 of a cluster that presents class 77 are never checked. -/
def Matrix.checks (x : Matrix) (col : Nat) : Bool :=
  decide (col < 12 * x.step) && x.bypass != some (col / 7) && !(x.narrow && decide (77 ≤ col))

/-- R95: a column check mismatch. -/
def Cluster.colchk (c : Cluster) (col : Nat) : Cluster :=
  if c.mx.checks col then
    { c with mx := { c.mx with
      fault := c.mx.fault ||| mfColchk
      col := if c.mx.fault &&& mfColchk = 0 then col else c.mx.col } }.raise (.colchk col)
  else c

end Sys2Proof.Machine
end

