-- ==== Sys2Proof/Machine/Sequencer.lean ====
section
/-! DEFINITION. The sequencer slot's commands (R156 to R161, R108, R166, Table 7.3). -/

namespace Sys2Proof.Machine

abbrev Result := Host.Outcome State Fault Refusal

/-- Slot `k` of a bundle, holding command `c`, acts on its ring (R153, R155). -/
def State.slotOp (s : State) (i : Issue) (k : Nat) (c : Instr) (f : Nat → Ring → Ring) : Result :=
  .next (s.atRing i.ring (fun r => r.issue i k (fun x => x == c) f))

/-- A slot acts alike in every active cluster. -/
def State.eachOp (s : State) (i : Issue) (k : Nat) (c : Instr) (f : Nat → Cluster → Cluster) : Result :=
  s.slotOp i k c (fun t r => r.each (fun _ x => f t x))

/-- An event of a ring. -/
def State.ringEvent (s : State) (i : Issue) (f : Nat → Ring → Ring) : Result :=
  .next (s.atRing i.ring (fun r => r.event i.ring i.cycle f))

def execSadd (i : Issue) (rd ra rb : Fin 32) (s : State) : Result :=
  s.slotOp i 0 (.sadd i rd ra rb) (fun t r => r.seqAlu t 1 rd ra rb (fun a b => a + b))

def execSsub (i : Issue) (rd ra rb : Fin 32) (s : State) : Result :=
  s.slotOp i 0 (.ssub i rd ra rb) (fun t r => r.seqAlu t 1 rd ra rb (fun a b => a - b))

def execSand (i : Issue) (rd ra rb : Fin 32) (s : State) : Result :=
  s.slotOp i 0 (.sand i rd ra rb) (fun t r => r.seqAlu t 1 rd ra rb (fun a b => a &&& b))

def execSor (i : Issue) (rd ra rb : Fin 32) (s : State) : Result :=
  s.slotOp i 0 (.sor i rd ra rb) (fun t r => r.seqAlu t 1 rd ra rb (fun a b => a ||| b))

def execSxor (i : Issue) (rd ra rb : Fin 32) (s : State) : Result :=
  s.slotOp i 0 (.sxor i rd ra rb) (fun t r => r.seqAlu t 1 rd ra rb (fun a b => a ^^^ b))

def execSshl (i : Issue) (rd ra rb : Fin 32) (s : State) : Result :=
  s.slotOp i 0 (.sshl i rd ra rb) (fun t r => r.seqAlu t 1 rd ra rb (fun a b => a <<< shAmt b))

def execSshr (i : Issue) (rd ra rb : Fin 32) (s : State) : Result :=
  s.slotOp i 0 (.sshr i rd ra rb) (fun t r => r.seqAlu t 1 rd ra rb (fun a b => a >>> shAmt b))

def execSsra (i : Issue) (rd ra rb : Fin 32) (s : State) : Result :=
  s.slotOp i 0 (.ssra i rd ra rb) (fun t r => r.seqAlu t 1 rd ra rb (fun a b => a.sshiftRight (shAmt b)))

def execSmul (i : Issue) (rd ra rb : Fin 32) (s : State) : Result :=
  s.slotOp i 0 (.smul i rd ra rb) (fun t r => r.seqAlu t 3 rd ra rb (fun a b => a * b))

def execSmin (i : Issue) (rd ra rb : Fin 32) (s : State) : Result :=
  s.slotOp i 0 (.smin i rd ra rb) (fun t r => r.seqAlu t 1 rd ra rb smin)

def execSmax (i : Issue) (rd ra rb : Fin 32) (s : State) : Result :=
  s.slotOp i 0 (.smax i rd ra rb) (fun t r => r.seqAlu t 1 rd ra rb smax)

def execSslt (i : Issue) (rd ra rb : Fin 32) (s : State) : Result :=
  s.slotOp i 0 (.sslt i rd ra rb) (fun t r => r.seqAlu t 1 rd ra rb sslt)

def execSaddi (i : Issue) (rd ra : Fin 32) (imm : BitVec 32) (s : State) : Result :=
  s.slotOp i 0 (.saddi i rd ra imm) (fun t r => r.seqResult t 1 rd (fun q => q.getS ra.val + immS imm))

def execSli (i : Issue) (rd : Fin 32) (imm : BitVec 32) (s : State) : Result :=
  s.slotOp i 0 (.sli i rd imm) (fun t r => r.seqResult t 1 rd (fun _ => immS imm))

/-- `SLIH`: rd[63:32] takes IMM, rd[31:0] is kept. -/
def execSlih (i : Issue) (rd : Fin 32) (imm : BitVec 32) (s : State) : Result :=
  s.slotOp i 0 (.slih i rd imm) (fun t r => r.seqResult t 1 rd (fun q => imm ++ (q.getS rd.val).setWidth 32))

def execSld (i : Issue) (rd ra : Fin 32) (imm : BitVec 32) (s : State) : Result :=
  s.slotOp i 0 (.sld i rd ra imm) (fun t r => r.sld t rd ra imm)

def execSst (i : Issue) (rb ra : Fin 32) (imm : BitVec 32) (s : State) : Result :=
  s.slotOp i 0 (.sst i rb ra imm) (fun t r => r.sst t rb ra imm)

def execSrds (i : Issue) (rd : Fin 32) (off : BitVec 12) (s : State) : Result :=
  s.slotOp i 0 (.srds i rd off) (fun t r => r.srds t rd off.toNat)

def execSwrs (i : Issue) (ra : Fin 32) (off : BitVec 12) (s : State) : Result :=
  s.slotOp i 0 (.swrs i ra off) (fun t r => r.swrs t ra off.toNat)

def execBr (i : Issue) (target : BitVec 13) (s : State) : Result :=
  s.slotOp i 0 (.br i target) (fun _ r => r.branch target (fun _ => true))

def execBeq (i : Issue) (ra rb : Fin 32) (target : BitVec 13) (s : State) : Result :=
  s.slotOp i 0 (.beq i ra rb target) (fun _ r => r.branch target (fun c => c.r.getS ra.val == c.r.getS rb.val))

def execBne (i : Issue) (ra rb : Fin 32) (target : BitVec 13) (s : State) : Result :=
  s.slotOp i 0 (.bne i ra rb target) (fun _ r => r.branch target (fun c => c.r.getS ra.val != c.r.getS rb.val))

def execBlt (i : Issue) (ra rb : Fin 32) (target : BitVec 13) (s : State) : Result :=
  s.slotOp i 0 (.blt i ra rb target) (fun _ r => r.branch target (fun c => (c.r.getS ra.val).slt (c.r.getS rb.val)))

def execBnzd (i : Issue) (ra : Fin 32) (target : BitVec 13) (s : State) : Result :=
  s.slotOp i 0 (.bnzd i ra target) (fun t r => r.bnzd t ra target)

def execVsetvl (i : Issue) (rd ra : Fin 32) (w : VWidth) (s : State) : Result :=
  s.slotOp i 0 (.vsetvl i rd ra w) (fun t r => r.vsetvl t rd ra w)

def execMbr (i : Issue) (ra rb : Fin 32) (flush : Bool) (s : State) : Result :=
  s.eachOp i 0 (.mbr i ra rb flush) (fun t c => c.mbr t ra rb flush)

def execLpre (i : Issue) (leg : BitVec 11) (s : State) : Result :=
  s.slotOp i 0 (.lpre i leg) (fun _ r => r.lpre leg)

/-- The bundles of a leg of the timetable that a ring runs: its target's of the class it has selected (R166, R171). -/
def State.legBundles (s : State) (ring leg : Nat) : List (BitVec 512) :=
  match (s.partOf ring).bind (fun part => (s.part part).image) with
  | none => []
  | some im => match im.timetable (im.targetOf ring) (s.ring ring).tt.c77 with
    | some t => (t.bundles.drop (leg * 8192)).take 8192
    | none => []

/-- R166: the leg being staged has arrived whole, copied from the stored timetable. -/
def execLegStaged (ring : Fin 256) (cycle : Nat) (s : State) : Result :=
  .next (s.atRing ring (fun r => r.event ring cycle (fun _ r =>
    { r with tt := r.tt.staged (s.legBundles ring r.tt.other.leg) })))

end Sys2Proof.Machine
end

