-- ==== Sys2Proof/Machine/Fabric.lean ====
section
/-! DEFINITION. Flits at routers and endpoints, and the edges between them (R266 to R273). -/

namespace Sys2Proof.Machine

/-! ## Sending (R266, R268, R273) -/

/-- The input by which a flit of the die itself comes. -/
def ownInput : Nat := 7

/-- The flit of a virtual channel that goes next: the first of the input whose turn it is, round-robin from the input after the
one last served (R266). -/
def Edge.next (e : Edge) (vc : Nat) : Option (Nat × Flit) :=
  let last := Tab.get ownInput e.turn vc
  (List.range 8).findSome? (fun k =>
    e.held.find? (fun x => x.1 == (last + 1 + k) % 8 && channelOf x.2 == vc))

/-- A flit that goes out leaves its buffer, enters the replay buffer and takes a credit. -/
def Edge.send (e : Edge) (x : Nat × Flit) : Edge :=
  let vc := channelOf x.2
  { e with
    held := e.held.erase x, turn := Tab.ins vc x.1 e.turn
    flits := (e.flits + 1) % 2 ^ 64, buf := e.keep (e.buf ++ [(x.2, false)])
    used := Tab.set 0 e.used vc (Tab.get 0 e.used vc + 1) }

/-- Send what the credits of a virtual channel allow, at most `n` flits. -/
def Edge.offer (die side vc : Nat) : Nat → Edge × List Flit → Edge × List Flit
  | 0, x => x
  | n + 1, x =>
    if !x.1.hasCredit die side vc then x
    else match x.1.next vc with
    | none => x
    | some y => Edge.offer die side vc n (x.1.send y, x.2 ++ [y.2])

/-- An active edge sends what its credits allow of the flits it holds; the end of a partition that waited for them goes on
(R362). -/
def State.serveEdge (s : State) (die side : Nat) : State :=
  let e := s.edge die side
  if e.st ≠ .active then s
  else
    let x := [0, 1, 2, 3].foldl (fun x vc => Edge.offer die side vc e.held.length x) (e, [])
    let t := (s.setEdge die side x.1).emits (x.2.map (fun f => .flit die side (wireBytes f)))
    if x.2 = [] then t else t.finishEnds

/-- A flit that came by an input joins those an edge has to send, with the check of its header as it now is; an edge that is
absent or has failed carries none. -/
def State.sendFlit (s : State) (inp die side : Nat) (f : Flit) : State :=
  let e := s.edge die side
  match e.st with
  | .active => (s.setEdge die side { e with held := e.held ++ [(inp, stamped f)] }).serveEdge die side
  | .retraining => s.setEdge die side { e with held := e.held ++ [(inp, stamped f)] }
  | _ => s

/-- The first flit of a number that the far end has not accepted is accepted. -/
def acceptIn (id : Nat) : List (Flit × Bool) → List (Flit × Bool)
  | [] => []
  | x :: l => if !x.2 && flitId x.1 == id then (x.1, true) :: l else x :: acceptIn id l

/-- The far end has accepted a flit: its credit returns. -/
def State.acceptFlit (s : State) (die side : Nat) (f : Flit) : State :=
  let e := s.edge die side
  let vc := channelOf f
  ((s.setEdge die side { e with
    buf := acceptIn (flitId f) e.buf
    used := Tab.set 0 e.used vc (Tab.get 0 e.used vc - 1) }).serveEdge die side).freeColls

/-- Flits from the oldest one not accepted on. -/
def Edge.inFlight (e : Edge) : List (Flit × Bool) := e.buf.dropWhile (·.2)

/-- Flits of the replay buffer go out again; those among them that had been accepted arrive as duplicates. -/
def Edge.resent (e : Edge) (l : List (Flit × Bool)) : Edge :=
  { e with dups := e.dups ++ (l.filter (·.2)).map (fun x => flitId x.1) }

/-- Whether a die may pass a flit on (R266). -/
def forwards (die : Nat) (f : Flit) : Bool :=
  decide (die < 16) || (decide (die = 18) && (decide (20 ≤ f.srcd.toNat) || decide (20 ≤ f.dst.toNat)))

/-- A negative acknowledge to the source of a flit: by the default route, with the requester's unit, tag and payload
(R269, R271). -/
def nakOf (die : Nat) (f : Flit) : Flit :=
  { f with type := 7, deflt := true, route := 0, hop := 0, dst := f.srcd, srcd := BitVec.ofNat 5 die, seq := 0 }

/-- Start a flit from a die on its default route. -/
def State.inject (s : State) (die : Nat) (f : Flit) : State :=
  match defaultRoute die f.dst.toNat with
  | [] => s.emit (.deliver die f)
  | side :: _ => s.sendFlit ownInput die side f

/-- The unit that a number of a span names (Table 11.2): a client of the memory system (stream engines, the transfer engine,
the Trestle engine), or the cluster whose sequencer it is. -/
def State.unitClient (s : State) (span unit : Nat) : Option (Client ⊕ Nat) :=
  let phys := unit / 8
  let ring := span * 16 + phys / 17
  let slot := if phys % 17 = 16 then Tab.get 0 s.repair.spare ring - 1 else phys % 17
  if hr : ring < 256 then
    let cl : Fin 4096 := ⟨ring * 16 + slot % 16, by omega⟩
    match unit % 8 with
    | 0 => some (.inl (.stream cl 0))
    | 1 => some (.inl (.stream cl 1))
    | 2 => some (.inl (.stream cl 2))
    | 3 => some (.inl (.stream cl 3))
    | 4 => some (.inl (.transfer cl 0))
    | 5 => some (.inl (.trestle ⟨ring, hr⟩))
    | 6 => some (.inr cl.val)
    | _ => none
  else none

/-- A negative acknowledge reaches the die of its requester, which faults with XLATE (R269, R271): a sequencer's post in its
cluster, as source 5; an engine of a junction or siding die has no register for it, so the step of its partition is faulted
(log entry 80). -/
def State.nakArrives (s : State) (die : Nat) (f : Flit) : State :=
  if 16 ≤ die then (if die < 22 then s.faultStep f.part.toNat true else s)
  else match s.unitClient die f.srcu.toNat with
  | some (.inl who) => s.clientFault f.part.toNat who sfXlate (leAt f.payload 0 6)
  | some (.inr g) => (s.setCluster g ((s.cluster g).sfault sfXlate 5 none)).takeFlagsAs (g / 16) false
  | none => s

/-- Bytes that a read or write request asks for: 64 to 256, within the 256-byte interleave granule of its address. PRESUMED (log entry 86): the address lies in payload bytes 0 to 5, the
length in bytes 6 and 7, the byte mask in bytes 8 to 39. -/
def reqLen (f : Flit) : Nat :=
  max 64 (min ((256 - leAt f.payload 0 6 % 256) / 64 * 64) (leAt f.payload 6 2 / 64 * 64))
def reqMask (f : Flit) : Nat := leAt f.payload 8 32

/-- Whether a write request awaits a write data flit of its source, tag and partition at a die. -/
def OpenWrite.takes (w : OpenWrite) (die : Nat) (f : Flit) : Bool :=
  (w.die == die) && (w.part == f.part.toNat) && (w.srcd == f.srcd.toNat) && (w.srcu == f.srcu.toNat) && (w.tag == f.tag.toNat)

/-- A delivered write request opens its data flits, one for each 64 bytes; a delivered data flit closes one (R267). -/
def State.trackWrite (s : State) (die : Nat) (f : Flit) : State :=
  match f.type.toNat with
  | 1 => { s with opens := s.opens ++
      [⟨die, f.part.toNat, f.srcd.toNat, f.srcu.toNat, f.tag.toNat, leAt f.payload 0 6, reqMask f, reqLen f / 64⟩] }
  | 2 => match s.opens.find? (·.takes die f) with
    | none => s
    | some w => { s with opens := (if w.left ≤ 1 then s.opens.erase w
        else s.opens.map (fun x => if x = w then { w with addr := w.addr + 64, mask := w.mask / 2 ^ 64, left := w.left - 1 } else x)) }
  | _ => s

/-- What is delivered at a die: a write data flit with its address and the mask of its 64 bytes, which its request gave. -/
def State.delivered (s : State) (die : Nat) (f : Flit) : Output :=
  match (if f.type = 2 then s.opens.find? (·.takes die f) else none) with
  | some w => .store die w.addr (w.mask % 2 ^ 64) f
  | none => .deliver die f

/-- The cluster a device address lies in, where it names a local store. -/
def windowNamed (f : Flit) : Option Nat := (windowOf (leAt f.payload 0 6)).map (·.1)

/-- The partition a ring was written with at its creation. -/
def State.ringHas (s : State) (ring part : Nat) : Bool := s.partOf ring == some part

/-- Whether a siding die serves a partition: its journal, a capture, a drain or a restore is in progress. -/
def State.sidingServes (s : State) (die part : Nat) : Bool :=
  let p := s.part part
  let x := s.siding (die - 20)
  p.exists_ && (p.opt || p.ckpt.isSome || !p.drains.isEmpty || x.waiting.any (fun w => w.entry.part == part) ||
    x.entries.any (fun e => e.part == part) ||
    (match p.job with
     | .restore _ => true
     | _ => false))

/-- The place where a flit is delivered accepts its PART (R248, R269): the deck by its owner record, a local store by its
ring's identifier, write data with the request it follows, a token post where the partition has a ring, a junction's collective engine by its groups, a siding die by what it serves. -/
def State.acceptsPart (s : State) (die : Nat) (f : Flit) : Bool :=
  let p := f.part.toNat
  if die < 16 then
    match f.type.toNat with
    | 0 | 1 => match windowNamed f with
      | some g => s.ringHas (g / 16) p
      | none => (s.deck die).admits p (leAt f.payload 0 6 % 2 ^ 32)
    | 2 => s.opens.any (·.takes die f)
    | 6 => (s.part p).ringOn die
    | _ => match s.unitClient die f.srcu.toNat with
      | some (.inl (.stream cl _)) | some (.inl (.transfer cl _)) => s.ringHas (cl.val / 16) p
      | some (.inl (.trestle r)) => s.ringHas r.val p
      | some (.inr g) => s.ringHas (g / 16) p
      | _ => (s.part p).ringOn die
  else if die < 20 then (f.type.toNat != 5) || s.groups.any (fun g => g.2.part == p)
  else if die < 22 then s.sidingServes die p
  else true

/-- Delivery at the destination die. A response that is refused has come to its requester's die, which faults (R269). -/
def State.deliverFlit (s : State) (die : Nat) (f : Flit) : State :=
  match f.type.toNat with
  | 7 => (s.emit (.deliver die f)).nakArrives die f
  | 8 =>
    if f.srcd.toNat = 22 then s.emit (.deliver die f)
    else { s with ctlDrops := Tab.ins die (satInc 32 (Tab.get 0 s.ctlDrops die)) s.ctlDrops }
  | k =>
    if 8 < k then s
    else if s.acceptsPart die f then (s.trackWrite die f).emit (s.delivered die f)
    else if k = 3 ∨ k = 4 then (s.note f.part.toNat (256 + die) 269 0).nakArrives die f
    else (s.note f.part.toNat (256 + die) 269 0).inject die (nakOf die f)

/-- The side a flit leaves a die by, and the flit with its hop counted; none where its explicit route is not
installed (R270, R271). -/
def State.nextSide (s : State) (die : Nat) (f : Flit) : Option (Nat × Flit) :=
  if f.deflt || (3 ≤ f.type.toNat && (f.type.toNat ≤ 4 || f.type.toNat == 7)) || !decide (die < 16) then
    (defaultRoute die f.dst.toNat).head?.map (fun k => (k, f))
  else match (s.part f.part.toNat).image with
  | none => none
  | some im => match im.routes.find? (fun r => r.id == f.route.toNat) with
    | none => none
    | some r => match r.hops[f.hop.toNat]? with
      | some k => some (k, { f with hop := f.hop + 1 })
      | none => none

/-- A checked flit that came by an input is delivered or passed on. -/
def State.routeFlit (s : State) (inp die : Nat) (f : Flit) : State :=
  if f.dst.toNat = die then s.deliverFlit die f
  else if !forwards die f then s
  else match s.nextSide die f with
  | some (k, f) => s.sendFlit inp die k f
  | none => (s.note f.part.toNat (256 + die) 271 0).inject die (nakOf die f)

/-! ## Arrival (R268) -/

/-- The edge a flit arrived over, as its sending side names it. -/
def incoming (die inEdge : Nat) : Option (Nat × Nat) := backEdge die inEdge

/-- The flits of the replay buffer that the far end still lacks, oldest first. -/
def Edge.lacking (e : Edge) : List Flit := (e.buf.filter (fun x => !x.2)).map (·.1)

/-- The key under which a flit's failed arrivals are counted. It is the oldest flit that the far end still lacks with its header or,
where the header cannot be read, with its payload or, with none such, at all; 0 stands for a flit that the edge did not send. -/
def Edge.failKey (e : Edge) (f : Flit) : Nat :=
  match (if flitOk f then e.lacking.find? (fun g => flitHeader g == flitHeader f)
    else (e.lacking.find? (fun g => g.payload == f.payload)).or e.lacking.head?) with
  | some g => flitId g + 1
  | none => 0

/-- An arrival has failed and a replay is asked for; where the flit has failed eight replays, the edge retrains. -/
def Edge.askReplay (e : Edge) (key : Nat) : Edge :=
  let n := Tab.get 0 e.fails key + 1
  { e with fails := Tab.set 0 e.fails key n, st := (if 8 < n ∧ e.st = .active then .retraining else e.st) }

/-- A good arrival ends the row of failures of its flit; a flit that the edge did not send ends that of those. -/
def Edge.arrived (e : Edge) (f : Flit) (corrected : Bool) : Edge :=
  let known := e.buf.any (fun x => flitId x.1 == flitId f)
  let fails := Tab.set 0 e.fails (flitId f + 1) 0
  { e with fails := if known then fails else Tab.set 0 fails 0 0, corr := e.corr + b2n corrected }

/-- What the decoder delivers of a payload. -/
def State.decodeFlit (s : State) (f : Flit) : Option Flit × Bool × State :=
  match rsVerdict f.wrong with
  | .clean => (some f, false, s)
  | .corrected => (some { f with wrong := 0 }, true, s)
  | .uncorrectable => (none, false, s)
  | .beyond =>
    let q := s.draw
    if Config.beyondReported [2, q.1] then (none, false, q.2)
    else (some { f with wrong := 0, payload := (List.range 64).map (Config.beyondByte [2, q.1]) }, true, q.2)

/-- What becomes of a flit that arrives with its checks passed (R266, R268). -/
inductive Arrival where
  | accepted | duplicate | early
  deriving DecidableEq, Repr

/-- One that the far end lacks is accepted, unless an older one that keeps its order is still lacking: it comes again with that one's
replay. One that had been accepted is not delivered again. One that the edge did not send is taken as it comes. -/
def Edge.judge (e : Edge) (f : Flit) : Arrival :=
  if e.dups.contains (flitId f) then .duplicate
  else match e.lacking.find? (fun g => orderKey g == orderKey f) with
  | some g =>
    if flitId g = flitId f then .accepted
    else if e.lacking.any (fun g => flitId g == flitId f) then .early
    else if e.buf.any (fun x => flitId x.1 == flitId f) then .duplicate
    else .accepted
  | none => if e.buf.any (fun x => flitId x.1 == flitId f) then .duplicate else .accepted

/-- `FLIT_RECEIVE`. -/
def execFlitReceive (at_ : Fin 23) (inEdge : Fin 7) (f : Flit) (s : State) : Result :=
  match incoming at_.val inEdge.val with
  | none => .next s
  | some (die, side) =>
    let e := s.edge die side
    let ask (s : State) : Result := .next (s.setEdge die side (e.askReplay (e.failKey f)))
    if !flitOk f then ask s
    else match s.decodeFlit f with
    | (none, _, s) => ask s
    | (some g, corrected, s) =>
      match e.judge g with
      | .early => .next s
      | .duplicate => .next (s.setEdge die side { e.arrived g corrected with dups := e.dups.erase (flitId g) })
      | .accepted =>
        .next (((s.setEdge die side (e.arrived g corrected)).acceptFlit die side g).routeFlit inEdge.val at_.val g)

/-- Fabric cycles of a millisecond. -/
def fabricMs : Nat := 1200000

/-- The last `n` flits are sent again: one replay (R280). -/
def execFlitReplay (edge : EdgeId) (n fc : Nat) (s : State) : Result :=
  let die := edge.die.val
  let side := edge.side.val
  let e := s.edge die side
  if e.st = .active then
    let l := e.buf.drop (e.buf.length - n)
    .next ((s.setEdge die side { e.resent l with
        replays := satInc 16 e.replays, recent := fc :: e.recent.filter (fun t => decide (fc < t + fabricMs)) }).emits
      (l.map (fun x => .flit die side (wireBytes x.1))))
  else .next s

/-! ## Edge faults (R273) -/

/-- Whether the replays of the last millisecond exceed the threshold. -/
def Edge.tooMany (e : Edge) (fc : Nat) : Bool :=
  decide (e.thresh < (e.recent.filter (fun t => decide (fc < t + fabricMs))).length)

/-- `EDGE_RETRAIN`: an edge whose replays exceed THRESH within 1 ms stops sending. -/
def execEdgeRetrain (edge : EdgeId) (fc : Nat) (s : State) : Result :=
  let e := s.edge edge.die.val edge.side.val
  .next (if e.st = .active ∧ e.tooMany fc then s.setEdge edge.die.val edge.side.val { e with st := .retraining } else s)

/-- An edge as notifications name it: by the side of a span where one of its ends is a span (R418). -/
def edgeName (die side : Nat) : Nat :=
  if die < 16 then die * 4 + side
  else match backEdge die side with
  | some (far, k) => if far < 16 then far * 4 + k else die * 4 + side
  | none => die * 4 + side

/-- An edge has failed, in both directions: every partition's step is faulted and not repeated. -/
def State.edgeFail (s : State) (die side : Nat) : State :=
  let kill (s : State) (p : Nat × Nat) : State :=
    s.setEdge p.1 p.2 { s.edge p.1 p.2 with st := .failed, held := [], buf := [], dups := [], used := [] }
  let s := kill s (die, side)
  let s := match backEdge die side with
    | some p => kill s p
    | none => s
  let s := s.note 0xFF (256 + die) 273 side
  ((s.parts.map (·.1)).foldl (fun s p => (s.faultStep p true).notify p 6 (edgeName die side)) s).finishEnds.freeColls

/-- Lanes and spares after `failing` lanes have been found. -/
def lanesLeft (e : Edge) (failing : Nat) : Nat × Nat :=
  if failing ≤ e.spares then (e.lanes, e.spares - failing) else (e.lanes + e.spares - failing, 0)

/-- `EDGE_RETRAIN_DONE`: the edge resumes, from the oldest flit not acknowledged, with what it held after it, or has failed. -/
def execEdgeRetrainDone (die : Fin 23) (side : Fin 7) (failing : Nat) (s : State) : Result :=
  let e := s.edge die.val side.val
  if e.st ≠ .retraining then .next s
  else
    let l := lanesLeft e failing
    let s := s.setEdge die.val side.val { e.resent e.inFlight with st := .active, lanes := l.1, spares := l.2, fails := [], recent := [] }
    if e.spares < failing ∧ l.1 < 25 then .next (s.edgeFail die.val side.val)
    else .next (((s.emits (e.inFlight.map (fun x => .flit die.val side.val (wireBytes x.1)))).serveEdge die.val side.val).freeColls)

end Sys2Proof.Machine
end

