-- ==== Sys2Proof/Machine/Collectives.lean ====
section
/-! DEFINITION. The commands of collective groups (R285 to R303) and the arrival of Narid frames (R276, R277, R286,
R319). -/

namespace Sys2Proof.Machine

/-! ## Invocations -/

/-- Do something with a bucket of an active group. -/
def State.onBucket (s : State) (group : Fin 16) (bucket : Fin 64) (f : Group → State) : Result :=
  match s.group group.val with
  | none => .next s
  | some g => .next (if bucket.val < g.rcd.buckets.length then f g else s)

/-- The same, once what it reads and writes of the deck need not wait (R260, R313). -/
def State.onBucketReady (s : State) (group : Fin 16) (bucket : Fin 64) (rd wr : GroupRec → List (Nat × Nat))
    (f : Group → State) : Result :=
  s.onBucket group bucket (fun g => if s.engineReady g.part (rd g.rcd) (wr g.rcd) then f g else s)

/-- What an invocation's contributions read, and what those to the device's own roots write. -/
def GroupRec.startReads (r : GroupRec) (b : Nat) : List (Nat × Nat) :=
  if r.op = 2 then []
  else (List.range (r.chunks b)).flatMap (fun c => r.held.flatMap (fun p =>
    (r.sources b c p.2).map (fun a => (a, r.chunkLen b c / r.elt * (if r.dclass = 0 then 8 else 16)))))

def GroupRec.startWrites (r : GroupRec) (b : Nat) : List (Nat × Nat) :=
  if r.op = 2 then []
  else ((List.range (r.chunks b)).filter (fun c => (r.offOf (r.root b c)).isSome)).flatMap (fun c =>
    r.held.map (fun p => (r.stageAt b c p.1, r.chunkLen b c)))

/-- Where the held positions' results of a chunk go. -/
def GroupRec.joinWrites (r : GroupRec) (b c : Nat) : List (Nat × Nat) :=
  (r.held.filter (fun p => (r.receives b p.1).contains c)).map (fun p => (r.dstAt b c p.1, r.chunkLen b c))

/-- What a root reads of a chunk: the staged contributions or, in an all-gather, its contributor's bytes. -/
def GroupRec.joinReads (r : GroupRec) (b c : Nat) : List (Nat × Nat) :=
  if r.op = 2 then
    [(r.contrib.headD 0 + (r.bucket b).srcoff + (r.offOf (r.root b c)).getD 0 + c * r.chunk, r.chunkLen b c)]
  else (List.range r.gsize).map (fun p => (r.stageAt b c p, r.chunkLen b c))

/-- The lag table. -/
def GroupRec.lagRange (r : GroupRec) : List (Nat × Nat) := [(r.lagaddr, 16 * r.gsize)]

/-- The record of an invocation that starts: an abandoned one before it still awaits its verdict, and what position 0 has
collected of it stays (R285, R298). -/
def Invoc.starts (x : Invoc) (fc : Nat) : Invoc :=
  if x.abandon then { Invoc.new with live := true, start := fc, last := fc, owed := true, verdicts := x.verdicts }
  else { x with live := true, start := fc, last := max x.last fc }

/-- R285, R289: the invocation starts once STOK reaches NCONTRIB, the one before it having completed or been abandoned; the
device's contributions are formed. -/
def execInvocationStart (group : Fin 16) (bucket : Fin 64) (fc : Nat) (s : State) : Result :=
  s.onBucketReady group bucket (fun r => r.startReads bucket.val) (fun r => r.startWrites bucket.val) (fun g =>
    let b := bucket.val
    let p := s.part g.part
    let stok := (g.rcd.bucket b).stok
    let n := p.counter 0 .device stok
    let k := g.rcd.contrib.length
    if ((g.invOf b).live && !(g.invOf b).abandon) || decide (n < k) then s
    else
      let s := s.setPart g.part (p.setCounter 0 .device stok (n - k))
      let s := s.onInv group.val b (fun x => x.starts fc)
      if g.rcd.op = 2 then s
      else (List.range (g.rcd.chunks b)).foldl (fun s c =>
        g.rcd.held.foldl (fun s p => s.formContribution group.val b fc c p) s) s)

/-- R290: the root joins in position order, once every contribution is complete, and sends the result. -/
def execRootJoin (group : Fin 16) (bucket : Fin 64) (chunk : Fin 1024) (s : State) : Result :=
  s.onBucketReady group bucket (fun r => r.joinReads bucket.val chunk.val) (fun r => r.joinWrites bucket.val chunk.val) (fun g =>
    let b := bucket.val
    let c := chunk.val
    let r := g.rcd
    let x := g.invOf b
    let root := r.root b c
    let len := r.chunkLen b c
    match r.offOf root with
    | none => s
    | some hoff =>
      if !x.live || x.abandon || x.joined.contains c || !decide (c < r.chunks b) then s
      else if r.op = 2 then
        match s.engineRead (some (homeDie b c)) g.part (r.contrib.headD 0 + (r.bucket b).srcoff + hoff + c * r.chunk) len with
        | .error e => s.junctionFault group.val b e
        | .ok d => ((s.engineFetch g.part (r.joinReads b c)).onInv group.val b (fun x => { x with joined := setIns c x.joined })).spread group.val b c d
      else if (List.range r.gsize).any (fun p => Tab.get 0 x.full (chunkKey c p) == 0) then s
      else
        match s.readAreas (some (homeDie b c)) g.part len ((List.range r.gsize).map (fun p => r.stageAt b c p)) with
        | .error e => s.junctionFault group.val b e
        | .ok parts =>
          let y := r.result parts (len / r.elt)
          (((s.engineFetch g.part (r.joinReads b c)).onInv group.val b (fun x =>
            ({ x with joined := setIns c x.joined, flags := x.flags ||| y.2 } : Invoc).noteLags r c)).groupFlags
              group.val y.2).spread group.val b c y.1)

/-- R292: chunks that are present are posted in ascending order, for every position the device holds. -/
def execResultReceive (group : Fin 16) (bucket : Fin 64) (chunk : Fin 1024) (s : State) : Result :=
  s.onBucket group bucket (fun g =>
    let b := bucket.val
    g.rcd.held.foldl (fun s p =>
      match s.group group.val with
      | none => s
      | some g =>
        let x := g.invOf b
        if x.abandon || Tab.get 0 x.rgot (chunkKey chunk.val p.1) < g.rcd.chunkLen b chunk.val then s
        else State.postChunks group.val b p.1 ((g.rcd.receives b p.1).drop (Tab.get 0 x.posted p.1)) s) s)

/-- One position's copy of a chunk is read back and compared with its trailer (R294). -/
def State.checkChunk (s : State) (slot b c : Nat) (p : Nat) : State :=
  match s.group slot with
  | none => s
  | some g =>
    let x := g.invOf b
    let key := chunkKey c p
    let place := (g.rcd.receives b p).idxOf c
    let tr := Tab.get 0 x.trailer key
    if x.abandon || x.checked.contains key || decide (tr = 0) || !decide (place < Tab.get 0 x.posted p) then s
    else
      match s.engineRead (some (homeDie b c)) g.part (g.rcd.dstAt b c p) (g.rcd.chunkLen b c) with
      | .error e => s.junctionFault slot b e
      | .ok d => (s.engineFetch g.part [(g.rcd.dstAt b c p, g.rcd.chunkLen b c)]).onInv slot b (fun x => { x with
          checked := setIns key x.checked, digest := x.digest || decide (crc64 d + 1 ≠ tr) })

/-- `DIGEST_CHECK`. -/
def execDigestCheck (group : Fin 16) (bucket : Fin 64) (chunk : Fin 1024) (s : State) : Result :=
  s.onBucketReady group bucket (fun r => r.joinWrites bucket.val chunk.val) (fun _ => []) (fun g =>
    g.rcd.held.foldl (fun s p => s.checkChunk group.val bucket.val chunk.val p.1) s)

/-- Lags of the root positions of an all-gather, as a receiver measures them (R303). -/
def Invoc.gatherLags (x : Invoc) (r : GroupRec) (b : Nat) : Invoc :=
  let at_ (c : Nat) : Nat := Tab.get 0 x.rfull (chunkKey c r.mypos)
  let cs := List.range (r.chunks b)
  let first := cs.foldl (fun m c => min m (at_ c)) (at_ 0)
  cs.foldl (fun x c =>
    let pos := r.root b c
    let lag := max (Tab.get 0 x.lag pos) (at_ c - first)
    { x with lag := Tab.ins pos lag x.lag, lagsum := Tab.ins pos lag x.lagsum }) x

/-- R295: once every chunk has been checked, one member verdict per position goes to position 0. -/
def execMemberVerdict (group : Fin 16) (bucket : Fin 64) (s : State) : Result :=
  s.onBucket group bucket (fun g =>
    let b := bucket.val
    let x := g.invOf b
    let done := g.rcd.held.all (fun p => (g.rcd.receives b p.1).all (fun c => x.checked.contains (chunkKey c p.1)))
    if !x.live || x.verdictSent || !done then s
    else
      let s := if g.rcd.op = 2 then s.onInv group.val b (fun x => x.gatherLags g.rcd b) else s
      s.sendVerdicts group.val b)

/-- R295: position 0, with the verdicts of all positions, sends the group verdict to every position. -/
def execGroupVerdictSend (group : Fin 16) (bucket : Fin 64) (s : State) : Result :=
  s.onBucketReady group bucket (fun r => r.lagRange) (fun r => r.lagRange) (fun g =>
    let b := bucket.val
    let x := g.invOf b
    let ps := List.range g.rcd.gsize
    if (g.rcd.offOf 0).isNone || !ps.all (fun p => x.verdicts.any (fun q => q.1 == p)) then s
    else
      let v := groupVerdictOf x.verdicts
      let s := ps.foldl (fun s p =>
        if (g.rcd.offOf p).isSome then s else s.sendGroup group.val g p (g.tag 3 p b 0) 0 (verdictBytes v)) s
      s.verdictArrives group.val b v)

/-- R296: a group verdict reaches this device. -/
def execGroupVerdict (group : Fin 16) (bucket : Fin 64) (v : Verdict) (s : State) : Result :=
  s.onBucketReady group bucket (fun r => r.lagRange) (fun r => r.lagRange) (fun _ => s.verdictArrives group.val bucket.val v)

/-- R299: TIMEOUT has expired with a frame still awaited. -/
def execCollectiveTimeout (group : Fin 16) (bucket : Fin 64) (fc : Nat) (s : State) : Result :=
  s.onBucket group bucket (fun g =>
    let b := bucket.val
    let x := g.invOf b
    let ws := x.awaits g.rcd b
    if !x.live || ws.isEmpty || decide (fc < x.start + g.rcd.timeout * fabricMs) then s
    else
      let s := s.setGroup group.val ((g.dropInv b).record gfLost (ws.foldl min (ws.headD 0)))
      (s.noteGroup g.part group.val gfLost.toNat).faultStep g.part true)

/-! ## Copies received from other devices (R319) -/

/-- The partition whose image holds a group with a tag base. -/
def State.copyOwner (s : State) (base : Nat) : Option Nat :=
  (s.groups.find? (fun g => g.2.rcd.tagbase == base)).map (fun g => g.2.part)

/-- The siding die that keeps a sender's copy: the one that holds it already, else the one its position names, else the other
where that one has no free block. -/
def State.copyPlace (s : State) (base pos ser : Nat) : Nat :=
  let k := copyDie pos
  if (s.siding k).copies.any (·.is base pos ser) then k
  else if (s.siding (1 - k)).copies.any (·.is base pos ser) then 1 - k
  else if (s.siding k).free = 0 ∧ (s.siding (1 - k)).free ≠ 0 then 1 - k
  else k

/-- Copies of a sender that a new one displaces, on either die. -/
def State.dropCopies (s : State) (base pos : Nat) (gone : Copy → Bool) : State :=
  [0, 1].foldl (fun s k =>
    let x := s.siding k
    s.setSiding k { x with copies := x.copies.filter (fun c => !((c.base == base) && (c.pos == pos) && gone c)) }) s

/-- A bulk frame's bytes enter the copy it belongs to: data at their offset, or the manifest, with whose last frame, one of
fewer than 1,024 bytes (log entry 82), the copy is complete and an older complete one is freed. -/
def State.keepCopy (s : State) (part base pos ser kind offset : Nat) (d : List Byte) : State :=
  let k := s.copyPlace base pos ser
  let old := ((s.siding k).copies.find? (·.is base pos ser)).getD ⟨part, base, pos, ser, [], 0, [], false⟩
  let put (s : State) (c : Copy) : State :=
    let x := s.siding k
    s.setSiding k { x with copies := x.copies.filter (fun o => !o.is base pos ser) ++ [c] }
  if kind = 0 then
    put (s.dropCopies base pos (fun c => !c.complete && c.ser != ser))
      { old with data := Tab.setRun 0 old.data offset d, len := max old.len (offset + d.length) }
  else
    let c : Copy := { old with manifest := patch old.manifest offset d, complete := old.complete || decide (d.length < 1024) }
    put (s.dropCopies base pos (fun o => o.ser != ser && !(o.complete && !c.complete))) c

/-- A frame that names no active group or stream is discarded, counted in `JN_PERR` and logged (R276, R341, R342). -/
def State.discardFrame (s : State) (port : Nat) : State :=
  (s.setPort port { s.port port with tagdrop := satInc 8 (s.port port).tagdrop }).note 0xFF (256 + 16 + port / 4)
    (0x1008 + 0x40 * (port % 4)) 276

/-- A bulk frame; one that no partition takes is discarded and counted. -/
def State.bulkArrives (s : State) (port : Nat) (f : NFrame) : State :=
  let n := f.gtag.toNat
  match s.copyOwner (bits n 40 24) with
  | none => s.discardFrame port
  | some part => s.keepCopy part (bits n 40 24) (bits n 26 12) (bits n 10 16) (bits n 38 2) f.offset f.data

/-- Whether a bulk frame waits for a free siding block (R313): its copy would grow by a block, and its die has none. -/
def State.bulkWaits (s : State) (f : NFrame) : Bool :=
  let n := f.gtag.toNat
  let x := s.siding (s.copyPlace (bits n 40 24) (bits n 26 12) (bits n 10 16))
  let old := match x.copies.find? (·.is (bits n 40 24) (bits n 26 12) (bits n 10 16)) with
    | some c => ceilDiv c.len blockBytes
    | none => 0
  (bits n 38 2 == 0) && decide (x.free + old < ceilDiv (f.offset + f.data.length) blockBytes)

/-- Whether a received frame stays at its junction die for now: what it writes waits for a channel or for a siding block, or an
edge of its way is retraining or out of credit (R260, R266, R273, R313). -/
def State.frameWaits (s : State) (port : Nat) (f : NFrame) : Bool :=
  let t := Gtag.ofCode f.gtag
  if f.cls = 2 then (s.copyOwner (bits f.gtag.toNat 40 24)).isSome && s.bulkWaits f
  else match s.groupOf t with
  | some (_, g) => (f.cls == 1) && s.edgesUp (pathIn port t) &&
      (!s.pathOpen (pathIn port t) || !s.engineReady g.part [] (t.writes g.rcd f.offset f.data.length))
  | none => false

/-- A collective or bulk frame is a demand for the fabric (R395). -/
def State.frameWakes (s : State) (cls : Nat) : State := if cls = 0 then s else s.fabricOn

/-- `BULK_FRAME_RECEIVE`: what a delivered bulk frame does; the same frame twice leaves the same copy. -/
def execBulkFrameReceive (port : Fin 16) (half : Bool) (f : NFrame) (s : State) : Result :=
  let l := s.link port.val half
  if (l.st == .active) && l.keys then
    let s := s.frameWakes 2
    .next (if s.frameWaits port.val { f with cls := 2 } then s else s.bulkArrives port.val f)
  else .next s

/-! ## Frames (R276, R277) -/

/-- Ask the far end to replay from a frame. -/
def State.sendNak (s : State) (port : Nat) (half : Bool) (seq : Nat) : State := s.emit (.nak port half seq)

/-- An accepted frame takes effect; a link control frame returns credits (R277). -/
def State.frameArrives (s : State) (port : Nat) (half : Bool) (f : NFrame) (fc : Nat) : State :=
  match f.cls.toNat with
  | 0 => s.setLink port half ((s.link port half).credited f.data)
  | 1 =>
    let t := Gtag.ofCode f.gtag
    match s.groupOf t with
    | some (slot, g) => s.groupFrame port slot g t f fc
    | none => s.discardFrame port
  | 2 => s.bulkArrives port f
  | _ => s.discardFrame port

/-- The receiver returns a frame's credit in a link control frame (R277). DESIGN CHOICE (log entry 47): one frame for each
accepted frame of a class that has credits, at once. -/
def State.returnCredit (s : State) (port : Nat) (half : Bool) (cls : Nat) : State :=
  if cls = 1 ∨ cls = 2 then
    s.queueFrame port half .control { cls := 0, seq := 0, ack := 0, gtag := 0, offset := 0, data := Config.creditData cls }
  else s.serve port half

/-- `NARID_FRAME_RECEIVE`: the frame as it comes over the link, and its tag. -/
def execNaridFrameReceive (port : Fin 16) (half : Bool) (f : NFrame) (fec : Fec) (tag : List Byte) (fc : Nat) (s : State) :
    Result :=
  let p := s.port port.val
  let l := p.half half
  if l.st ≠ .active then .next s
  else match fec with
  | .failed n =>
    .next ((s.setPort port.val { p with uncorr := min (p.uncorr + max 1 n) (2 ^ 16 - 1) }).sendNak port.val half f.seq.toNat)
  | .corrected n =>
  let p : Port := { p with pcorr := (p.pcorr + n) % 2 ^ 64 }
  match l.opens port.val half f tag with
  | none =>
    .next (((s.setPort port.val { p with authfail := satInc 8 p.authfail }).sendNak port.val half f.seq.toNat).note 0xFF
      (256 + 16 + port.val / 4) (0x1008 + 0x40 * (port.val % 4)) 342)
  | some f => match l.place f.seq.toNat with
  | .old => .next (s.setPort port.val p)
  | .ahead => .next (s.setPort port.val p)
  | .next =>
    let s := s.frameWakes f.cls.toNat
    if s.frameWaits port.val f then .next s
    else
    let l := { l with rxseq := f.seq.toNat, taken := l.taken + 1 }.acked f.ack.toNat
    .next (((s.setPort port.val (p.setHalf half l)).frameArrives port.val half f fc).returnCredit port.val half f.cls.toNat)

end Sys2Proof.Machine
end

