-- ==== Sys2Proof/Machine/Deck.lean ====
section
/-! DEFINITION. The commands of the decks and of the journal (10_memory.md, R310 to R313). -/

namespace Sys2Proof.Machine

/-! ## Accesses (R248, R251) -/

/-- A request has come to its channel, which knows from then on who waits there. -/
def State.hears (s : State) (x : DeckAcc) : State := s.lookAt x.span.val ((s.deck x.span.val).channel x.addr.toNat)

/-- An access of a deck in a deck cycle. -/
def State.deckTouch (s : State) (span a cycle : Nat) : State :=
  let d := s.deck span
  s.setDeck span (d.touch (d.channel a) cycle)

/-- Bytes a read of `k` granules gives its client: up to the job's end and the region entry's. -/
def readLen (x : DeckAcc) (k : Nat) (j : Job) : Nat :=
  min (min (64 * k - devOf x % 64) (j.len - j.got)) (2 ^ 24 - devOf x % 2 ^ 24)

/-- A read that is served: granules in order, each with the erroneous bytes it meets. -/
def State.serveRead (s : State) (acc : DeckAcc) (wrong : List Nat) : State :=
  let s := (s.takeTurn acc.span.val ((s.deck acc.span.val).channel acc.addr.toNat) acc.who).deckTouch acc.span.val
    acc.addr.toNat acc.cycle
  match s.jobOf acc.who with
  | some j =>
    let n := readLen acc wrong.length j
    match s.readGranules (granules (devOf acc) n) wrong with
    | (.error g, s) => s.memerr acc g
    | (.ok bs, s) => s.setJob acc.who (j.took ((bs.drop (devOf acc % 64)).take n))
  | none =>
    match s.readGranules (granules (devOf acc) (64 * wrong.length - devOf acc % 64)) wrong with
    | (.error g, s) => s.memerr acc g
    | (.ok _, s) => s

/-- `DECK_READ`. -/
def execDeckRead (acc : DeckAcc) (wrong : List Nat) (s : State) : Result :=
  let s := s.hears acc
  .next (match s.entryOf acc false with
    | .served => s.serveRead acc wrong
    | e => s.unserved acc e)

/-- A write request that is not journaled enters the write buffer in a deck cycle, no earlier than it reached the controller;
one that R310 journals waits for its journal entry. -/
def execDeckWrite (acc : DeckAcc) (data : List Byte) (mask : List Bool) (cycle wrong : Nat) (s : State) : Result :=
  let s := s.hears acc
  match s.entryOf acc true with
  | .served =>
    if s.journals acc.part.val acc.span.val (s.jobJr acc.who) acc.cycle ||
        !(s.deck acc.span.val).room acc.addr.toNat then .next s
    else
      let s := s.takeTurn acc.span.val ((s.deck acc.span.val).channel acc.addr.toNat) acc.who
      let bs := s.writeData acc data
      let mask := match s.jobOf acc.who with
        | some _ => []
        | none => mask
      match s.writeGranules (max acc.cycle cycle) wrong (overGranules (devOf acc) bs mask) with
      | (some g, s) => .next (s.memerr acc g)
      | (none, s) => .next (s.gave acc.who bs.length)
  | e => .next (s.unserved acc e)

/-- A journaled write: old granules go to the siding before the write enters the buffer (R311). A write that R310 does not
journal is none. -/
def execJournaledWrite (acc : DeckAcc) (data : List Byte) (mask : List Bool) (s : State) : Result :=
  let s := s.hears acc
  match s.entryOf acc true with
  | .served =>
    if s.journaling acc.who || !s.journals acc.part.val acc.span.val (s.jobJr acc.who) acc.cycle then .next s
    else if !s.sidingUp acc.span.val then .next (s.unserved acc .unreachable)
    else
      let s := s.deckTouch acc.span.val acc.addr.toNat acc.cycle
      let bs := s.writeData acc data
      let mask := match s.jobOf acc.who with
        | some _ => []
        | none => mask
      .next ((overGranules (devOf acc) bs mask).foldl (fun s w => s.journalGranule acc bs.length w) s)
  | e => .next (s.unserved acc e)

/-- The siding has stored the oldest waiting entry: its write becomes complete and visible. At a channel that is retraining it
waits (R260). -/
def execJournalEntryStored (siding : Fin 2) (s : State) : Result :=
  let sd := s.siding siding.val
  match sd.waiting with
  | [] => .next s
  | w :: ws =>
    if !(s.deck (w.entry.addr / 2 ^ 32)).serves (w.entry.addr % 2 ^ 32) then .next s else
    let s := s.setSiding siding.val { sd with
      waiting := ws, entries := withEntry sd.entries w.entry, stored := (sd.stored + 1) % 2 ^ 64 }
    match s.writeGranule (s.deck (w.entry.addr / 2 ^ 32)).now 0 (w.entry.addr, w.data, w.mask) with
    | (true, s) => .next (s.gave w.who w.count)
    | (false, s) =>
      .next ((s.clientFault w.entry.part w.who sfMemerr (s.nameAddr w.entry.part w.entry.addr)).meets w.entry.part w.entry.addr)

/-! ## Background activity -/

/-- The write buffer is drained in one run: it holds 4 KiB or more, no read is waiting, or its oldest write has waited 2 µs
(R251). -/
def execWriteBufferDrain (span : Fin 16) (ch : Fin 64) (cycle : Nat) (s : State) : Result :=
  let d := s.deck span.val
  let b := (d.chan ch.val).wbuf
  let due := decide (64 ≤ b.length) || (s.readQueue span.val ch.val).isEmpty || b.any (fun p => decide (p.2 + 2000 ≤ cycle))
  .next (if d.pow = .on ∧ due then s.setDeck span.val ((d.drain ch.val).touch ch.val cycle) else s)

/-- An interval begins (R254, R255): the refresh is forced, postponed, or made with all that are owed. A refresh, being of all
banks, leaves no row open. -/
def Chan.refresh (c : Chan) (waiting : Bool) : Bool × Chan :=
  let loaded := waiting || decide (64 ≤ c.wbuf.length)
  if !loaded then (false, { c with owed := 0, rows := [] })
  else if 8 ≤ c.owed then (true, { c with rows := [] })
  else (false, { c with owed := c.owed + 1 })

/-- An interval of a channel: foreground requests wait where a stream or a transfer has one, or where `waiting` says that
another engine has. A channel in retraining makes the refreshes it owes at their intervals (R260). -/
def execRefresh (span : Fin 16) (ch : Fin 64) (temp : Byte) (waiting : Bool) (s : State) : Result :=
  let d := s.deck span.val
  if d.pow ≠ .on then .next s
  else
    let waits := waiting || !(s.waitingAt span.val ch.val).isEmpty
    let x := (d.chan ch.val).refresh (waits && d.retraining != some ch.val)
    .next (s.setDeck span.val { d.setChan ch.val x.2 with
      temp := temp.toNat, hot := decide (85 < temp.toNat)
      forced := (if x.1 then satInc 24 d.forced else d.forced), maxowed := max d.maxowed x.2.owed })

/-- One zero granule of a scrub, which writes each granule once, in a deck cycle with no foreground request waiting
(Table 10.6). -/
def execScrubWrite (span : Fin 16) (addr : BitVec 32) (s : State) : Result :=
  let d := s.deck span.val
  let a := addr.toNat / 64 * 64
  let dev := span.val * 2 ^ 32 + a
  if d.scrub.contains (a / 2 ^ 24) && !d.scrubbed.contains (a / 64) && d.serves a &&
      (s.waitingAt span.val (d.channel a)).isEmpty then
    let s := ((s.clearPoison dev 64).putBytes dev (List.replicate 64 0)).busyCycles span.val 1
    let d := s.deck span.val
    .next (s.setDeck span.val { d with scrubbed := setIns (a / 64) d.scrubbed })
  else .next s

/-- A scrub waits for a channel that is retraining. -/
def execScrubComplete (span : Fin 16) (s : State) : Result :=
  let d := s.deck span.val
  .next (if d.scrub.isEmpty || d.retraining.isSome then s else s.scrubDone span.val)

/-- A calibration step, where Table 10.6 lets one start: no foreground request of the channel waits, and it has been idle for
1 µs or the span's rings are all at holds or halted. A failing check triggers retraining. -/
def execCalibrationStep (span : Fin 16) (at_ : ChanAt) (checkOk : Bool) (s : State) : Result :=
  let d := s.deck span.val
  let ch := at_.ch.val
  let may := d.pow == .on && d.retraining != some ch && (s.waitingAt span.val ch).isEmpty &&
    (decide ((d.chan ch).last + 1000 ≤ at_.cycle) || s.spanQuiet span.val)
  let d : Deck := { d with now := max d.now at_.cycle }
  .next (if may then s.setDeck span.val (if checkOk then d else d.trigger ch) else s)

/-- Bus errors within 1 ms, more than `DK_RTTHR`, trigger retraining. -/
def execChannelRetrain (span : Fin 16) (ch : Fin 64) (errors : Nat) (s : State) : Result :=
  let d := s.deck span.val
  .next (if d.rtthr < errors then s.setDeck span.val (d.trigger ch.val) else s)

/-- The retraining has ended; what waited for the channel is written. -/
def execChannelRetrainDone (span : Fin 16) (s : State) : Result :=
  let d := s.deck span.val
  .next (if d.retraining.isSome && d.failing.isNone then (s.setDeck span.val d.nextRetrain).unstall else s)

/-- The channel in retraining goes offline; where another is offline already it stays out of service. -/
def execChannelOffline (span : Fin 16) (s : State) : Result :=
  let d := s.deck span.val
  .next (match d.retraining, d.offline with
    | some ch, none => (s.channelHalt span.val ch).settleChannel span.val
    | _, _ => s)

/-! ## Management of decks -/

/-- `SCRUB`: regions that no partition holds. -/
def execScrub (h : Mgmt) (regions : List (Nat × Nat)) (s : State) : Result :=
  .next (s.commandOwn h (fun s => !regions.any (fun x => (s.regionHolder x.1 x.2).isSome)) (fun s =>
    if regions.any (fun x => decide (16 ≤ x.1) || decide (256 ≤ x.2)) then s.rejectMsg h 0xFF stBounds
    else (s.startScrub regions).reply h stOk []))

/-- The reply of a repair order. -/
def State.repairReply (s : State) (h : Mgmt) (x : Nat × State) : State :=
  if x.1 = stOk then x.2.reply h stOk [] else s.rejectMsg h 0xFF x.1

def execDkRpcmdRemapRow (h : Mgmt) (span : Fin 16) (ch : Fin 64) (bank : Fin 16) (row : Fin 2048) (s : State) : Result :=
  .next (s.command h false false (fun s => s.repairReply h (s.repairRow span.val ch.val bank.val row.val)))

def execDkRpcmdReturnChannel (h : Mgmt) (span : Fin 16) (ch : Fin 64) (s : State) : Result :=
  .next (s.command h false false (fun s => s.repairReply h (s.repairChannel span.val ch.val)))

def execDkRpcmdReinstateRegion (h : Mgmt) (span : Fin 16) (region : Fin 256) (s : State) : Result :=
  .next (s.command h false false (fun s => s.repairReply h (s.repairRegion span.val region.val)))

end Sys2Proof.Machine
end

