-- ==== Sys2Proof/Machine/Holds.lean ====
section
/-! DEFINITION. Coasts, token posts and holds (R163 to R173, R194 to R198, R301). -/

namespace Sys2Proof.Machine

/-- `COAST` (R165): the next bundle issues COUNT ring cycles later. -/
def execCoast (i : Issue) (count : BitVec 24) (s : State) : Result :=
  s.slotOp i slotWhole (.coast i count) (fun t r => { r with tt := { r.tt with
    run := .coasting, coastEnd := t + count.toNat, nextCycle := t + count.toNat } })

/-- R165: the coast in progress ends; the ring is brought to the ring cycle of the next bundle. -/
def execCoastEnd (i : Issue) (s : State) : Result :=
  .next (s.atRing i.ring (fun r =>
    if r.awake && r.tt.run == .coasting then r.event i.ring (max i.cycle r.tt.coastEnd) (fun _ r => r) else r))

/-- `TPOST` (R194, R198): once in each cluster at cluster scope, once for the ring above it. -/
def execTpost (i : Issue) (scope : Scope) (name : Byte) (count : BitVec 16) (s : State) : Result :=
  s.slotOp i 7 (.tpost i scope name count) (fun t r => match scope with
    | .cluster => r.each (fun _ c => c.due t t 7 (.post name.toNat count.toNat))
    | sc => { r with posts := r.posts ++ [⟨sc, name.toNat, count.toNat, t, 5, 0, true⟩] })

/-- The ring's oldest post at span or device scope whose writes have all landed, and the ring without it. -/
def Ring.takePost (r : Ring) : Option (RingPost × Ring) :=
  match r.posts.find? (fun p => !p.isRing && r.covered p.issued) with
  | none => none
  | some p => some (p, { r with posts := r.posts.erase p })

/-- R198: posts at cluster and ring scope that are due by the given ring cycle are applied, and one at span or
device scope that is covered. -/
def execTokenPostApplied (i : Issue) (s : State) : Result :=
  let s := s.atRing i.ring (fun r => r.event i.ring i.cycle (fun _ r => r))
  match (s.ring i.ring).takePost with
  | some (p, r) => .next ((s.setRing i.ring r).postLate i.ring p.scope p.name p.count 5 (i.ring.val * 16))
  | none => .next s

/-- A hold bundle is reached (R168). -/
def State.holdOp (s : State) (i : Issue) (k : Nat) (c : Instr) (h : HoldKind) (f : Nat → Ring → Ring) : Result :=
  s.slotOp i k c (fun t r => f t (r.reach t h))

def execTwait (i : Issue) (scope : Scope) (name : Byte) (count : BitVec 16) (s : State) : Result :=
  s.holdOp i slotWhole (.twait i scope name count) (.twait scope name.toNat count.toNat) (fun _ r => r)

def execSwait (i : Issue) (mask : BitVec 4) (s : State) : Result := s.holdOp i slotWhole (.swait i mask) (.swait mask) (fun _ r => r)

/-- `LEG` (R166, R169): a leg neither held nor being staged is staged by the hold itself. -/
def execLeg (i : Issue) (target : BitVec 24) (s : State) : Result :=
  s.holdOp i slotWhole (.leg i target) (.leg target.toNat) (fun _ r => { r with tt := r.tt.stage (legOf target.toNat) })

/-- `END` (R170): arrays that are ON or RAMPUP are told to stop in this ring cycle. -/
def execEndHold (i : Issue) (s : State) : Result :=
  s.holdOp i slotWhole (.endHold i) .fin (fun t r => r.each (fun _ c =>
    if c.mx.st == .on || c.mx.st == .rampup then c.mstop t else c))

/-- The last result of the partition's global-norm group whose TDONE is the awaited name: register and value
(R301). -/
def State.normOf (s : State) (part name : Nat) : Option (Nat × Nat) :=
  (s.groups.find? (fun g => g.2.part == part && g.2.rcd.op == 3 && g.2.rcd.tdone == name)).map
    (fun g => (g.2.rcd.nreg, g.2.norm))

/-- A shared counter serves a ring: it gives up `n`, and serves no other ring of the partition, on the span for a span's
counter, in the ring cycle that one is in (R195). -/
def State.serveShared (s : State) (part ring : Nat) (sc : Scope) (name n : Nat) : State :=
  let p := s.part part
  let others := p.rings.filter (fun i => i != ring && (sc == .device || i / 16 == ring / 16))
  others.foldl (fun s i => s.setRing i ((s.ring i).passed sc name))
    (s.setPart part (p.setCounter (ring / 16) sc name (p.counter (ring / 16) sc name - n)))

/-- What the release of a hold takes from the partition and writes into the ring (Table 7.7, R195, R301). -/
def State.releaseShared (s : State) (ring : Nat) (k : HoldKind) : State :=
  match k, s.partOf ring with
  | .twait .span name n, some part => s.serveShared part ring .span name n
  | .twait .device name n, some part =>
    let s := s.serveShared part ring .device name n
    match s.normOf part name with
    | some (reg, v) => s.setRing ring ((s.ring ring).each (fun _ c =>
        { c with r := c.r.setS reg (BitVec.ofNat 64 v) }))
    | none => s
  | _, _ => s

/-- The counters a ring's holds see beyond its own, at the start of its present ring cycle (R194). -/
def State.sharedOf (s : State) (ring : Nat) (sc : Scope) (name : Nat) : Nat :=
  match s.partOf ring with
  | some part => (s.part part).counter (ring / 16) sc name - (s.ring ring).lateOf sc name
  | none => 0

/-- Whether the ring's hold is released in its present ring cycle: its condition holds at the start of it, no report has come and
the limit has not run out (R168, R172, R173). -/
def State.frees (s : State) (ring : Nat) : Bool :=
  let r := s.ring ring
  match r.tt.hold with
  | some h => r.awake && (r.tt.run == .hold) && !r.tt.report && !h.expired && decide (h.since ≤ r.now) &&
      decide (r.now < h.since + r.tt.limit) && r.mayTest h.kind && r.condition r.now (s.sharedOf ring) h.kind
  | none => false

/-- The next ring cycle, up to `c`, by which something that a hold condition looks at may have changed: work comes due, a pipe
falls idle, a ramp moves, a post of the present cycle is seen, or the next test may be made. -/
def Ring.nextChange (r : Ring) (c : Nat) : Nat :=
  let pipes := r.cl.flatMap (fun x => [x.vec.va, x.vec.vb, x.vec.vc, x.vec.ls, x.mx.rampNext])
  let dues := (r.nextDue.map (fun u => [u, u + 1])).getD []
  let posts := if r.late.1 = r.now ∨ r.gone.1 = r.now ∨ r.now < r.ended then [r.now + 1] else []
  ((pipes ++ dues ++ posts).filter (fun u => decide (r.now < u))).foldl min c

/-- The first ring cycle up to `c` in which the ring's hold is released, if there is one: the device brought to it. -/
def State.seekFree (ring c : Nat) : Nat → State → State
  | 0, s => s
  | n + 1, s =>
    if s.frees ring || decide (c ≤ (s.ring ring).now) then s
    else State.seekFree ring c n (s.atRing ring (fun r => r.event ring (r.nextChange c) (fun _ r => r)))

/-- R168: the hold is released in the first ring cycle, up to the given one, at whose start its condition holds. -/
def execHoldRelease (i : Issue) (s : State) : Result :=
  let s := State.seekFree i.ring i.cycle (i.cycle + 1) (s.atRing i.ring (fun r => r.event i.ring 0 (fun _ r => r)))
  let r := s.ring i.ring
  match r.tt.hold with
  | some h =>
    if s.frees i.ring then .next ((s.setRing i.ring (r.release r.now h.kind)).releaseShared i.ring h.kind)
    else .next s
  | none => .next s

/-- R172: a hold reached in ring cycle h whose condition has not held by h + LIMIT − 1 sets HOLDTIME in ring
cycle h + LIMIT, whatever ring cycle the command names. One that no ring cycle up to h + LIMIT − 1 has released has run out of
its limit once the ring is past it. -/
def execHoldLimitExpiry (i : Issue) (s : State) : Result :=
  match (s.ring i.ring).tt.hold with
  | none => .next s
  | some h =>
    let last := h.since + (s.ring i.ring).tt.limit - 1
    let s := State.seekFree i.ring last (last + 1) (s.atRing i.ring (fun r => r.event i.ring 0 (fun _ r => r)))
    let r := s.ring i.ring
    if r.awake && (r.tt.run == .hold) && !r.tt.report && !h.expired && !s.frees i.ring then
      .next (s.atRing i.ring (fun r => r.event i.ring (last + 1) (fun _ r =>
        ({ r with tt := { r.tt with hold := some { h with expired := true } } } : Ring).ttFault tfHoldtime none)))
    else .next s

/-- R171: the ring enters its start hold: timetable class selected, ENTRY's leg staged. Under a class-77 timetable a cluster
without a bypass presents class 77 too (R27). -/
def Ring.startHold (r : Ring) (t : Nat) (tt : Timetable) (narrow : Bool) : Ring :=
  let x := if r.tt.c77 = tt.c77 then r.tt
    else { r.tt with buf0 := ⟨0, false, []⟩, buf1 := ⟨0, false, []⟩, staging := false, c77 := tt.c77 }
  let x := x.stage (legOf tt.entry)
  { r with tt := { x with run := .hold, hold := some ⟨.start, t, false⟩, next := tt.entry } }.each
    (fun _ c => { c with mx := { c.mx with narrow := narrow && c.mx.bypass.isNone } })

/-- Whether an abandoned invocation of a partition still waits for its group verdict (R298). -/
def State.waitsVerdict (s : State) (part : Nat) : Bool :=
  s.groups.any (fun g => g.2.part == part && g.2.inv.any (fun x => (x.2.live && x.2.abandon) || x.2.owed))

/-- Whether a ring of a running step waits to be started; one that was woken under a halt goes to its start hold too (R400). -/
def State.startable (s : State) (part ring : Nat) : Bool :=
  let p := s.part part
  match p.stepJob, p.image with
  | some j, some im =>
    (p.st == .running) && !j.committed && !s.waitsVerdict part &&
      (im.targetRings (im.targetOf ring)).all (fun k => (s.ring k).awake) &&
      ((s.ring ring).tt.run == .halted) && !(s.ring ring).tt.ended && !(s.ring ring).tt.report
  | _, _ => false

/-- A ring whose step has been reported as faulted or halted stops at the hold it has reached (R173, R400). -/
def State.stopAtStart (s : State) (part ring : Nat) : State :=
  match (s.part part).stepJob with
  | some j => if j.faulted || j.halting then s.setRing ring (s.ring ring).receiveReport else s
  | none => s

/-- R171: a started ring's start hold. With no timetable of the target's class the step ends and the partition is
to be re-planned (R27). -/
def execStartHold (i : Issue) (s : State) : Result :=
  match s.partOf i.ring with
  | none => .next s
  | some part =>
    match (s.part part).image with
    | none => .next s
    | some im =>
      if !s.startable part i.ring then .next s
      else
        let target := im.targetOf i.ring
        let c77 := s.targetC77 im target
        let tt := if c77 then im.timetable target true
          else (im.timetable target false).or (im.timetable target true)
        match tt with
        | some x =>
          .next ((s.atRing i.ring (fun r => r.event i.ring i.cycle (fun t r => r.startHold t x x.c77))).stopAtStart part i.ring)
        | none =>
          .next ((s.onStep part (fun j => { j with
            faulted := true, prog := true, endCode := some stFaulted, replan := true })).reportAll part)

end Sys2Proof.Machine
end

