-- ==== Sys2Proof/Machine/PowerOps.lean ====
section
/-! DEFINITION. Resets, the boot, one-time keys and power steps as operations (R345, R349 to R355, R363, R394 to R410,
R422). -/

namespace Sys2Proof.Machine

/-! ## Resets (R407) -/

/-- Bits of `SB_RSTCAUSE` (R410). -/
def rstPor : Nat := 0x01
def rstPerst : Nat := 0x02
def rstSysRst : Nat := 0x04
def rstOrder : Nat := 0x08
def rstRefLoss : Nat := 0x10
def rstThermTrip : Nat := 0x20

/-- What a deck keeps: the repair record of its rows, pages, regions and channels. -/
def Deck.kept (d : Deck) : Deck :=
  { Deck.reset with
    remap := d.remap, spares := d.spares, poison := d.poison, retired := d.retired, withdrawn := d.withdrawn
    offline := d.offline }

/-- What a span keeps: its deck's repair record and the work counts, whose taps are always on (R374, R393). -/
def Span.kept (x : Span) : Span := { x with deck := x.deck.kept, unit := .reset }

/-- What an edge keeps: that it has failed (R273). -/
def Edge.kept (e : Edge) : Edge := if e.st = .failed then { Edge.reset with st := .failed } else .reset

/-- What the interlocking keeps: fuses, flash and non-volatile memory. -/
def Interlock.kept (x : Interlock) : Interlock :=
  { Interlock.reset with
    anchor := x.anchor, lc := x.lc, floor := x.floor, vkrev := x.vkrev, bootcnt := x.bootcnt, ceiling := x.ceiling
    flashA := x.flashA, flashB := x.flashB, mac := x.mac }

/-- Everything but AON, the meter, fuses, flash and non-volatile memory is at its reset value. -/
def State.cold (s : State) : State :=
  { State.reset with
    pending := s.pending
    spans := s.spans.map (fun p => (p.1, p.2.kept))
    edges := (s.edges.map (fun p => (p.1, p.2.kept))).filter (fun p => p.2 ≠ .reset)
    il := s.il.kept
    power := { Power.reset with
      rstcause := s.power.rstcause, tick := s.power.tick, refLost := s.power.refLost, tripped := s.power.tripped }
    meter := s.meter, tap := s.tap, lands := s.lands, i3c := s.i3c, repair := s.repair
    outbox := s.outbox, evseq := s.evseq, free := s.free }

/-- A device reset with its cause; after a thermal trip it is recorded as such (R404). What the test port holds it goes on
holding (R434). -/
def State.deviceReset (s : State) (cause : Nat) : State :=
  let c := s.cold
  ({ c with
    power := { c.power with
      rstcause := if s.power.tripped then rstThermTrip else cause
      tick := 0, tripped := false } } : State).driveTherm

/-- The power-on reset; the AON domain is reset too, and the spans' work counts with it. -/
def State.powerOn (s : State) : State :=
  let c := s.cold
  { c with
    spans := s.spans.map (fun p => (p.1, { Span.reset with deck := p.2.deck.kept }))
    lands := { c.lands with thermtrip := true, pwrok := true, perst := true, sysRst := true }
    i3c := State.reset.i3c, tap := .reset
    power := { Power.reset with rstcause := rstPor, refLost := s.power.refLost } }

/-! ## One-time keys (R354, R355) -/

/-- One-time keys of the identity key. -/
def lmsAll : Nat := 2 ^ 40

/-- Whether the next one-time key can be used. -/
inductive LmsNext where
  | ready | waits | exhausted
  deriving DecidableEq, Repr

def Interlock.lmsNext (x : Interlock) : LmsNext :=
  if lmsAll ≤ x.q then .exhausted
  else if x.q % 2 ^ 20 = 0 ∧ x.tree then .waits
  else .ready

/-- The next key is used: the ceiling is raised first where the value reaches it; a tree that comes into use starts the
generation of the next. -/
def Interlock.useLms (x : Interlock) : Interlock :=
  { x with
    q := x.q + 1
    ceiling := if x.ceiling ≤ x.q then min (x.ceiling + 65536) lmsAll else x.ceiling
    tree := x.tree || decide (x.q % 2 ^ 20 = 0) }

/-- `IL_STAT`.LMSLOW and LMSEXH. -/
def Interlock.lmsLow (x : Interlock) : Bool := decide (lmsAll - x.q < 2 ^ 32)
def Interlock.lmsExh (x : Interlock) : Bool := decide (lmsAll ≤ x.q)

/-- The interlocking makes one HSS signature; the operator is told when few values remain. -/
def State.useLms (s : State) : State :=
  let t : State := { s with il := s.il.useLms }
  if t.il.lmsLow && !s.il.lmsLow then t.notifyOperator 0xFF 355 0 else t

/-! ## The boot (R351, R352, Table 14.8) -/

/-- Step 3 of Table 14.8; a BLANK device boots a manufacturing image alone (Table 14.7). -/
def Interlock.verifies (x : Interlock) (im : FwImage) : Bool :=
  (x.lc != 0 || im.mfg) && !x.vkrev.testBit im.keySlot.val && im.keyHashOk && im.ecdsaOk && im.hssOk && decide (x.floor ≤ im.svn)

/-- The slot that boots: its image and whether it is slot B. -/
def Interlock.bootSlot (x : Interlock) (a b : FwImage) : Option (FwImage × Bool) :=
  if x.verifies a then some (a, false) else if x.verifies b then some (b, true) else none

/-- Step 6: decks and siding dies hold zeros, and nothing is poisoned. -/
def State.scrubAll (s : State) : State :=
  let s := (List.range 16).foldl (fun s k =>
    let d := s.deck k
    s.setDeck k { d with
      pow := .selfRefresh, poison := [], scrubbed := [], clean := List.range 256
      busy := (d.busy + d.regions * 2 ^ 18) % 2 ^ 64 }) s
  { s with mem := [], sidings := [] }

/-- A repair record that fails its authentication is set aside. -/
def State.dropRepairs (s : State) : State :=
  { s with
    repair := .reset
    spans := s.spans.map (fun p => (p.1, { p.2 with deck := Deck.reset })) }

/-- Steps 5 to 7 for an image that verified. A BLANK device runs the manufacturing image, which enters TEST, whose secret has the salt
of TEST (Table 14.7). DEDUCED (log
entry 57): the generation of the next bottom-level tree starts anew. -/
def State.bootWith (s : State) (im : FwImage) (b idCertOk repairOk : Bool) : State :=
  let blank := decide (s.il.lc = 0)
  let x : Interlock := { s.il with q := s.il.ceiling, bootq := s.il.ceiling }
  let secret := !blank && decide (s.il.lc ≠ 3)
  let signs := secret && idCertOk && !x.lmsExh
  let s := { s with il := { x with
    boot := .booted, bootlc := if blank then 1 else x.lc, attested := signs, svn := im.svn, meas := im.meas, slotB := b, tree := signs
    lc := if blank then 1 else x.lc
    bootcnt := satInc 32 x.bootcnt } }
  let s := if signs then s.useLms else s
  let s := if secret && !signs then s.notifyOperator 0xFF 352 0 else s
  let s := if x.lmsLow then s.notifyOperator 0xFF 355 0 else s
  let s := if repairOk then s else s.dropRepairs.notifyOperator 0xFF 352 1
  let s := s.scrubAll
  { s with power := { s.power with sbOn := true, cores := false } }

/-- The boot from t0 (R408). -/
def State.boot (s : State) (a b : FwImage) (idCertOk repairOk : Bool) : State :=
  let a := s.il.flashA.getD a
  let b := s.il.flashB.getD b
  let s := { s with
    lands := { s.lands with perst := true }
    il := { s.il with flashA := some a, flashB := some b } }
  match s.il.bootSlot a b with
  | some x => s.bootWith x.1 x.2 idCertOk repairOk
  | none => { s with il := { s.il with boot := .recovery }, power := { s.power with sbOn := true, cores := true } }

/-! ## The interlocking lock (R345, R420) -/

/-- A link's keys are erased, and a link that is up goes DOWN. -/
def Link.lock (l : Link) : Link :=
  { l with keys := false, key := [], rkey := [], own := [], fresh := false, out := [], buf := [], st := if l.st = .disabled then .disabled else .down }

/-- What a lock ends of a function: the IDE streams and the SPDM session (R345). -/
def Fn.lock (x : Fn) : Fn :=
  { x with ideKeys := [], ideAlt := none, ideActive := false, linkKeys := [], linkAlt := none, linkActive := false, spdm := false }

def State.lock (s : State) : State :=
  let s : State := { s with
    il := { s.il with locked := true, sessions := [none, none, none, none] }
    fns := s.fns.map (fun p => (p.1, p.2.lock))
    ports := s.ports.map (fun p => (p.1, { p.2 with h0 := p.2.h0.lock, h1 := p.2.h1.lock })) }
  let s := (List.range 64).foldl (fun s q => if (s.part q).st = .running then s.haltPart q [] else s) s
  let s := (s.aerError 0 22).note 0xFF nodeSb 345 0
  (List.range 64).foldl (fun s f => if s.fnExists f then s.msix f 2 else s) s

/-! ## The cap and the thermal steps (R401 to R404) -/

/-- The effective cap in W. -/
def Power.cap (p : Power) : Nat := min p.opcap p.bdcap

/-- The step of a span's rings. -/
def Power.spanStep (p : Power) (span : Nat) : Nat := max p.step (p.therm.getD span ⟨0, 0⟩).step

/-- Caps range from 1,000 W to 3,600 W. -/
def capOk (v : Nat) : Bool := decide (1000 ≤ v) && decide (v ≤ 3600)

/-- One comparison of the mean power with the effective cap (R402). -/
def Power.evaluate (p : Power) (mw : Nat) : Power :=
  let over_ := decide (p.cap * 1000 < mw)
  let low := if mw * 100 < p.cap * 1000 * 97 then p.low + 1 else 0
  let step := if over_ then min 12 (p.step + 1) else if low = 4 then p.step - 1 else p.step
  { p with
    power := mw / 1000, capsat := over_ && decide (p.step = 12)
    low := if low = 4 then 0 else low, step := step
    capsrc := if step = 0 then 0 else if p.opcap ≤ p.bdcap then 1 else 2 }

/-- One evaluation of a span's thermal step (R404); whether it is at step 12 and heats further. -/
def Therm.evaluate (t : Therm) (die deck : Nat) : Therm × Bool :=
  let hot := decide (100 < die) || decide (92 < deck)
  let cool := if die < 97 ∧ deck < 89 then t.cool + 1 else 0
  if hot then (⟨min 12 (t.step + 1), 0⟩, decide (t.step = 12))
  else if cool = 4 then (⟨t.step - 1, 0⟩, false)
  else (⟨t.step, cool⟩, false)

def maxOf (l : List Nat) : Nat := l.foldl max 0

/-- The power manager's evaluation: `mw` the mean power in mW, `dies` and `decks` the temperatures in °C, of the
dies by their numbers 0 to 22: the span dies act on the steps, the others are reported (R430). -/
def State.evaluatePower (s : State) (mw : Nat) (dies decks : List Nat) : State :=
  let p := s.power.evaluate mw
  let ts := ((List.range 16).zip p.therm).map (fun x => x.2.evaluate (dies.getD x.1 0) (decks.getD x.1 0))
  let hot := ts.any (·.2)
  let p : Power := { p with
    therm := ts.map (·.1), thermFlag := hot, hotDie := maxOf (dies.take 16), hotDeck := maxOf (decks.take 16)
    others := (List.range 7).map (fun k => dies.getD (16 + k) 0) }
  let rise (was now : Bool) (why : Nat) (s : State) : State :=
    if now && !was then (s.notifyOperator 0xFF why 0).emit (.ibi 1) else s
  rise s.power.thermFlag hot 404 (rise s.power.capsat p.capsat 402 { s with power := p })

/-! ## Rings (R394, R399) -/

/-- R394: whether a ring may be put to sleep. -/
def State.maySleep (s : State) (ring : Nat) : Bool :=
  (s.ring ring).awake && match s.partOf ring with
    | none => true
    | some q =>
      let p := s.part q
      decide (s.power.ringidle ≠ 0) && ((p.st == .empty) || (p.st == .ready) || (p.st == .replan))

/-- R399: whether a ring is being woken: its partition runs a step that can still reach its commit, or repeats it. -/
def State.mayWake (s : State) (ring : Nat) : Bool :=
  !(s.ring ring).awake && match s.partOf ring with
    | none => false
    | some q => ((s.part q).st == .running) && s.stepOpen q

/-- A ring is usable: registers at their power-up values, what the signal box writes into its clusters, the schedule
copy's source (R31, R98, R175, R207, R323). -/
def State.powerRing (s : State) (im : Option Image) (ring : Nat) : State :=
  let wakes := (s.ring ring).wakes + 1
  let cl := (List.range 16).map (fun k => s.loadCluster im ring k)
  let scheds := match im with
    | some im => (im.schedsOf ring).foldl (fun a x => a ||| 2 ^ x.id) 0
    | none => 0
  let t := match im with
    | some im => s.targetC77 im (im.targetOf ring)
    | none => false
  s.setRing ring { Ring.reset with
    awake := true, wakes := wakes, cl := cl, tr := { Trestle.reset with image := scheds }
    tt := { RingTt.reset with c77 := t } }

/-- A retirement at a wake ends the step (R328). -/
def State.lostRing (s : State) (part ring : Nat) : State :=
  let s := s.retireRing ring
  (s.onStep part (fun j => { j with faulted := true, prog := true, replan := true })).reportAll part

/-- A spare that takes a cluster's place at a wake faults the step, which is repeated after its recovery (R326). -/
def State.wakeFault (s : State) (part ring : Nat) : State :=
  let slot := Tab.get 0 s.repair.spare ring - 1
  if s.stepOpen part then
    (s.onStep part (fun j => { j with faulted := true, faults := j.faults ++ [(ring, slot, .wakeTest slot)] })).reportAll part
  else s

/-- The wake of a ring, with the findings of its self-tests by physical slot (R95, R244, R399, R400). -/
def State.wakeRing (s : State) (part ring : Nat) (tests : List (Nat × SelfTest)) : State :=
  let was := s.c77Targets part
  let s := s.fabricOn
  let s := if (s.deck (ring / 16)).pow = .selfRefresh ∧ s.granted (ring / 16) then s.deckOn (ring / 16) else s
  let im := (s.part part).image
  let t := s.handleFindings im ring tests
  let filled := Tab.get 0 t.2.repair.spare ring != Tab.get 0 s.repair.spare ring
  let s := if t.1 then t.2.lostRing part ring else t.2.powerRing im ring
  let s := if filled && !t.1 then (s.wakeFault part ring).toAnchors part else s
  s.tellClasses part was

/-! ## Shared domains (R395) -/

/-- Whether the fabric has nothing to do: every ring asleep, nothing in flight or pending, a restore's transfer among it. -/
def State.fabricIdle (s : State) : Bool :=
  s.rings.all (fun r => !r.2.awake) && s.groups.all (fun g => g.2.inv.all (fun x => !x.2.live)) &&
    s.parts.all (fun p => p.2.drains.isEmpty && p.2.ckpt.isNone && (match p.2.job with
      | .restore _ => false
      | _ => true)) && s.stalled.isEmpty && s.colls.isEmpty &&
    s.sidings.all (fun x => x.2.waiting.isEmpty) && s.edges.all (fun e => e.2.held.isEmpty) &&
    s.spans.all (fun x => x.2.deck.scrub.isEmpty && x.2.deck.chans.all (fun c => c.2.wbuf.isEmpty))

/-- A deck when the uncores turn off. -/
def State.restDeck (s : State) (span : Nat) : State :=
  let d := s.deck span
  if d.pow ≠ .on ∧ d.pow ≠ .selfRefresh then s
  else if s.power.deckoff && !s.granted span then s.setDeck span { d with pow := .off, clean := [] }
  else s.setDeck span { d with pow := .selfRefresh }

def State.fabricOff (s : State) : State :=
  let s := (List.range 16).foldl (fun s k => s.restDeck k) s
  { s with
    power := { s.power with unc := false }
    edges := (s.edges.map (fun p => (p.1, p.2.kept))).filter (fun p => p.2 ≠ .reset) }

/-- Whether an order stands POSTED in a function's order book. -/
def State.anyPosted (s : State) : Bool :=
  s.fns.any (fun f => (List.range 64).any (fun k => s.slotState f.1 k == 1))

end Sys2Proof.Machine
end

