-- ==== Sys2Proof/Machine/StepOps.lean ====
section
/-! DEFINITION. Recovery of a step, its commit, checkpoints and restores as operations (R28, R91, R203, R305 to R309,
R314 to R328, R436). -/

namespace Sys2Proof.Machine

/-- The anchor takes the live values (R324). -/
def SrStream.anchor (x : SrStream) : SrStream := { x with astep := x.step, adraw := x.draw, acursor := x.cursor }

/-! ## Fault reports (R22, R23, R28, R308, R341) -/

/-- Register of a cause, as the event log names it. -/
def Cause.reg : Cause → Nat
  | .program r => r
  | .colchk _ => 0x0504
  | .lsMem _ => 0x0E00
  | .streamMem _ => 0x0C04
  | .trestleMem _ => 0x10008
  | .wakeTest _ => 326

/-- Cause bits that a fault register of a ring or of one of its clusters holds. -/
def Ring.faultBits (r : Ring) (slot reg : Nat) : Nat :=
  let c := r.get slot
  match reg with
  | 0x0308 => r.tt.fault.toNat
  | 0x0504 => c.mx.fault.toNat
  | 0x0604 => c.vec.fault.toNat
  | 0x0C04 => c.stf.bits.toNat
  | 0x0E00 => c.ls.fault.toNat
  | _ => r.tr.fault.toNat

/-- Take the causes that a ring has raised: its status block, the event log, and the step in progress. -/
def State.takeCauses (s : State) (part ring : Nat) : State :=
  let r := s.ring ring
  let cs := r.causes
  if cs.isEmpty then s
  else
    let r' : Ring := { r.each (fun _ c => { c with flt := [] }) with flt := [] }
    let s := cs.foldl (fun s c => s.note part ring c.2.reg (r.faultBits c.1 c.2.reg)) (s.setRing ring r')
    s.onStep part (fun j =>
      if j.committed then j
      else { j with
        faulted := true, prog := j.prog || cs.any (fun c => c.2.isProgram)
        faults := j.faults ++ (cs.filter (fun c => !c.2.isProgram)).map (fun c => (ring, c.1, c.2)) })

/-! ## Recovery (R91, R203, R234) -/

/-- Bytes of one line are written at an offset of a cluster's window, in the first ring cycle after the present one that leaves
the line's bank unused (R238, R243); `fuel` bounds the search. -/
def State.lineWrite (g o : Nat) (bs : List Byte) : Nat → State → State
  | 0, s => s
  | fuel + 1, s =>
    let s := s.atRing (g / 16) (fun r => r.event (g / 16) (r.now + 1) (fun t r => r.finish (g / 16) t))
    let r := s.ring (g / 16)
    let c := s.cluster g
    if (c.claimed r.now).contains (bankOf (lineOf o)) then State.lineWrite g o bs fuel s
    else s.setCluster g (c.freeWrite ⟨g / 16, r.wakes, r.now, 16 + g % 16, []⟩ o 0 bs)

/-- Bytes are written at an offset of a cluster's window, a line in a ring cycle. What is due in a ring that has stopped comes to an
end, so a bank is claimed in a bounded number of ring cycles. -/
def State.windowWrite (s : State) (g o : Nat) (bs : List Byte) : State :=
  (lineCuts o bs).foldl (fun s x => if (s.ring (g / 16)).awake then State.lineWrite g x.1 x.2 65536 s else s) s

/-- A stream's write whose data has left the local store completes whole (R187); a line it writes takes a new check code
(R238). Where the journal lets it write nothing, the restore that follows would undo it. -/
def State.flushJob (s : State) (part : Nat) (j : Job) : State :=
  if !j.out || j.buf.isEmpty then s
  else match windowOf (j.far + j.put) with
  | none => (s.engineWrite none part (j.far + j.put) j.jr j.buf).2
  | some (g, o) =>
    -- data that passes the end of a window goes on in the next cluster's
    (s.windowWrite g o (j.buf.take (lsSize - o))).windowWrite (g + 1) 0 (j.buf.drop (lsSize - o))

def State.flushRing (s : State) (part ring : Nat) : State :=
  (s.ring ring).cl.foldl (fun s c => c.eng.foldl (fun s e => e.halt.jobs.foldl (fun s j => s.flushJob part j) s) s) s

/-- The array is OFF, both banks are invalid, the batcher is empty, VL is 0 and no pipe is busy (R91, R128); what was due is
ended. -/
def Cluster.recovered (c : Cluster) (now : Nat) : Cluster :=
  { c with
    r := { c.r with vl := 0 }
    vec := { c.vec with va := 0, vb := 0, vc := 0, ls := 0, ka := 0, kb := 0, busy := c.vec.busy - (c.vec.busyTo - now), busyTo := 0 }
    eng := c.eng.map StreamEng.clear, xfers := List.replicate 16 none, xq := [], tok := [], agenda := []
    subs := [], optw := none, flt := [], fresh := false, posted := []
    mx := { c.mx with st := .off, step := 0, front := .empty, shadow := .empty, load := none, loading := false }
    bat := { c.bat with queue := [], running := [] } }

def Ring.recovered (r : Ring) : Ring :=
  { r.each (fun _ c => c.recovered r.now) with
    tok := [], posts := [], posted := [], fresh := false, optph := false, flt := [], tr := r.tr.stop
    tt := { r.tt with run := .halted, hold := none, report := false, ended := false } }

/-- Steps 1, 3 and 4 of R203; the optimizer phase ends (R306). -/
def State.recoverUnits (s : State) (part : Nat) : State :=
  let p := s.part part
  let s := p.rings.foldl (fun s i => s.flushRing part i) s
  let s := p.rings.foldl (fun s i => if (s.ring i).awake then s.setRing i (s.ring i).recovered else s) s
  s.setPart part { s.part part with spanTok := [], devTok := [], faces := [], opt := false }

/-- Invocations in flight are abandoned (R298); a global norm's last result is cleared (R301). -/
def State.recoverGroups (s : State) (part : Nat) : State :=
  (s.groups.filter (fun g => g.2.part == part)).foldl (fun s g =>
    let s := g.2.liveIn.foldl (fun s x => s.abandon g.1 x.1) s
    match s.group g.1 with
    | some y => s.setGroup g.1 { y with norm := 0 }
    | none => s) s

/-! ## Self-tests of a halted partition (R95, R244, R326 to R328) -/

/-- Findings of one ring, by physical slot. -/
def State.findingsOf (s : State) (ring : Nat) (tests : List (Fin 4096 × SelfTest)) : List (Nat × SelfTest) :=
  (tests.filter (fun t => t.1.val / 16 == ring)).map (fun t => (s.physOf ring (t.1.val % 16), t.2))

/-- The findings are acted on; answers whether a ring was retired. -/
def State.runTests (s : State) (part : Nat) (tests : List (Fin 4096 × SelfTest)) : Bool × State :=
  (s.part part).rings.foldl (fun acc ring =>
    match acc.2.handleFindings (acc.2.part part).image ring (acc.2.findingsOf ring tests) with
    | (true, s) => (true, s.retireRing ring)
    | (false, s) => (acc.1, s)) (false, s)

/-- Whether a step's faults tell of a spare that took a cluster's place at a wake. -/
def StepJob.filled (j : StepJob) : Bool :=
  j.faults.any (fun x => match x.2.2 with
    | .wakeTest _ => true
    | _ => false)

/-- The streams after self-tests that began at `was`: a spare substitution, here or at a wake of the step, sets each to its anchor
(R324, R326). -/
def State.anchorSpare (s : State) (part : Nat) (was : Repair) : State :=
  let filled : Bool := match (s.part part).stepJob with
    | some j => j.filled
    | none => false
  if (s.repair.spare == was.spare) && !filled then s else s.toAnchors part

/-! ## The outcome of a recovery (Table 13.6, R436) -/

inductive Recover where
  | ends (code : Nat) (replan : Bool) (page : Option Nat)
  | repeats
  deriving DecidableEq, Repr

def StepJob.outcome (j : StepJob) (badJournal lost untaken : Bool) : Recover :=
  let again (l m : List Nat) : Option Nat := l.find? (fun x => m.contains x)
  if badJournal then .ends stRestore true none
  else if lost || untaken || j.replan then .ends stFaulted true none
  else if j.prog || j.halting then .ends (j.endCode.getD stFaulted) false none
  else if (again j.digests j.lastDigests).isSome then .ends stPoisoned false none
  else match again j.pages j.lastPages with
  | some g => .ends stFaulted false (some g)
  | none => if !j.faults.isEmpty && decide (3 ≤ j.repeats) then .ends stFaulted false none else .repeats

/-- The same step again, under the same order. -/
def StepJob.again (j : StepJob) : StepJob :=
  { j with
    repeats := (if j.faults.isEmpty then j.repeats else j.repeats + 1), faulted := false, faults := []
    digests := [], lastDigests := j.digests, oldDigests := j.lastDigests, pages := [], lastPages := j.pages.foldl (fun l g => setIns g l) j.lastPages }

/-- Recovery of a step whose rings stand still, up to its outcome; answers whether a ring was retired and whether a journal entry was uncorrectable. Self-tests follow hardware
faults alone (R179, R436). The journal's uncorrectable entries are those among all that the faulted attempt made, the writes that
recovery itself brings to an end included. -/
def State.recoverMid (s : State) (part : Nat) (tests : List (Fin 4096 × SelfTest)) (bad : List (Fin 2 × Nat)) :
    Bool × Bool × State :=
  let was := s.c77Targets part
  let u := ((s.part part).rings.foldl (fun s i => s.takeCauses part i) s).recoverUnits part
  let s := (u.journalRestore part bad).recoverGroups part
  let hw := match (s.part part).stepJob with
    | some j => !j.faults.isEmpty
    | none => false
  let t := if hw then s.runTests part tests else (false, s)
  (t.1, u.journalBad part bad, (t.2.tellClasses part was).anchorSpare part s.repair)

/-- The step ends, or the partition repeats it (Table 13.6). -/
def State.recoverEnd (s : State) (part : Nat) : Recover → State
  | .ends code replan page =>
    (match page with
      | some g => s.notify part 7 (s.nameAddr part g)
      | none => s).endStep part code replan
  | .repeats => (s.onStep part StepJob.again).toAnchors part

/-- Recovery of a step whose rings stand still. -/
def State.recoverStep (s : State) (part : Nat) (tests : List (Fin 4096 × SelfTest)) (bad : List (Fin 2 × Nat)) : State :=
  let m := s.recoverMid part tests bad
  match (m.2.2.part part).stepJob with
  | none => m.2.2
  | some j => m.2.2.recoverEnd part (j.outcome m.2.1 m.1 (m.2.2.untaken part))

/-- Faults reported outside a step are handled while the partition is READY (R308). A spare's fill recovers the partition's
engines and tokens (R203). A retirement during a load or the end of a tenancy leaves that to end; where it returns to the state
it came from, that is REPLAN (R328). -/
def State.recoverLate (s : State) (part : Nat) (tests : List (Fin 4096 × SelfTest)) : State :=
  let was := s.c77Targets part
  let t := s.runTests part tests
  let filled := t.2.repair.spare != s.repair.spare
  let s := (t.2.tellClasses part was).anchorSpare part s.repair
  let idle := (s.part part).st == .ready || (s.part part).st == .replan
  let s := if filled && idle then (s.recoverUnits part).recoverGroups part else s
  let s := if t.1 then s.onStep part (fun j => { j with replan := true }) else s
  let p := s.part part
  s.setPart part { p with
    handling := false, st := if t.1 && idle then .replan else p.st, came := if t.1 then .replan else p.came }

/-! ## Checkpoints (R315 to R320) -/

/-- The bytes of one stream's registers, in their layout. -/
def SrStream.bytes (x : SrStream) : List Byte := (List.range 16).flatMap (fun w => toLe 4 (x.word w))

/-- The measurement of a partition's image; zeros where it has none. -/
def Partition.meas (p : Partition) : List Byte :=
  match p.image with
  | some im => im.meas
  | none => List.replicate 48 0

/-- The device state record: STEPNO at 0, the measurement at 8, the cluster count at 56 (R317). -/
def State.stateRecord (s : State) (part : Nat) : List Byte :=
  let p := s.part part
  toLe 8 p.stepno ++ slice p.meas 0 48 ++ toLe 4 p.clusters.length ++ [0, 0, 0, 0] ++
    p.clusters.flatMap (fun g => (s.liveSr g).flatMap SrStream.bytes)

/-- A manifest (Table 13.3). -/
def Ckpt.manifestBytes (ck : Ckpt) (st cause fext rdig : Nat) (meas : List Byte) (xdig : List Nat) : List Byte :=
  ascii "CKMF" ++ [BitVec.ofNat 8 st, BitVec.ofNat 8 cause] ++ toLe 2 fext ++ toLe 8 ck.serial ++ toLe 8 ck.stepno ++
    (List.range 4).map (fun d => match ck.dests[d]? with
      | some x => BitVec.ofNat 8 x.state
      | none => 0) ++ [0, 0, 0, 0] ++ slice meas 0 48 ++ toLe 8 rdig ++ List.replicate 40 0 ++
    xdig.flatMap (toLe 8)

def Ckpt.manifestLen (ck : Ckpt) : Nat := 128 + 8 * ck.exts.length

/-- One destination of a descriptor, if it checks (Table 13.1). -/
def parseDest (b : List Byte) : Option CkDest :=
  let zero (o n : Nat) : Bool := leAt b o n == 0
  match leAt b 0 1 with
  | 0 => if zero 1 7 && zero 16 16 then some ⟨false, leAt b 8 8, 0, 0, 0, 0, 0⟩ else none
  | 1 =>
    let p0 := leAt b 6 1
    let p1 := leAt b 7 1
    let port (p : Nat) : Bool := decide (p < 16) || decide (p = 0xFF)
    if zero 1 1 && zero 8 24 && port p0 && port p1 then
      some ⟨true, 0, leAt b 2 2, leAt b 4 2, p0, p1, 0⟩ else none
  | _ => none

/-- All of a list's values, or none. -/
def allSome {α : Type} : List (Option α) → Option (List α)
  | [] => some []
  | none :: _ => none
  | some x :: l => (allSome l).map (fun xs => x :: xs)

/-- The signal box reads a piece of a descriptor; none where its deck is not reached either. -/
def State.readDesc (s : State) (part addr n : Nat) : Option (List Byte) :=
  if s.boxMaps part addr n false then s.readPart part addr n else none

/-- Bytes of a descriptor, as far as its head can be read (Table 13.1). -/
def State.descLen (s : State) (part addr : Nat) : Nat :=
  match s.readDesc part addr 64 with
  | none => 64
  | some h => 64 + 32 * leAt h 6 1 + 16 * leAt h 4 2

/-- The checkpoint that a descriptor names, if it breaks no rule (R316). -/
def State.parseCkpt (s : State) (part addr : Nat) : Option Ckpt :=
  match s.readDesc part addr 64 with
  | none => none
  | some h =>
    let next := leAt h 4 2
    let nd := leAt h 6 1
    let kind := leAt h 7 1
    if addr % 64 ≠ 0 ∨ slice h 0 4 ≠ ascii "CKPT" ∨ next = 0 ∨ 1024 < next ∨ nd = 0 ∨ 4 < nd ∨ 1 < kind ∨
        leAt h 24 40 ≠ 0 then none
    else match s.readDesc part (addr + 64) (32 * nd + 16 * next) with
    | none => none
    | some t =>
      match allSome ((List.range nd).map (fun d => parseDest (slice t (32 * d) 32))) with
      | none => none
      | some ds =>
        let exts := (List.range next).map (fun e => (leAt t (32 * nd + 16 * e) 8, leAt t (32 * nd + 16 * e + 8) 8))
        let gids : List Nat := match (s.part part).image with
          | some im => im.groups.map GroupRec.gid
          | none => []
        let man := leAt h 16 8
        let ok := exts.all (fun x => decide (x.1 % 65536 = 0 ∧ x.2 % 65536 = 0 ∧ 0 < x.2) && s.maps part x.1 x.2 false)
          && ds.all (fun d => !d.buddy || gids.contains d.gid)
          && s.boxMaps part man (128 + 8 * next) true
        if ok then some
          { serial := leAt h 8 8, snapshot := decide (kind = 1), manifest := man, dests := ds, exts := exts
            record := [], stepno := (s.part part).stepno, bytes := 0, staged := false }
        else none

/-- A descriptor that fails at once: its manifest, if writable, reads FAILED with cause FORMAT. -/
def State.badCkpt (s : State) (part addr : Nat) : State :=
  match s.readDesc part addr 64 with
  | none => s
  | some h =>
    let man := leAt h 16 8
    if s.boxMaps part man 128 true then
      let ck : Ckpt := ⟨leAt h 8 8, false, man, [], [], [], (s.part part).stepno, 0, false⟩
      s.writePart part man (ck.manifestBytes mfFailed 1 0xFFFF 0 (s.part part).meas [])
    else s

/-- The stop begins: the state record is captured and the manifest reads CAPTURING (R315, R317). -/
def State.beginStop (s : State) (part addr : Nat) : State :=
  let s := s.fetchPart part addr (s.descLen part addr)
  match s.parseCkpt part addr with
  | none => (s.badCkpt part addr).endStep part stOk false
  | some ck =>
    let ck := { ck with record := if ck.snapshot then [] else s.stateRecord part }
    let s := s.writePart part ck.manifest (ck.manifestBytes mfCapturing 0 0xFFFF 0 (s.part part).meas
      (ck.exts.map (fun _ => 0)))
    s.setPart part { s.part part with ckpt := some ck }

/-- Staged bytes of a partition, as its draining checkpoints hold them, in the free blocks of the two siding dies: half on
each as far as it has room (R313, R317, R319). -/
def State.restage (s : State) (part : Nat) : State :=
  let n := (s.part part).drains.foldl (fun a ck => a + ck.bytes) 0
  let room (k : Nat) : Nat :=
    let x := s.siding k
    ({ x with staged := Tab.del part x.staged } : Siding).free * blockBytes
  let m := max (n - room 1) (min (ceilDiv n 2) (room 0))
  let put (s : State) (k m : Nat) : State :=
    let x := s.siding k
    s.setSiding k { x with staged := if m = 0 then Tab.del part x.staged else Tab.ins part m x.staged }
  put (put s 0 m) 1 (n - m)

/-- Bulk frames of a buddy destination carry the copy and then its manifest (Table 13.2), which ends with a frame of fewer than
1,024 bytes, one of 64 zero bytes after it where need be: by it the receiver knows the manifest's end (log entry 82). -/
def State.sendCopy (s : State) (g : GroupRec) (d : CkDest) (ser : Nat) (copy manifest : List Byte) : State :=
  let send (kind : Nat) (s : State) (x : Nat × List Byte) : State :=
    let second := decide (d.port1 ≠ 0xFF) && (decide (d.port0 = 0xFF) || decide (x.1 / 1024 % 2 = 1))
    s.queueFrame (if second then d.port1 else d.port0) false .bulk
      { cls := 2, seq := 0, ack := 0, offset := x.1, data := x.2
        gtag := BitVec.ofNat 64 (g.tagbase * 2 ^ 40 + kind * 2 ^ 38 + g.mypos * 2 ^ 26 + ser % 65536 * 2 ^ 10) }
  let n := roundUp manifest.length 64
  let last : List (Nat × List Byte) := if n % 1024 = 0 then [(n, List.replicate 64 0)] else []
  (framesOf manifest ++ last).foldl (send 1) ((framesOf copy).foldl (send 0) s)

/-- One destination takes the copy, or fails (R320, R365). -/
def State.ship (s : State) (part : Nat) (ck : Ckpt) (copy manifest : List Byte) (d : CkDest) : CkDest × State :=
  if d.buddy then
    let links := [d.port0, d.port1].filter (fun p => decide (p < 16))
    let up := !links.isEmpty && links.all (fun p => (s.link p false).st != .failed)
    match (match (s.part part).image with
      | some im => im.groups.find? (fun g => g.gid == d.gid)
      | none => none) with
    | some g => if up then (d, s.sendCopy g d ck.serial copy manifest) else ({ d with state := 2 }, s)
    | none => ({ d with state := 2 }, s)
  else match (s.part part).vf with
  | some f =>
    if s.ideBars f part then ({ d with state := 2 }, s)
    else (d, (s.emit (.host f d.base copy (s.via f))).emit (.host f (d.base + copy.length) manifest (s.via f)))
  | none => ({ d with state := 2 }, s)

def State.shipAll (s : State) (part : Nat) (ck : Ckpt) (copy manifest : List Byte) : List CkDest → List CkDest × State
  | [] => ([], s)
  | d :: ds =>
    let x := s.ship part ck copy manifest d
    let y := State.shipAll x.2 part ck copy manifest ds
    (x.1 :: y.1, y.2)

/-- The extents of a capture, or the first that cannot be read, or that the siding die of its deck does not reach (R273). -/
def State.readExts (s : State) (part : Nat) : Nat → List (Nat × Nat) → Except Nat (List (List Byte))
  | _, [] => .ok []
  | k, x :: xs =>
    match if (entryStarts x.1 x.2).all (fun a => s.sidingUp (a / 2 ^ 32)) then s.readPart part x.1 x.2 else none with
    | none => .error k
    | some b => match State.readExts s part (k + 1) xs with
      | .error e => .error e
      | .ok bs => .ok (b :: bs)

/-- Destinations still pending; destinations that have failed. -/
def Ckpt.pending (ck : Ckpt) : Bool := ck.dests.any (fun d => d.state == 0)
def Ckpt.allFailed (ck : Ckpt) : Bool := ck.dests.all (fun d => d.state == 2)

/-- A drain after a destination has changed its state: its manifest, and the end of the drain (R319, R320); `older` and `newer`
are the drains begun before and after it. -/
def State.drainStep (s : State) (part : Nat) (older : List Ckpt) (ck : Ckpt) (newer : List Ckpt) : State :=
  let dst := ck.dests.map (fun d => BitVec.ofNat 8 d.state)
  let s := s.writePart part (ck.manifest + 24) dst
  let ended (s : State) : State := (s.setPart part { s.part part with drains := older ++ newer }).restage part
  if ck.allFailed then ended (s.manifestState part ck.manifest mfFailed 4 0xFFFF)
  else if ck.pending then s.setPart part { s.part part with drains := older ++ ck :: newer }
  else if ck.dests.all (fun d => d.state == 1) then ended (s.manifestState part ck.manifest mfComplete 0 0xFFFF)
  else ended s

/-- Whether a destination is pending on a link of a port. -/
def CkDest.waitsOn (d : CkDest) (port : Nat) : Bool := d.buddy && d.state == 0 && (d.port0 == port || d.port1 == port)

/-- The destinations of a partition's drains that a port's failed link was to serve have failed (R320); `fuel` bounds the drains. -/
def State.failDrains (part port : Nat) : Nat → State → State
  | 0, s => s
  | fuel + 1, s =>
    let busy (ck : Ckpt) : Bool := ck.dests.any (fun d => d.waitsOn port)
    let l := (s.part part).drains
    match l.dropWhile (fun ck => !busy ck) with
    | [] => s
    | ck :: newer =>
      State.failDrains part port fuel (s.drainStep part (l.takeWhile (fun ck => !busy ck))
        { ck with dests := ck.dests.map (fun d => if d.waitsOn port then { d with state := 2 } else d) } newer)

/-- A link that copies drain over has entered FAILED. -/
def State.failPort (s : State) (port : Nat) : State :=
  s.parts.foldl (fun s p => State.failDrains p.1 port p.2.drains.length s) s

/-- Capture ends (R317 to R320): the manifest is STAGED, the copy goes to its destinations, and the step order
completes. The manifest that travels with the copy says COMPLETE. -/
def State.endStop (s : State) (part : Nat) (ck : Ckpt) (bad : Option Nat) : State :=
  let got : Except Nat (List (List Byte)) := match bad with
    | some e => .error e
    | none => s.readExts part 0 ck.exts
  match got with
  | .error e => (s.failCkpt part 2 e).endStep part stOk false
  | .ok bs =>
    let xdig := bs.map crc64
    let rdig := if ck.snapshot then 0 else crc64 ck.record
    let meas := (s.part part).meas
    let copy := ck.record ++ bs.flatten
    let s := ck.exts.foldl (fun s x => s.fetchPart part x.1 x.2) s
    let free := ((s.siding 0).free + (s.siding 1).free) * blockBytes
    let ck := { ck with bytes := min copy.length free, staged := true }
    let y := s.shipAll part ck copy (ck.manifestBytes mfComplete 0 0xFFFF rdig meas xdig) ck.dests
    let ck := { ck with dests := y.1 }
    let s := y.2.writePart part ck.manifest (ck.manifestBytes mfStaged 0 0xFFFF rdig meas xdig)
    let p := s.part part
    let s := (s.setPart part { p with ckpt := none, drains := p.drains ++ [ck] }).restage part
    let s := if ck.pending then s else s.drainStep part (s.part part).drains.dropLast ck []
    s.endStep part stOk false

/-! ## Restores (R321, R322, R325) -/

/-- What a copy holds: record, extents, manifest. -/
structure CopyParts where
  record : List Byte
  exts : List (List Byte)
  manifest : List Byte
  deriving DecidableEq, Repr

/-- Cut bytes into pieces of given lengths. -/
def cutLens : List Byte → List Nat → List (List Byte)
  | _, [] => []
  | b, n :: ns => slice b 0 n :: cutLens (b.drop n) ns

/-- Cut a copy by its extent lengths: the manifest lies last; a RDIG of 0 says that there is no record. -/
def cutCopy (data manifest : List Byte) (lens : List Nat) : CopyParts :=
  let total := lens.foldl (· + ·) 0
  let rlen := if leAt manifest 80 8 = 0 then 0 else data.length - total
  ⟨data.take rlen, cutLens (data.drop rlen) lens, manifest⟩

/-- How far a stream stands ahead of its anchor: draws, from the start of the live step where that is a later one, and above bit 64
steps, above bit 96 the cursor's distance (log entry 42). -/
def SrStream.distance (x : SrStream) : Nat :=
  (if x.step = x.astep then x.draw - x.adraw else x.draw) + 2 ^ 64 * (x.step - x.astep) + 2 ^ 96 * (x.cursor - x.acursor)

/-- The outcome of one stream under Table 13.4. -/
inductive SrRule where
  | asRecorded | rewound (by_ : Nat) | behind
  deriving DecidableEq, Repr

def lexLt (a b : Nat × Nat) : Bool := decide (a.1 < b.1) || (decide (a.1 = b.1) && decide (a.2 < b.2))

def SrStream.rule (x : SrStream) : SrRule :=
  let live := (x.step, x.draw)
  let anc := (x.astep, x.adraw)
  if lexLt live anc || decide (x.cursor < x.acursor) then .behind
  else if live = anc ∧ x.cursor = x.acursor then .asRecorded
  else .rewound x.distance

/-- A stream of the record's layout. -/
def SrStream.ofBytes (b : List Byte) : SrStream :=
  { seed := leAt b 0 8, id := leAt b 8 4, step := leAt b 12 4, draw := leAt b 16 8, cursor := leAt b 24 8
    astep := leAt b 32 4, adraw := leAt b 40 8, acursor := leAt b 48 8 }

/-- The streams of a record's clusters, in its order. -/
def recordStreams (record : List Byte) (n : Nat) : List (List SrStream) :=
  (List.range n).map (fun k => (List.range 8).map (fun i => SrStream.ofBytes (slice record (64 + 512 * k + 64 * i) 64)))

/-- The streams go into the clusters one after another; each that was ahead is rewound, and logged. One that is behind ends that. -/
def State.putStreams (s : State) (part : Nat) : List (Nat × Nat × SrStream) → Bool × State
  | [] => (true, s)
  | x :: l =>
    let put : State := s.setSr x.1 ((s.liveSr x.1).set x.2.1 x.2.2.toAnchor)
    match x.2.2.rule with
    | .behind => (false, s)
    | .asRecorded => State.putStreams put part l
    | .rewound n => State.putStreams (put.note part (x.1 / 16) (325000 + x.1 % 16 * 8 + x.2.1) n) part l

/-- A restore ends: its order completes, and the partition is in the state given. -/
def State.endRestore (s : State) (part : Nat) (j : RestoreJob) (st : PState) (code : Nat) : State :=
  let p := s.part part
  let s := s.setPart part { p with st := st, job := .idle }
  let s := s.complete j.fn j.slot code 0 [(64, toLe 8 p.stepno)]
  if code = stOk then s else s.note part nodeSb 0 code

/-- The extents are written and checked one by one; `false` at the first whose digest fails. -/
def State.putExts (s : State) (part roff : Nat) : List ((Nat × Nat) × List Byte × Nat) → Bool × State
  | [] => (true, s)
  | (x, b, dig) :: rest =>
    let s := s.writePart part ((x.1 + roff) % 2 ^ 64) b
    if crc64 b = dig then State.putExts s part roff rest else (false, s)

/-- The first `n` bytes of the extents are written, and no byte behind an extent whose digest fails. -/
def State.putSome (s : State) (part roff : Nat) : Nat → List ((Nat × Nat) × List Byte × Nat) → State
  | _, [] => s
  | n, (x, b, dig) :: rest =>
    let s := s.writePart part ((x.1 + roff) % 2 ^ 64) (b.take n)
    if b.length ≤ n ∧ crc64 b = dig then State.putSome s part roff (n - b.length) rest else s

/-- The streams of a record with their clusters and numbers, in its order. -/
def Partition.streamsIn (p : Partition) (record : List Byte) : List (Nat × Nat × SrStream) :=
  (p.clusters.zip (recordStreams record p.clusters.length)).flatMap (fun x =>
    ((List.range 8).zip x.2).map (fun y => (x.1, y.1, y.2)))

/-- Step 3 of R321: streams and STEPNO, or the record to RSTATE; `false` where a stream was behind its anchor. -/
def State.restoreState (s : State) (part : Nat) (j : RestoreJob) (record : List Byte) : Bool × State :=
  if record = [] then (true, s)
  else if j.roff = 0 then
    match s.putStreams part ((s.part part).streamsIn record) with
    | (true, s) => (true, s.setPart part { s.part part with stepno := leAt record 0 8 })
    | x => x
  else (true, s.writePart part j.rstate record)

/-- A restore whose source has been read, in the order of R321. Where the check code ends it, how much has been written
by then is open (log entry 75). -/
def State.restoreFrom (s : State) (part : Nat) (j : RestoreJob) (came : PState) (exts : List (Nat × Nat))
    (c : CopyParts) (hwFault : Bool) : State :=
  let p := s.part part
  let man := c.manifest
  let good := slice man 0 4 == ascii "CKMF" && leAt man 4 1 == mfComplete && decide (man.length = 128 + 8 * exts.length)
  let rdigOk := leAt man 80 8 == 0 || (c.record != [] && crc64 c.record == leAt man 80 8)
  let fits := c.record == [] || decide (j.roff ≠ 0) ||
    (decide (c.record.length = 64 + 512 * p.clusters.length) && leAt c.record 56 4 == p.clusters.length)
  let placed := exts.all (fun x => s.boxMaps part ((x.1 + j.roff) % 2 ^ 64) x.2 true) &&
    (c.record == [] || decide (j.roff = 0) || s.boxMaps part j.rstate c.record.length true)
  if !good || !rdigOk || !fits then s.endRestore part j came stRestore
  else if !placed then s.endRestore part j came stBounds
  else
    let xs := exts.zip (c.exts.zip ((List.range exts.length).map (fun e => leAt man (128 + 8 * e) 8)))
    if hwFault then
      let d := s.draw
      let n := Config.choice 9 d.1 (c.exts.flatten.length + 2)
      (if n = 0 then d.2 else match d.2.restoreState part j c.record with
        | (true, s) => s.putSome part j.roff (n - 1) xs
        | (false, s) => s).endRestore part j .replan stRestore
    else match s.restoreState part j c.record with
    | (false, s) => s.endRestore part j .replan stRestore
    | (true, s) => match s.putExts part j.roff xs with
      | (true, s) => s.endRestore part j .ready stOk
      | (false, s) => s.endRestore part j .replan stRestore

end Sys2Proof.Machine
end

