-- ==== Sys2Proof/Machine/Certs.lean ====
section
/-! DEFINITION. Certificates in DER, the partition report, tenant keys and sealed blobs (R347, R348, R356 to R361). Keys,
signatures are the uninterpreted values of `Config`. -/

namespace Sys2Proof.Machine

/-! ## DER -/

/-- Big-endian bytes of a number, none for 0. -/
def natBytesAux : Nat → Nat → List Byte → List Byte
  | 0, _, acc => acc
  | k + 1, x, acc => if x = 0 then acc else natBytesAux k (x / 256) (BitVec.ofNat 8 x :: acc)

def natBytes (x : Nat) : List Byte := natBytesAux (lg x / 8 + 1) x []

/-- A DER length. -/
def derLen (n : Nat) : List Byte :=
  if n < 128 then [BitVec.ofNat 8 n]
  else BitVec.ofNat 8 (0x80 + (natBytes n).length) :: natBytes n

def der (tag : Nat) (body : List Byte) : List Byte := BitVec.ofNat 8 tag :: derLen body.length ++ body

def derSeq (l : List (List Byte)) : List Byte := der 0x30 l.flatten

/-- A non-negative INTEGER. -/
def derInt (x : Nat) : List Byte :=
  let b := natBytes x
  let b := if b.isEmpty then [0] else b
  der 0x02 (if 128 ≤ (b.headD 0).toNat then 0 :: b else b)

def derBool (x : Bool) : List Byte := der 0x01 [if x then 0xFF else 0]
def derEnum (x : Nat) : List Byte := der 0x0A [BitVec.ofNat 8 x]
def derOctets (b : List Byte) : List Byte := der 0x04 b
def derBits (b : List Byte) : List Byte := der 0x03 (0 :: b)
def derOid (b : List Byte) : List Byte := der 0x06 b

/-- The Trowyn arc 1.3.6.1.4.1.64871 with two more numbers (R356). -/
def oidT (a b : Nat) : List Byte :=
  derOid [0x2B, 0x06, 0x01, 0x04, 0x01, 0x83, 0xFA, 0x67, BitVec.ofNat 8 a, BitVec.ofNat 8 b]

/-- A critical extension; one that is not. -/
def extCritical (oid value : List Byte) : List Byte := derSeq [oid, derBool true, derOctets value]
def extPlain (oid value : List Byte) : List Byte := derSeq [oid, derOctets value]

/-! ## Keys and signatures (R346, R356) -/

/-- Uninterpreted values: what they are, then what they are of. -/
def cvSerial : List Nat := [10]
def cvVendorRoot : List Nat := [13]

/-- The PUF response, reconstructed, and the fused seed. -/
def pufResponse : List Byte := Config.cryptoBytes [39] (Config.free [40])
def fusedSeed : List Byte := Config.cryptoBytes [41] 32

/-- The device secret in a lifecycle state; TEST has a salt of its own (Table 14.5). -/
def deviceSecret (lc : Nat) : List Byte :=
  hkdfExtract (ascii (if lc = 1 then "HLN-DS-TEST-1" else "HLN-DS-1")) (pufResponse ++ fusedSeed)

/-- The identity key's ECDSA scalar, and its HSS seed of 32 bytes with the 16-byte identifier I after it. -/
def identityScalar (lc : Nat) : Nat := beNat (hkdfExpand (deviceSecret lc) (ascii "identity ecdsa") 64) % (p384N - 1) + 1
def identityHss (lc : Nat) : List Byte := hkdfExpand (deviceSecret lc) (ascii "identity hss") 48

/-- The sealing key of a measurement in lifecycle state `lc`, under the secret derived in `dlc`; the key of the repair record. -/
def sealingKey (dlc : Nat) (meas : List Byte) (lc : Nat) : List Byte :=
  hkdfExpand (hkdfExtract (ascii "HLN-SEAL-1") (deviceSecret dlc)) (meas ++ [BitVec.ofNat 8 lc]) 32
def repairKey (lc : Nat) : List Byte := hkdfExpand (deviceSecret lc) (ascii "repair record") 48

/-- The tag that authenticates a repair record in flash (R352). -/
def repairTag (lc : Nat) (rcd : List Byte) : List Byte := hmac384 (repairKey lc) rcd

/-- What a certificate's signer is, for the identity key of a lifecycle state. -/
def cvIdentityKey (lc : Nat) : List Nat := [11, identityScalar lc]

/-- The device serial, 16 bytes. -/
def deviceSerial : List Byte := Config.cryptoBytes cvSerial 16

/-- A P-384 point, uncompressed. -/
def ecPoint (key : List Nat) : List Byte := 0x04 :: Config.cryptoBytes key 96

/-- The identity HSS public key: two levels of LMS_SHA256_M32_H20 over LMOTS_SHA256_N32_W4 (R354). -/
def hssKey (lc : Nat) : List Byte :=
  [0, 0, 0, 2, 0, 0, 0, 8, 0, 0, 0, 3] ++ slice (identityHss lc) 32 16 ++ Config.cryptoBytes [12, beNat (identityHss lc)] 32

/-- Content of a composite subjectPublicKey. -/
def compositeKey (ec hss : List Byte) : List Byte := derSeq [derBits ec, derBits hss]

/-- The per-boot composite key. -/
def bootKey (bootcnt lc : Nat) : List Byte := compositeKey (ecPoint [14, bootcnt]) (hssKey lc)
def identityKey (lc : Nat) : List Byte := compositeKey (ecPoint (cvIdentityKey lc)) (hssKey lc)

/-- The partition key of a tenancy. -/
def partitionKey (bootcnt part tenancy : Nat) : List Byte := ecPoint [15, bootcnt, part, tenancy]

/-- An LMS signature of a tree of height `h` with leaf `q` (RFC 8554): LMOTS_SHA256_N32_W4, its randomizer and 67 chains and the
path are free. -/
def lmsSig (h q : Nat) (by_ : List Nat) : List Byte :=
  toBe 4 q ++ toBe 4 3 ++ Config.cryptoBytes (0 :: by_) (32 * 68) ++ toBe 4 (4 + h / 5) ++ Config.cryptoBytes (1 :: by_) (32 * h)

/-- An HSS signature of two levels of height `h` with one-time key `q`: one signed public key, that of the bottom tree in use, and
the bottom tree's signature. -/
def hssSig (h : Nat) (signer : List Nat) (q m : Nat) : List Byte :=
  let top := q / 2 ^ h
  toBe 4 1 ++ lmsSig h top (18 :: 0 :: top :: signer) ++
    (toBe 4 (4 + h / 5) ++ toBe 4 3 ++ Config.cryptoBytes (18 :: 1 :: top :: signer) 48) ++
    lmsSig h (q % 2 ^ h) (18 :: 2 :: q :: m :: signer)

/-- An ECDSA-Sig-Value over a hash, by a P-384 key. -/
def ecdsaSig (signer : List Nat) (m : Nat) : List Byte :=
  derSeq [derInt (beNat (Config.cryptoBytes (16 :: m :: signer) 48)), derInt (beNat (Config.cryptoBytes (17 :: m :: signer) 48))]

/-- A composite signature whose HSS half has two trees of height `h`, over a message with one-time key `q` (T.1.1). -/
def compositeSigOf (h : Nat) (signer : List Nat) (q : Nat) (msg : List Byte) : List Byte :=
  let m := beNat (sha384 msg)
  derSeq [derBits (ecdsaSig signer m), derBits (hssSig h signer q m)]

/-- A composite signature under the identity key's parameters, of height 20 (R354). -/
def compositeSig (signer : List Nat) (q : Nat) (tbs : List Byte) : List Byte := compositeSigOf 20 signer q tbs

/-! ## Certificate profiles (R357) -/

def sigAlg : List Byte := derSeq [oidT 1 1]

/-- The subject of the device's certificates: serialNumber and CN. -/
def hexDigit (n : Nat) : Byte := BitVec.ofNat 8 (if n < 10 then 48 + n else 55 + n)
def serialHex : List Byte := deviceSerial.flatMap (fun b => [hexDigit (b.toNat / 16), hexDigit (b.toNat % 16)])
def nameOf (cn : List Byte) : List Byte :=
  derSeq [der 0x31 (derSeq [derOid [0x55, 0x04, 0x05], der 0x13 serialHex]),
          der 0x31 (derSeq [derOid [0x55, 0x04, 0x03], der 0x0C cn])]

def bootName : List Byte := nameOf (ascii "HLN-BK1 boot")
def identityName : List Byte := nameOf (ascii "HLN-BK1 identity")

def validity : List Byte := derSeq [der 0x18 (ascii "19700101000000Z"), der 0x18 (ascii "99991231235959Z")]

/-- serialNumber: 0x01 and q as five bytes. -/
def serialOf (q : Nat) : List Byte := der 0x02 (0x01 :: toBe 5 q)

def keyIdOf (bits_ : List Byte) : List Byte := (sha384 bits_).take 20

/-- Extensions of Table 14.10 in its order. -/
def profileExts (basic usage ski aki : List Byte) (own : List Byte) : List Byte :=
  derSeq [extCritical (derOid [0x55, 0x1D, 0x13]) basic, extCritical (derOid [0x55, 0x1D, 0x0F]) usage,
    extPlain (derOid [0x55, 0x1D, 0x0E]) (derOctets ski),
    extPlain (derOid [0x55, 0x1D, 0x23]) (derSeq [der 0x80 aki]), own]

/-- A certificate from its serial number and other TBS fields, signed with one-time key `q`. -/
def signedCert (signer : List Nat) (q : Nat) (serial issuer subject spki exts : List Byte) : List Byte :=
  let tbs := derSeq [der 0xA0 (derInt 2), serial, sigAlg, issuer, validity, subject, spki, der 0xA3 exts]
  derSeq [tbs, sigAlg, derBits (compositeSig signer q tbs)]

/-- A certificate that the device issues. -/
def certificateOf (signer : List Nat) (q : Nat) (issuer subject spki exts : List Byte) : List Byte :=
  signedCert signer q (serialOf q) issuer subject spki exts

/-- A certificate that the vendor issues: its serial number is the vendor's (Table 14.10). -/
def vendorCert (n : Nat) (subject spki exts : List Byte) : List Byte :=
  signedCert cvVendorRoot n (derInt (Config.vendorSerial n)) (nameOf (Config.cryptoBytes cvVendorRoot 16)) subject spki exts

/-- The DeviceInfo extension (T.2.3); `ns` is the variant. -/
def deviceInfo (ns : Bool) : List Byte :=
  extCritical (oidT 2 3) (derSeq [derInt 1, derOctets deviceSerial, derInt 11, derEnum (b2n ns)])

/-- The extensions of a vendor certificate for a key. -/
def vendorExts (key : List Byte) (ns : Bool) : List Byte :=
  profileExts (derSeq [derBool true, derInt 1]) (der 0x03 [2, 0x04]) (keyIdOf key) (Config.cryptoBytes cvVendorRoot 20) (deviceInfo ns)

/-- The boot certificate (T.2.2, R351). -/
def bootInfo (meas svn bootcnt lc : Nat) (slotB : Bool) : List Byte :=
  extCritical (oidT 2 2) (derSeq [derInt 1, derInt Config.romVersion, derOctets (toBe 48 meas), derInt svn, derEnum (b2n slotB),
    derInt bootcnt, derEnum lc])

/-- The boot certificate of a boot whose certificate used one-time key `q`. -/
def Interlock.bootCert (x : Interlock) (q : Nat) : List Byte :=
  let key := bootKey x.bootcnt x.bootlc
  certificateOf (cvIdentityKey x.bootlc) q identityName bootName
    (derSeq [derSeq [oidT 1 2], derBits key])
    (profileExts (derSeq [derBool true, derInt 0]) (der 0x03 [2, 0x84]) (keyIdOf key) (keyIdOf (identityKey x.bootlc))
      (bootInfo x.meas x.svn x.bootcnt x.bootlc x.slotB))

/-- The identity certificate, as the vendor made it; the device holds it in flash. -/
def identityCertBytes (lc : Nat) (ns : Bool) : List Byte :=
  vendorCert 0 identityName (derSeq [derSeq [oidT 1 2], derBits (identityKey lc)]) (vendorExts (identityKey lc) ns)

/-! ## The partition certificate (R358, R359) -/

/-- ringSet in ASN.1 bit order. -/
def ringSetBytes (rings : List Nat) : List Byte :=
  (List.range 32).map (fun o => BitVec.ofNat 8 ((List.range 8).foldl (fun a k =>
    if rings.contains (8 * o + k) then a + 2 ^ (7 - k) else a) 0))

/-- The PartitionInfo extension. -/
def partitionInfo (id : Nat) (rings : List Nat) (meas : List Byte) (keyId : Option (List Byte)) (stepno lc : Nat)
    (ide : Bool) (nonce : List Byte) : List Byte :=
  extCritical (oidT 2 1) (derSeq [derInt 1, derInt id, derBits (ringSetBytes rings), derOctets meas,
    (match keyId with
     | some k => der 0x80 k
     | none => []),
    derInt 1, derInt stepno, derEnum lc, derBool ide, der 0x81 nonce])

/-- KEYID of a composite key: SHA-384 of point and HSS key (R360). -/
def TenantKey.keyId (k : TenantKey) : List Byte := sha384 k.key

/-- The key identifier of a partition's certificate: none where no key is set, or the image was loaded unsigned. -/
def Partition.keyId (p : Partition) : Option (List Byte) :=
  match p.image with
  | some im => if im.signed then p.key.map TenantKey.keyId else none
  | none => p.key.map TenantKey.keyId

/-- The certificate of a partition as it stands. -/
def State.partCert (s : State) (part : Nat) (nonce : List Byte) : List Byte :=
  let p := s.part part
  let key := partitionKey s.il.bootcnt part p.tenancy
  let b := bootKey s.il.bootcnt s.il.bootlc
  let ide : Bool := match p.key with
    | some k => k.idereq
    | none => false
  certificateOf [14, s.il.bootcnt] s.il.q bootName
    (nameOf (ascii "partition " ++ [hexDigit (part / 10), hexDigit (part % 10)]))
    (derSeq [derSeq [derOid [0x2A, 0x86, 0x48, 0xCE, 0x3D, 0x02, 0x01], derOid [0x2B, 0x81, 0x04, 0x00, 0x22]],
      derBits key])
    (profileExts (derSeq []) (der 0x03 [7, 0x80]) (keyIdOf key) (keyIdOf b)
      (partitionInfo part p.rings (slice p.meas 0 48) p.keyId p.stepno s.il.lc ide nonce))

/-! ## What a handshake sends (R366, R368) -/

/-- The certificates the device presents. -/
def State.devCerts (s : State) : List Byte :=
  if s.il.attested then identityCertBytes s.il.bootlc s.meter.ns ++ s.il.bootCert s.il.bootq else []

/-- The ECDH secret of the device's ephemeral value and the far end's share, and the device's own share: a free function, and a
free point, of them (R366). -/
def ecdhSecret (own : List Byte) (share : Nat) : List Byte := Config.cryptoBytes [38, leNat own, share] 48
def ephemeralShare (own : List Byte) : List Byte := ecPoint [45, leNat own]

/-- The transcript's signature under the per-boot ECDSA key (R366). -/
def State.transcriptSig (s : State) (h : Nat) : List Byte := ecdsaSig [14, s.il.bootcnt] h

/-! ## Tenant keys (R360) -/

/-- A composite key that the image key command takes: two levels, a permitted top level. -/
def tenantKeyOk (key : List Byte) : Bool := p384OnCurve (slice key 0 97) && hssKeyOk (slice key 97 60)

/-! ## Sealing (R348) -/

/-- The sealing key of a partition's current image (R346). -/
def State.sealKey (s : State) (part : Nat) : List Byte := sealingKey s.il.bootlc (s.part part).meas s.il.lc

/-- The sealed blob of a plaintext, in lifecycle state `lc`. -/
def sealBlob (key : List Byte) (lc : Nat) (nonce pt : List Byte) : List Byte :=
  let head := ascii "SEAL" ++ [1, BitVec.ofNat 8 lc, 0, 0] ++ nonce ++ toLe 4 pt.length
  let ct := gcmCrypt key nonce pt
  head ++ ct ++ gcmTag key nonce head ct

/-- The plaintext of a blob of `n` bytes of ciphertext, or the code of its rejection. -/
def openBlob (key : List Byte) (n : Nat) (blob : List Byte) : Except Nat (List Byte) :=
  let ct := slice blob 24 n
  let nonce := slice blob 8 12
  if slice blob 0 4 ≠ ascii "SEAL" ∨ leAt blob 4 1 ≠ 1 then .error stFormat
  else if leAt blob 20 4 ≠ n ∨ slice blob (24 + n) 16 ≠ gcmTag key nonce (slice blob 0 24) ct then
    .error stSignature
  else .ok (gcmCrypt key nonce ct)

end Sys2Proof.Machine
end

