-- ==== Sys2Proof/Machine/NaridLinks.lean ====
section
/-! DEFINITION. The state of Narid links: detection, training, handshake, idling, retraining, configuration
(R277 to R279, R345, R352, R355, R366). -/

namespace Sys2Proof.Machine

/-- A link in one of a port's modes: half 1 exists only in the two-link mode. -/
def State.onLink (s : State) (port : Fin 16) (half : Bool) (ok : LinkSt → Bool) (f : State → Link → State) : Result :=
  let l := s.link port.val half
  .next (if ok l.st then f s l else s)

/-- R278: DOWN, far end detected. -/
def execFarEndDetected (port : Fin 16) (half : Bool) (s : State) : Result :=
  s.onLink port half (· == .down) (fun s l =>
    if s.il.locked then s else s.setLink port.val half { l with st := .training, fresh := true })

/-- R278: the cable is detached; a FAILED or DISABLED link is left to configuration. -/
def execCableDetached (port : Fin 16) (half : Bool) (s : State) : Result :=
  s.onLink port half (fun x => (x != .disabled) && (x != .failed)) (fun s _ => s.linkDown port.val half)

/-- R366, step 1: the device's certificates and a fresh ephemeral share go out; a device without attestation has none to send. -/
def State.shakeStart (s : State) (port : Nat) (half : Bool) : State :=
  if s.il.attested then
    let own := s.random 48
    (own.2.setLink port half { own.2.link port half with own := own.1 }).emit
      (.handshake port half (s.devCerts ++ ephemeralShare own.1))
  else s

/-- The key of a direction, from the ECDH secret, the transcript hash and the direction's byte (R366). -/
def linkKey (direction : Byte) (own : List Byte) (agreed : KeyShare) : List Byte :=
  hkdfExpand (hkdfExtract (ascii "HLN-NARID-1") (ecdhSecret own agreed.share)) (toBe 48 agreed.transcript ++ [direction]) 32

/-- R366, steps 2 to 4: the transcript is signed, and the link has new keys, its count of frames started again; a rejected handshake
takes the link down and notifies the operator. -/
def State.shakeEnd (s : State) (port : Nat) (half : Bool) (agreed : Option KeyShare) : State :=
  if !s.il.attested then
    (s.linkDown port half).notifyOperator 0xFF 352 (if s.il.q = 2 ^ 40 then stConflict else stSignature)
  else match agreed with
  | none => (s.linkDown port half).notifyOperator 0xFF 366 stSignature
  | some k =>
    let l := s.link port half
    ((s.setLink port half { l with
        keys := true, key := linkKey (Config.directionByte port half) l.own k, rkey := linkKey (Config.farByte port half) l.own k
        fresh := false, sent := 0, taken := 0 }).emit
      (.handshake port half (s.transcriptSig k.transcript))).serve port half

/-- R278: training ends; a link that came from DOWN begins its handshake. -/
def execTrainingDone (port : Fin 16) (half : Bool) (ok : Bool) (s : State) : Result :=
  s.onLink port half (· == .training) (fun s l =>
    if ok then
      let p := s.port port.val
      let s := s.setPort port.val { p.setHalf half { l with st := .active, badRetrains := 0 } with retrains := 0 }
      (if l.fresh then s.shakeStart port.val half else s).serve port.val half
    else s.linkDown port.val half)

/-- R366: the handshake of a link that came from DOWN; `agreed` is there where the signatures over the transcript verify.
Without attestation the device rejects it. -/
def execNaridHandshake (port : Fin 16) (half : Bool) (certsOk lifecycleField : Bool) (agreed : Option KeyShare) (s : State) :
    Result :=
  s.onLink port half (· == .active) (fun s l =>
    if l.keys then s else s.shakeEnd port.val half (if certsOk && lifecycleField then agreed else none))

/-- R366: the handshake is repeated before 2³² frames, without leaving ACTIVE, with every test of its step 3. -/
def execNaridRekey (link : LinkId) (agreed : Option KeyShare) (s : State) (certsOk lifecycleField : Bool := true) : Result :=
  s.onLink link.port link.half (· == .active) (fun s l =>
    if l.keys then
      (s.shakeStart link.port.val link.half).shakeEnd link.port.val link.half (if certsOk && lifecycleField then agreed else none)
    else s)

/-- R278: no frame for IDLE µs; an IDLE of 0 disables STANDBY. -/
def execLinkIdle (port : Fin 16) (half : Bool) (s : State) : Result :=
  s.onLink port half (· == .active) (fun s l =>
    if (s.port port.val).idle = 0 then s else s.setLink port.val half { l with st := .standby })

/-- R278: STANDBY held for 100 ms, and the power policy permits SLEEP. -/
def execLinkSleep (port : Fin 16) (half : Bool) (s : State) : Result :=
  s.onLink port half (· == .standby) (fun s l =>
    if s.power.nsleep then s.setLink port.val half { l with st := .sleep } else s)

/-- R278: a frame to send takes the link back. -/
def execLinkFrameReady (port : Fin 16) (half : Bool) (s : State) : Result :=
  s.onLink port half (fun x => (x == .standby) || (x == .sleep)) (fun s l =>
    if l.st = .standby then (s.setLink port.val half { l with st := .active }).serve port.val half
    else s.setLink port.val half { l with st := .training, fresh := false })

/-- R278: pre-FEC errors above the threshold send the link to RETRAIN; replays do so in `NARID_NAK`. -/
def execLinkRetrain (link : LinkId) (seen : SymbolErrors) (s : State) : Result :=
  s.onLink link.port link.half (· == .active) (fun s _ =>
    let p := s.port link.port.val
    if p.overBer seen.errors seen.symbols then s.setPort link.port.val (p.toRetrain link.half) else s)

/-- The copies that drain over a link that has entered FAILED (R320); they go over half 0 of their ports. -/
def State.failLink (s : State) (port : Nat) (half : Bool) : State := if half then s else s.failPort port

/-- R277, R278: a retraining ends; the third failure in a row ends in FAILED and is reported. -/
def execLinkRetrainDone (port : Fin 16) (half : Bool) (ok : Bool) (s : State) : Result :=
  s.onLink port half (· == .retrain) (fun s l =>
    if ok then
      let s := s.setLink port.val half { l with st := .active, badRetrains := 0 }
      (s.emits (l.buf.map (fun x => .narid port.val half x.wire))).serve port.val half
    else if 3 ≤ l.badRetrains + 1 then
      ((s.setLink port.val half { l with st := .failed, badRetrains := 0 }).notifyOperator 0xFF 277 port.val).failLink port.val half
    else
      let p := s.port port.val
      s.setPort port.val { p.setHalf half { l with badRetrains := l.badRetrains + 1 } with retrains := min 15 (p.retrains + 1) })

/-- R277: the sender replays from the frame named; a frame replayed eight times in succession sends the link to RETRAIN. -/
def execNaridNak (port : Fin 16) (half : Bool) (seq : BitVec 16) (s : State) : Result :=
  s.onLink port half (· == .active) (fun s l =>
    if !l.buf.any (fun x => x.f.seq == seq) then s
    else
      let l := l.replayed seq.toNat
      let s := (s.setLink port.val half l).replayFrom port.val half seq.toNat
      if l.buf.any (fun x => decide (8 ≤ x.times)) then s.setPort port.val ((s.port port.val).toRetrain half) else s)

/-- A write of `JN_PCFG`: its code and the state after it (R279). -/
def State.writePcfg (s : State) (port v : Nat) : Nat × State :=
  match (s.port port).configure v with
  | some p => (stOk, s.setPort port p)
  | none => (stConflict, s)

/-- `NARID_PORT_CONFIGURATION`. -/
def execNaridPortConfiguration (h : Mgmt) (port : Fin 16) (value : BitVec 32) (s : State) : Result :=
  .next (s.command h false false (fun s =>
    match s.writePcfg port.val value.toNat with
    | (0, s) => s.reply h stOk []
    | (code, s) => s.rejectMsg h 0xFF code))

end Sys2Proof.Machine
end

