-- ==== Sys2Proof/Machine/Units.lean ====
section
/-! DEFINITION. The unit face of clusters, rings, spans and consists: run state, status block, and clearing a flag at a unit
(R22 to R24). -/

namespace Sys2Proof.Machine

/-- A unit: a cluster by global number, a ring by device index, a span, or a consist of a partition's image. -/
inductive UnitName where
  | cluster (g : Nat) | ring (i : Nat) | span (k : Nat) | consist (part id : Nat)
  deriving DecidableEq, Repr

/-- Run states of Table 1.4. -/
inductive UnitRun where
  | asleep | halted | running
  deriving DecidableEq, Repr

/-- The rings that hold a unit's clusters. -/
def State.unitRings (s : State) : UnitName → List Nat
  | .cluster g => [g / 16]
  | .ring i => [i]
  | .span k => (List.range 16).map (fun j => k * 16 + j)
  | .consist part id => match (s.part part).image with
    | none => []
    | some im => match im.consist id with
      | none => []
      | some c => im.consistRings c

/-- The clusters of a unit, by global number in member order. -/
def State.unitClusters (s : State) : UnitName → List Nat
  | .cluster g => [g]
  | .ring i => (List.range 16).map (fun k => i * 16 + k)
  | .span k => (List.range 256).map (fun j => k * 256 + j)
  | .consist part id => match (s.part part).image.bind (fun im => (im.consist id).map (fun c => im.clustersOf 5 c)) with
    | some l => l
    | none => []

/-- The run state of a unit: asleep while a ring of it is, running while one runs. -/
def State.unitRun (s : State) (u : UnitName) : UnitRun :=
  let rs := (s.unitRings u).map s.ring
  if rs.any (fun r => !r.awake) then .asleep
  else if rs.any (fun r => r.tt.run != .halted) then .running
  else .halted

/-- The status block of a unit; a cluster's flags are its own registers. -/
def State.unitStat (s : State) : UnitName → UnitStat
  | .cluster g => UnitStat.reset.take (s.cluster g).sticky
  | .ring i => (s.ring i).unit
  | .span k => (s.span k).unit
  | .consist part id => Tab.get .reset (s.part part).units id

/-- Spans that are members of a consist or of one nested in it. -/
def Image.spansIn (im : Image) (ids : List Nat) : List Nat :=
  ids.flatMap (fun id => match im.consist id with
    | some c => if c.kind = 2 then c.members else []
    | none => [])

/-- Clear flags in a ring and its clusters; a ring that is asleep holds none. -/
def State.clearRing (s : State) (key : Nat) (mask : BitVec 32) (i : Nat) : State :=
  if (s.ring i).awake then (fun s => s.setRing i ((s.ring i).clearFlags key mask)) (s.takeFlags i) else s

/-- A cluster's flags are cleared once the units above it have taken them (R24). -/
def State.clearCluster (s : State) (key : Nat) (mask : BitVec 32) (g : Nat) : State :=
  let s := s.takeFlags (g / 16)
  s.setCluster g ((s.cluster g).writeReg key mask)

def State.clearSpan (s : State) (key : Nat) (mask : BitVec 32) (k : Nat) : State :=
  s.setSpan k { s.span k with unit := (s.span k).unit.clear key mask.toNat }

/-! ## The token port (R22) -/

/-- A post to a unit posts to every member, down to the clusters, and so to every ring that lies in it. -/
def State.unitPost (s : State) (u : UnitName) (name n : Nat) : State :=
  let whole : List Nat := match u with
    | .cluster _ => []
    | .ring i => [i]
    | .span _ => s.unitRings u
    | .consist part id => match (s.part part).image.bind (fun im => (im.consist id).map (fun c => im.ringsIn (im.nested 5 c))) with
      | some l => l
      | none => []
  let s := (s.unitClusters u).foldl (fun s g => s.setCluster g ((s.cluster g).postTok name n 5)) s
  let s := whole.foldl (fun s i => s.setRing i ((s.ring i).postTok name n 5 0)) s
  (s.unitRings u).foldl State.takePosts s

/-- The unit's own completion tokens of a name: those of a cluster's and a ring's counters, to which bundles post (R194), and of
the token port of a span or a consist. -/
def State.unitTokens (s : State) (u : UnitName) (name : Nat) : Nat :=
  match u with
  | .cluster g => Tab.get 0 (s.cluster g).tok name
  | .ring i => Tab.get 0 (s.ring i).tok name
  | .span k => match s.partOf (k * 16) with
    | none => 0
    | some part => Tab.get 0 (Tab.get .reset (s.part part).faces (spanFace k)).tok name
  | .consist part id => Tab.get 0 (Tab.get .reset (s.part part).faces id).tok name

/-- R24: a W1C at a unit's status block, `mask` naming cause bits from bit 0 on, clears the flags in every member, down to the
clusters, and then there: what its members still held until then it has taken before. -/
def State.clearUnit (s : State) (u : UnitName) (key : Nat) (mask : BitVec 32) : State :=
  match u with
  | .cluster g => s.clearCluster key mask g
  | .ring i => s.clearRing key mask i
  | .span k => ((s.unitRings u).foldl (State.clearRing · key mask) s).clearSpan key mask k
  | .consist part id =>
    match (s.part part).image with
    | none => s
    | some im =>
      match im.consist id with
      | none => s
      | some c =>
        let ids := im.nested 5 c
        let s := (im.ringsIn ids).foldl (State.clearRing · key mask) s
        let s := (im.clustersOf 5 c).foldl (State.clearCluster · key mask) s
        let s := (im.spansIn ids).foldl (State.clearSpan · key mask) s
        let p := s.part part
        s.setPart part { p with
          units := ids.foldl (fun m k => Tab.ins k ((Tab.get .reset m k).clear key mask.toNat) m) p.units }

end Sys2Proof.Machine
end

