-- ==== Sys2Proof/Machine/RegMap.lean ====
section
/-! DEFINITION. Registers by device address: blocks, classes, values and writes (R6, R24, R177, R264, R279, R280,
R304, R313, R323, R334, R340, R369, R410, R415, R417, R423). -/

namespace Sys2Proof.Machine

/-! ## Where registers lie (R415) -/

/-- A register block with its instance. -/
inductive Block where
  | cl (g : Nat) | rg (i : Nat) | tr (i : Nat) | sp (s : Nat) | dk (s : Nat) | jn (j : Nat) | sd (d : Nat) | sb
  deriving DecidableEq, Repr

/-- The block and the offset within it of a device address. -/
def blockOf (a : Nat) : Option (Block × Nat) :=
  if a < 0x020000000000 then none
  else
    let x := a - 0x020000000000
    if x < 0x1000000 then some (.cl (x / 0x1000), x % 0x1000)
    else if x < 0x1100000 then some (.rg ((x - 0x1000000) / 0x1000), x % 0x1000)
    else if x < 0x1200000 then some (.tr ((x - 0x1100000) / 0x1000), x % 0x1000)
    else if x < 0x1210000 then some (.sp ((x - 0x1200000) / 0x1000), x % 0x1000)
    else if x < 0x1220000 then some (.dk ((x - 0x1210000) / 0x1000), x % 0x1000)
    else if x < 0x1230000 then some (.jn ((x - 0x1220000) / 0x4000), x % 0x4000)
    else if x < 0x1232000 then some (.sd ((x - 0x1230000) / 0x1000), x % 0x1000)
    else if 0x1240000 ≤ x ∧ x < 0x1250000 then some (.sb, x % 0x10000)
    else none

/-- What the word at an offset is: a 32-bit register, or the low or high word of a 64-bit one. -/
inductive WordKind where
  | single | low | high
  deriving DecidableEq, Repr

/-- Classes of Table 14.3; of the shared and interlocking ones, whether a tenant reads the register too. -/
inductive RegClass where
  | tenant | util | submission | shared (tenantReads : Bool) | interlock (tenantReads : Bool)
  deriving DecidableEq, Repr

/-- Low and high word of a 64-bit register at `lo`, if the offset is one of them. -/
def pairAt (lo off : Nat) : Option WordKind :=
  if off = lo then some .low else if off = lo + 4 then some .high else none

/-- Words of an SR stream's registers (R334). -/
def srKind (w : Nat) : Option WordKind :=
  match w with
  | 0 | 4 | 6 | 10 | 12 => some .low
  | 1 | 5 | 7 | 11 | 13 => some .high
  | 2 | 3 | 8 => some .single
  | _ => none

/-- A list of 32-bit and 64-bit registers as (offset, wide, class). -/
abbrev RegRows := List (Nat × Bool × RegClass)

def findReg (rows : RegRows) (off : Nat) : Option (WordKind × RegClass) :=
  rows.findSome? (fun r =>
    if r.2.1 then (pairAt r.1 off).map (fun k => (k, r.2.2))
    else if r.1 = off then some (.single, r.2.2) else none)

def clRows : RegRows :=
  [(0x400, false, .tenant), (0x404, false, .tenant), (0x408, false, .tenant), (0x500, false, .util),
   (0x504, false, .tenant), (0x508, false, .util), (0x510, false, .tenant), (0x514, false, .tenant),
   (0x518, false, .tenant), (0x520, true, .util), (0x600, false, .tenant), (0x604, false, .tenant),
   (0x610, true, .util), (0x700, false, .tenant), (0x704, false, .tenant), (0x708, false, .tenant),
   (0x70C, false, .tenant), (0x710, false, .tenant), (0xC00, false, .tenant), (0xC04, false, .tenant),
   (0xC08, true, .tenant), (0xD00, false, .submission), (0xE00, false, .tenant), (0xE04, false, .tenant),
   (0xE08, false, .util), (0xE10, true, .util), (0xF00, false, .tenant)]

def rgRows : RegRows :=
  [(0x300, false, .tenant), (0x304, false, .tenant), (0x308, false, .tenant), (0x30C, false, .tenant), (0x310, true, .util)]

def trRows : RegRows :=
  [(0x0, false, .tenant), (0x4, false, .tenant), (0x8, false, .tenant), (0xC, true, .tenant), (0x14, false, .tenant),
   (0x18, true, .util), (0x20, true, .util)]

def dkRows : RegRows :=
  [(0x0, false, .shared true), (0x4, false, .shared false), (0x8, false, .shared false), (0xC, false, .shared true),
   (0x10, true, .shared false), (0x18, false, .shared false), (0x20, false, .shared false),
   (0x24, false, .shared false), (0x30, false, .shared false), (0x40, true, .shared false)]

def sbRows : RegRows :=
  [(0x0, false, .interlock true), (0x8, true, .interlock true), (0x10, false, .interlock false),
   (0x1000, false, .shared false), (0x1004, false, .shared false), (0x1008, true, .shared false),
   (0x1010, false, .shared false), (0x1018, false, .shared false), (0x101C, false, .shared false),
   (0x1040, false, .shared false), (0x1048, true, .shared false), (0x2000, false, .shared false)]

def portRows : RegRows :=
  [(0x0, false, .shared false), (0x4, false, .shared false), (0x8, false, .shared false), (0x10, true, .shared false),
   (0x18, true, .shared false)]

def groupRows : RegRows :=
  [(0x0, false, .tenant), (0x4, false, .tenant), (0x8, false, .tenant), (0xC, false, .tenant), (0x10, true, .tenant),
   (0x18, true, .tenant)]

/-- The register at an offset of a block, if one lies there. -/
def regAt (b : Block) (off : Nat) : Option (WordKind × RegClass) :=
  match b with
  | .cl _ =>
    if off < 0x200 then (srKind (off % 0x40 / 4)).map (fun k => (k, .tenant))
    else if 0x800 ≤ off ∧ off < 0xC00 then some (.single, .tenant)
    else findReg clRows off
  | .rg _ => if 0x400 ≤ off ∧ off < 0x800 then some (.single, .tenant) else findReg rgRows off
  | .tr _ => findReg trRows off
  | .sp _ =>
    if 0x100 ≤ off ∧ off < 0x140 then
      findReg [(0x0, false, .shared false), (0x4, false, .shared false), (0x8, true, .shared false)] (off % 0x10)
    else none
  | .dk _ => findReg dkRows off
  | .jn j =>
    if 0x1000 ≤ off ∧ off < 0x1100 then findReg portRows (off % 0x40)
    else if j = 0 ∧ 0x2000 ≤ off ∧ off < 0x2200 then findReg groupRows (off % 0x20)
    else if j = 0 ∧ off = 0x2400 then some (.single, .shared false)
    else none
  | .sd _ =>
    if 0x100 ≤ off ∧ off < 0x300 then
      findReg [(0x0, false, .shared false), (0x4, false, .tenant)] (off % 8)
    else findReg [(0x0, false, .shared false), (0x10, true, .shared false), (0x18, true, .shared false)] off
  | .sb => if 0x1020 ≤ off ∧ off < 0x1040 then some (.single, .shared false) else findReg sbRows off

/-! ## Who reaches them (R336, R340) -/

/-- The role of a register order: the operator, or the tenant of a partition. -/
inductive RegRole where
  | operator | tenantOf (part : Nat)
  deriving DecidableEq, Repr

/-- Whether an instance lies within a tenant's reach. -/
def State.instanceOk (s : State) (part : Nat) (b : Block) (off : Nat) : Bool :=
  let p := s.part part
  match b with
  | .cl g => p.hasCluster g
  | .rg i => p.rings.contains i
  | .tr i => p.rings.contains i
  | .dk k => !(p.regionsOn k).isEmpty
  | .jn _ =>
    if 0x2000 ≤ off ∧ off < 0x2200 then
      match Tab.find s.groups ((off - 0x2000) / 0x20) with
      | some g => g.part == part
      | none => false
    else true
  | .sd _ => if 0x100 ≤ off ∧ off < 0x300 then (off - 0x100) / 8 == part else true
  | _ => true

/-- Whether a class grants a role a read or a write. -/
def RegClass.grants (c : RegClass) (r : RegRole) (write : Bool) : Bool :=
  match c, r with
  | .tenant, .tenantOf _ => true
  | .tenant, .operator => false
  | .util, _ => !write
  | .submission, _ => false
  | .shared _, .operator => true
  | .shared t, .tenantOf _ => t && !write
  | .interlock _, .operator => !write
  | .interlock t, .tenantOf _ => t && !write

/-- The ownership test and the settling of the address: the block, the offset and whether the order names a 64-bit
register, or the code of the rejection. -/
def State.locateReg (s : State) (r : RegRole) (a width : Nat) (write : Bool) : Except Nat (Block × Nat × Bool) :=
  match blockOf a with
  | none => .error stBounds
  | some (b, off) =>
    let mine : Bool := match r with
      | .operator => true
      | .tenantOf part => s.instanceOk part b off
    if !mine then .error stOwnership
    else match regAt b off with
    | none => .error stBounds
    | some (k, c) =>
      if !c.grants r write then .error stOwnership
      else if width = 8 ∧ k ≠ .low then .error stBounds
      else .ok (b, off, decide (width = 8))

/-! ## Values -/

def DeckPow.code : DeckPow → Nat
  | .off => 0 | .selfRefresh => 1 | .on => 2 | .waking => 3

/-- `DK_` registers (R264). -/
def Deck.readReg (d : Deck) (off : Nat) : Nat :=
  match off with
  | 0x0 => d.temp % 256 + 2 ^ 8 * (d.offline.getD 0) + 2 ^ 14 * b2n d.offline.isSome + 2 ^ 15 * (d.retraining.getD 0)
      + 2 ^ 21 * b2n d.retraining.isSome + 2 ^ 22 * b2n (!d.scrub.isEmpty) + 2 ^ 23 * b2n d.hot
  | 0x4 => d.cecnt
  | 0x8 => d.uecnt
  | 0xC => d.spused % 2 ^ 17 + 2 ^ 23 * (256 - d.rpused)
  | 0x10 => word64 d.retlog false
  | 0x14 => word64 d.retlog true
  | 0x18 => d.maxowed + 2 ^ 8 * d.forced
  | 0x20 => d.rtthr
  | 0x24 => d.cethr
  | 0x40 => word64 d.busy false
  | 0x44 => word64 d.busy true
  | _ => 0

def EdgeSt.code : EdgeSt → Nat
  | .absent => 0 | .active => 1 | .retraining => 2 | .failed => 3

/-- `SP_` registers of one edge (R280). -/
def Edge.readReg (e : Edge) (off : Nat) : Nat :=
  match off with
  | 0x0 => e.st.code + 2 ^ 8 * e.spares + 2 ^ 10 * e.lanes
  | 0x4 => e.replays % 65536 + 65536 * e.thresh
  | 0x8 => word64 e.flits false
  | 0xC => word64 e.flits true
  | _ => 0

def LinkSt.code : LinkSt → Nat
  | .disabled => 0 | .down => 1 | .training => 2 | .active => 3 | .standby => 4 | .sleep => 5 | .retrain => 6
  | .failed => 7

/-- `JN_` registers of one port (R280). -/
def Port.readReg (p : Port) (off : Nat) : Nat :=
  match off with
  | 0x0 => p.mode + 2 ^ 8 * p.idle + 2 ^ 24 * p.berthr
  | 0x4 => p.h0.st.code + 16 * p.h1.st.code + 2 ^ 12 * p.retrains
  | 0x8 => p.uncorr + 2 ^ 16 * p.authfail + 2 ^ 24 * p.tagdrop
  | 0x10 => word64 p.pcorr false
  | 0x14 => word64 p.pcorr true
  | 0x18 => word64 p.pbytes false
  | 0x1C => word64 p.pbytes true
  | _ => 0

/-- `JN_GSTAT`.STATE. -/
def Group.stateCode (g : Group) : Nat :=
  if g.liveIn.isEmpty then 1 else if g.liveIn.all (fun x => x.2.verdictSent) then 3 else 2

/-- Group registers (R304). -/
def Group.readReg (g : Group) (off : Nat) : Nat :=
  match off with
  | 0x0 => g.liveIn.length % 128 + 2 ^ 19 * (g.epoch % 1024) + 2 ^ 29 * g.stateCode
  | 0x4 => g.fault.toNat + 2 ^ 20 * (g.fpos % 4096)
  | 0x8 => g.rcd.gid % 65536 + 2 ^ 16 * g.part
  | 0xC => g.flags.toNat
  | 0x10 => bits g.slowLag 0 32
  | 0x14 => bits g.slowLag 32 8 + 2 ^ 8 * (g.slowest % 4096)
  | 0x18 => word64 g.done false
  | 0x1C => word64 g.done true
  | _ => 0

/-- `SD_` registers (R334). -/
def Siding.readReg (x : Siding) (off : Nat) : Nat :=
  if 0x100 ≤ off ∧ off < 0x300 then
    let p := (off - 0x100) / 8
    if off % 8 = 0 then x.jlimit p else x.jblocks p % 2 ^ 14 + 2 ^ 31 * b2n (x.jfull.contains p)
  else match off with
  | 0x0 => x.copyBlocks % 2 ^ 14 + 2 ^ 16 * x.free
  | 0x10 => word64 (x.staged.foldl (fun a p => a + p.2) 0) false
  | 0x14 => word64 (x.staged.foldl (fun a p => a + p.2) 0) true
  | 0x18 => word64 x.stored false
  | 0x1C => word64 x.stored true
  | _ => 0

/-- `IL_STAT` (R369). -/
def Interlock.stat (x : Interlock) : Nat :=
  x.lc % 4 + 4 * b2n x.slotB + 16 * (x.vkrev % 16) + 2 ^ 8 * b2n x.lmsExh + 2 ^ 9 * b2n x.lmsLow
    + 2 ^ 10 * b2n x.anchor.isSome + 2 ^ 11 * b2n x.locked + 2 ^ 16 * (x.floor % 256) + 2 ^ 24 * (x.svn % 256)

/-- `SB_SPANSTEP`. -/
def Power.spanSteps (p : Power) : Nat :=
  (List.range 16).foldl (fun a n => a + 2 ^ (4 * n) * p.spanStep n) 0

/-- `SB_DOMSTAT`. -/
def State.domains (s : State) : Nat :=
  let on := b2n s.power.sbOn
  let unc := b2n s.power.unc
  (List.range 16).foldl (fun a n =>
      let p := s.port n
      a + 2 ^ n * b2n ((p.h0.st != .disabled) || (p.h1.st != .disabled))) 0
    + 2 ^ 17 * unc + 2 ^ 18 * (15 * unc) + 2 ^ 22 * on + 2 ^ 23 * b2n s.power.cores + 2 ^ 24 * (15 * on)

/-- `SB_RINGONk`. -/
def State.ringsOn (s : State) (k : Nat) : Nat :=
  (List.range 32).foldl (fun a i => a + 2 ^ i * b2n (s.ring (32 * k + i)).awake) 0

/-- The state of a deck in `SB_DECKST`: waking from self-refresh while a ring of its span is being woken (R399, R410). -/
def State.deckCode (s : State) (k : Nat) : Nat :=
  let d := s.deck k
  if d.pow = .selfRefresh ∧ s.granted k ∧ (List.range 16).any (fun j => s.mayWake (k * 16 + j)) then DeckPow.waking.code
  else d.pow.code

/-- `IL_` and `SB_` registers (R369, R410, R423). -/
def State.readSb (s : State) (off : Nat) : Nat :=
  let p := s.power
  if 0x1020 ≤ off ∧ off < 0x1040 then s.ringsOn ((off - 0x1020) / 4)
  else match off with
  | 0x0 => s.il.stat
  | 0x8 => word64 (s.il.q % 2 ^ 40) false
  | 0xC => word64 (s.il.q % 2 ^ 40) true
  | 0x10 => s.il.bootcnt
  | 0x1000 => p.step + 2 ^ 12 * b2n p.thermFlag + 2 ^ 13 * p.capsrc + 2 ^ 15 * b2n p.capsat + 2 ^ 16 * p.cap
  | 0x1004 => p.opcap + 2 ^ 16 * p.bdcap
  | 0x1008 => word64 p.spanSteps false
  | 0x100C => word64 p.spanSteps true
  | 0x1010 => b2n p.nsleep + 2 * b2n p.deckoff + 2 ^ 8 * p.ringidle
  | 0x1018 => s.domains
  | 0x101C => (List.range 16).foldl (fun a n => a + 4 ^ n * s.deckCode n) 0
  | 0x1040 => p.rstcause
  | 0x1048 => word64 p.tick false
  | 0x104C => word64 p.tick true
  | 0x2000 => s.host.scanFn % 256 + 2 ^ 16 * s.host.discards
  | _ => 0

/-- The cluster registers an order reads: of a ring that is asleep, the signal box's copy of its random streams. -/
def State.readCl (s : State) (g off : Nat) : Nat :=
  let r := s.ring (g / 16)
  let c := r.get (g % 16)
  ({ c with sr := s.liveSr g }).readReg r.now r.optph off

/-- One 32-bit word of a register. -/
def State.readWord (s : State) (b : Block) (off : Nat) : Nat :=
  match b with
  | .cl g => s.readCl g off
  | .rg i => (s.ring i).readReg off
  | .tr i => (s.ring i).tr.readReg off
  | .sp k => (s.edge k ((off - 0x100) / 0x10)).readReg (off % 0x10)
  | .dk k => (s.deck k).readReg off
  | .jn j =>
    if 0x1000 ≤ off ∧ off < 0x1100 then (s.port (4 * j + (off - 0x1000) / 0x40)).readReg (off % 0x40)
    else if off = 0x2400 then s.bulkw
    else match Tab.find s.groups ((off - 0x2000) / 0x20) with
      | some g => g.readReg (off % 0x20)
      | none => 0
  | .sd d => (s.siding d).readReg off
  | .sb => s.readSb off

/-- The value a register order reads. -/
def State.readReg (s : State) (b : Block) (off : Nat) (wide : Bool) : Nat :=
  s.readWord b off + (if wide then 2 ^ 32 * s.readWord b (off + 4) else 0)

/-! ## Writes -/

/-- Whether a ring runs: it issues, coasts or stands at a hold. -/
def Ring.runs (r : Ring) : Bool := r.awake && r.tt.run != .halted

/-- What forbids a write in the state the device is in (R177, R313, R323). -/
def State.writeBarred (s : State) (b : Block) (off v : Nat) : Option Nat :=
  match b with
  | .cl g =>
    let live := decide (off < 0x200) && decide (off % 0x40 / 4 < 8)
    if (s.ring (g / 16)).runs && (live || [0x400, 0x510, 0x514, 0x518].contains off) then some stConflict else none
  | .rg i => if (s.ring i).runs && decide (off = 0x30C) then some stConflict else none
  | .sd d =>
    if 0x100 ≤ off ∧ off < 0x300 ∧ off % 8 = 0 then
      let p := (off - 0x100) / 8
      let x := s.siding d
      let others := ((s.parts.filter (fun q => q.2.exists_ && q.1 != p)).map (fun q => x.jlimit q.1)).foldl (· + ·) 0
      if (s.part p).st = .running then some stConflict
      else if 8192 < others + v % 2 ^ 14 then some stBounds
      else none
    else none
  | .sb => if off = 0x1004 ∧ !capOk (v % 2 ^ 12) then some stBounds else none
  | _ => none

/-- A write of a cluster's register by an order; the units above have taken its flags before one is cleared (R24). A ring that is
asleep keeps none but its random streams. -/
def State.writeCl (s : State) (g off : Nat) (v : BitVec 32) : State :=
  let i := g / 16
  let s := s.takeFlags i
  let r := s.ring i
  if off < 0x200 then
    s.setSr g ((Cluster.writeReg { r.get (g % 16) with sr := s.liveSr g } off v).sr)
  else if !r.awake then s
  else if off = 0xF00 then
    if g % 16 = 0 ∧ v.getLsbD 0 then (s.setRing i { r with optph := true }).takePhase i else s
  else s.setRing i (r.put (g % 16) ((r.get (g % 16)).writeReg off v))

/-- A write of a ring's register; a flag of `RG_TTFAULT` is cleared as the ring's own status block clears it (R24). -/
def State.writeRg (s : State) (i off : Nat) (v : BitVec 32) : State :=
  if !(s.ring i).awake then s
  else if off = 0x308 then s.clearUnit (.ring i) 0x308 (v >>> 28)
  else s.setRing i ((s.ring i).writeReg off v)

def State.writeTr (s : State) (i off : Nat) (v : BitVec 32) : State :=
  let r := s.ring i
  if !r.awake then s
  else if off = 0x8 then s.clearUnit (.ring i) 0x10008 (v >>> 24)
  else s.setRing i { r with tr := r.tr.writeReg off v }

/-- A field keeps its value when 0 is written. -/
def keepZero (old v : Nat) : Nat := if v = 0 then old else v

/-- Group registers: sticky bits cleared by ones. -/
def Group.writeReg (g : Group) (off : Nat) (v : BitVec 32) : Group :=
  match off with
  | 0x4 => { g with fault := g.fault &&& ~~~ v.setWidth 4 }
  | 0xC => { g with flags := g.flags &&& ~~~ v.setWidth 7 }
  | _ => g

/-- A write of one 32-bit word; the code is other than OK where the register's own rule rejects it (R262, R279). -/
def State.writeWord (s : State) (b : Block) (off : Nat) (v : BitVec 32) : Nat × State :=
  let n := v.toNat
  match b with
  | .cl g => (stOk, s.writeCl g off v)
  | .rg i => (stOk, s.writeRg i off v)
  | .tr i => (stOk, s.writeTr i off v)
  | .sp k =>
    let e := (off - 0x100) / 0x10
    let x := s.edge k e
    if off % 0x10 = 4 then (stOk, s.setEdge k e { x with thresh := keepZero x.thresh (bits n 16 16) }) else (stOk, s)
  | .dk k =>
    let d := s.deck k
    match off with
    | 0x20 => (stOk, s.setDeck k { d with rtthr := keepZero d.rtthr (n % 65536) })
    | 0x24 => (stOk, s.setDeck k { d with cethr := keepZero d.cethr (n % 256) })
    | 0x30 => s.repairOrder k n
    | _ => (stOk, s)
  | .jn j =>
    if 0x1000 ≤ off ∧ off < 0x1100 then
      if off % 0x40 = 0 then s.writePcfg (4 * j + (off - 0x1000) / 0x40) n else (stOk, s)
    else if off = 0x2400 then (stOk, { s with bulkw := keepZero s.bulkw (n % 256) })
    else match Tab.find s.groups ((off - 0x2000) / 0x20) with
      | some g => (stOk, s.setGroup ((off - 0x2000) / 0x20) (g.writeReg (off % 0x20) v))
      | none => (stOk, s)
  | .sd d =>
    let x := s.siding d
    if 0x100 ≤ off ∧ off < 0x300 then
      let p := (off - 0x100) / 8
      if off % 8 = 0 then (stOk, s.setSiding d { x with jlim := Tab.set 0x40 x.jlim p (n % 2 ^ 14) })
      else if v.getLsbD 31 then (stOk, s.setSiding d { x with jfull := setDel p x.jfull })
      else (stOk, s)
    else (stOk, s)
  | .sb =>
    match off with
    | 0x1004 => (stOk, { s with power := { s.power with opcap := n % 2 ^ 12 } })
    | 0x1010 => (stOk, ({ s with power := { s.power with
        ringidle := bits n 8 24, deckoff := bit n 1, nsleep := bit n 0 } } : State).restFree)
    | _ => (stOk, s)

/-- A register write: low word, then high word. -/
def State.writeReg (s : State) (b : Block) (off : Nat) (wide : Bool) (v : Nat) : Nat × State :=
  match s.writeBarred b off v with
  | some code => (code, s)
  | none =>
    let x := s.writeWord b off (BitVec.ofNat 32 v)
    if wide && x.1 == stOk then x.2.writeWord b (off + 4) (BitVec.ofNat 32 (v / 2 ^ 32)) else x

/-- A register order as a whole: its code, the value read, and the state after it. -/
def State.regOrder (s : State) (r : RegRole) (a width : Nat) (write : Option Nat) : Nat × Nat × State :=
  match s.locateReg r a width write.isSome with
  | .error code => (code, 0, s)
  | .ok (b, off, wide) =>
    match write with
    | none => (stOk, s.readReg b off wide, s)
    | some v =>
      let x := s.writeReg b off wide v
      if x.1 = stOk then (stOk, 0, x.2) else (x.1, 0, s)

/-- Width 4 or 8, and an address aligned to it (R417). -/
def regForm (a width : Nat) : Bool := (decide (width = 4) || decide (width = 8)) && decide (a % width = 0)

end Sys2Proof.Machine
end

