-- ==== Sys2Proof/Machine/Host.lean ====
section
/-! DEFINITION. Orders that act for a tenant's software: keys, certificates, sealing, registers; the deck window; the IDE and
SPDM mailboxes (R348, R359 to R361, R364, R365, R414, R417, R437). -/

namespace Sys2Proof.Machine

/-! ## Deck areas the signal box reads for an order (R437) -/

/-- A range read through the region tables: none of the granules may be uncorrectable. -/
inductive AreaRead where
  | unmapped | uncorrectable | data (l : List Byte)
  deriving DecidableEq, Repr

def State.readArea (s : State) (part pa n : Nat) : AreaRead :=
  if n = 0 then .data []
  else if !s.boxMaps part pa n false then .unmapped
  else match s.readPart part pa n with
  | some l => .data l
  | none => .uncorrectable

/-- Go on with the bytes of an area, whose granules meet `wrong` erroneous bytes in order, or complete the order: BOUNDS,
FAULTED_STEP. An area at a channel that is retraining lets the order wait, with the device as it `was` (R260). DESIGN CHOICE (log
entry 80): an area whose deck is not reached counts as one that no entry maps. -/
def State.withArea (was s : State) (f slot part pa n : Nat) (wrong : List Nat) (g : State → List Byte → State) : State :=
  if 0 < n ∧ !s.boxMaps part pa n false then s.completeBad f slot part stBounds
  else if !s.rangeServes part pa n then was
  else
    let s := (s.fabricOn.fetchPart part pa n).meetPart part pa n wrong
    match s.readArea part pa n with
    | .data l => g s l
    | _ => s.completeBad f slot part stFaulted

/-- The granules of a range that a write covers in part: the first and the last, at most. -/
def partialGranules (pa n : Nat) : List Nat := (granules pa n).filter (fun g => decide (g < pa ∨ pa + n < g + 64))

/-- Go on where an area can be written, or complete the order: BOUNDS; FAULTED_STEP where the write would merge into a granule
that cannot be read (R251, R257, R437). The granules that it merges into meet `wrong` erroneous bytes in order. -/
def State.withDest (was s : State) (f slot part pa n : Nat) (wrong : List Nat) (g : State → State) : State :=
  if !s.boxMaps part pa n true then s.completeBad f slot part stBounds
  else if !s.rangeServes part pa n then was
  else
    let s := ((partialGranules pa n).zip wrong).foldl (fun s x => s.meetPart part x.1 64 [x.2]) s.fabricOn
    if s.partMerges part pa (List.replicate n 0) then s.completeBad f slot part stFaulted else g s

/-! ## Image key (R360, R361) -/

/-- States in which the image key and load orders are accepted (Table 6.1). -/
def PState.idleOne : PState → Bool
  | .empty => true | .ready => true | .replan => true
  | _ => false

/-- `IMAGE_KEY`. -/
def execImageKey (fn slot : Fin 64) (addr : Word) (idereq : Bool) (s : State) (wrong : List Nat := []) : Result :=
  .next (s.vfOrder fn.val slot.val true false (fun t part =>
    let p := t.part part
    if !p.st.idleOne || p.key.isSome then t.completeBad fn.val slot.val part stConflict
    else s.withArea t fn.val slot.val part addr.toNat 157 wrong (fun s key =>
      if !tenantKeyOk key then s.completeBad fn.val slot.val part stFormat
      else (s.setPart part { s.part part with key := some ⟨key, idereq⟩ }).complete fn.val slot.val stOk 0 [])))

/-! ## Certificates (R352, R355, R359) -/

/-- The certificate a selector names, and the device after it. -/
def State.issue (s : State) (part selector : Nat) (nonce : List Byte) : List Byte × State :=
  match selector with
  | 0 => (s.partCert part nonce, s.useLms)
  | 1 => (s.il.bootCert s.il.bootq, s)
  | _ => (identityCertBytes s.il.bootlc s.meter.ns, s)

/-- The certificate is written, if it fits and its destination can be written. -/
def State.giveCert (was s : State) (f slot part dest space selector : Nat) (nonce : List Byte) (wrong : List Nat) : State :=
  let n := (s.issue part selector nonce).1.length
  if space < n then s.completeBad f slot part stBounds
  else was.withDest s f slot part dest n wrong (fun s =>
    let x := s.issue part selector nonce
    (x.2.writePart part dest x.1).complete f slot stOk 0 [(64, toLe 2 n)])

/-- Whether a certificate request has to wait for a tree (R354): one that no test of the request before that ends. -/
def State.certWaits (s : State) (f selector : Nat) : Bool :=
  decide (selector = 0) && s.il.attested && (s.il.lmsNext == .waits) && !s.il.locked &&
    match (if f = 0 then none else s.tenant f) with
    | some p => (s.part p).st != .loading
    | none => false

/-- `CERTIFICATE`. -/
def execCertificate (fn slot : Fin 64) (dest : Word) (space : BitVec 16) (nonceLen selector : Byte) (nonceAddr : Word)
    (s : State) (wrong : List Nat := []) : Result :=
  let sel := selector.toNat
  let ok := decide (nonceLen.toNat ≤ 64) && decide (sel ≤ 2)
  match s.torn fn.val with
  | some part => .next (s.tornOrder fn.val slot.val part ok)
  | none =>
  if ok && s.certWaits fn.val sel then .next s
  else .next (s.vfOrder fn.val slot.val ok true (fun t part =>
    let p := t.part part
    let bad (code : Nat) : State := t.completeBad fn.val slot.val part code
    if p.st == .loading then bad stConflict
    else if !s.il.attested then bad (if s.il.lmsExh then stConflict else stSignature)
    else if s.il.lmsExh && decide (sel = 0) then bad stConflict
    else s.withArea t fn.val slot.val part nonceAddr.toNat nonceLen.toNat wrong (fun t nonce =>
      s.giveCert t fn.val slot.val part dest.toNat space.toNat sel nonce
        (wrong.drop (granules nonceAddr.toNat nonceLen.toNat).length))))

/-! ## Sealing (R348) -/

/-- States in which seal and unseal are accepted (Table 14.2). -/
def PState.seals : PState → Bool
  | .ready => true | .running => true | .replan => true
  | _ => false

/-- A seal or unseal order, of `src` bytes of the one area and `dst` of the other; `wrong` gives the erroneous bytes of the area
read and then of the granules merged into. -/
def State.sealOrder (s : State) (f slot : Nat) (ok : Bool) (wrong : List Nat) (src dst : Nat × Nat)
    (g : Nat → State → List Byte → State) : State :=
  match s.torn f with
  | some part => s.tornOrder f slot part ok
  | none => s.vfOrder f slot ok false (fun t part =>
    if !(t.part part).st.seals then t.completeBad f slot part stConflict
    else s.withDest t f slot part dst.1 dst.2 (wrong.drop (granules src.1 src.2).length) (fun t =>
      s.withArea t f slot part src.1 src.2 wrong (g part)))

/-- `SEAL`. -/
def execSeal (fn slot : Fin 64) (src dst : Word) (len : BitVec 32) (s : State) (wrong : List Nat := []) : Result :=
  let n := len.toNat
  .next (s.sealOrder fn.val slot.val (decide (1 ≤ n) && decide (n ≤ 65536)) wrong (src.toNat, n) (dst.toNat, n + 40)
    (fun part s pt =>
      let r := s.random 12
      (r.2.writePart part dst.toNat (sealBlob (s.sealKey part) s.il.lc r.1 pt)).complete fn.val slot.val stOk 0
        [(64, toLe 4 (n + 40))]))

/-- `UNSEAL`: `len` is the plaintext's length. -/
def execUnseal (fn slot : Fin 64) (src dst : Word) (len : BitVec 32) (s : State) (wrong : List Nat := []) : Result :=
  let n := len.toNat
  .next (s.sealOrder fn.val slot.val (decide (1 ≤ n) && decide (n ≤ 65536)) wrong (src.toNat, n + 40) (dst.toNat, n)
    (fun part s blob =>
      match openBlob (s.sealKey part) n blob with
      | .error code => s.completeBad fn.val slot.val part code
      | .ok pt => (s.writePart part dst.toNat pt).complete fn.val slot.val stOk 0 [(64, toLe 4 n)]))

/-! ## Register orders (R417) -/

/-- A register order of a tenant. -/
def State.tenantReg (s : State) (f slot part a width : Nat) (write : Option Nat) : State :=
  match s.regOrder (.tenantOf part) a width write with
  | (0, v, s) => s.complete f slot stOk 0 (if write.isNone then [(64, toLe 8 v)] else [])
  | (code, _, s) => s.completeBad f slot part code

/-- Whether the ownership test of a register order fails (R336, R340). -/
def State.regForeign (s : State) (r : RegRole) (a width : Nat) (write : Option Nat) : Bool :=
  match s.locateReg r a width write.isSome with
  | .error code => code == stOwnership
  | .ok _ => false

/-- A register message of the operator, whose ownership test comes first. -/
def State.operatorReg (s : State) (h : Mgmt) (a width : Nat) (write : Option Nat) : State :=
  if !regForm a width then s.rejectMsg h 0xFF stFormat
  else if (s.il.locked || s.il.boot == .recovery) && !s.regForeign .operator a width write then s.rejectMsg h 0xFF stConflict
  else match s.regOrder .operator a width write with
  | (0, v, s) => s.reply h stOk (if write.isNone then [v] else [])
  | (code, _, s) => s.rejectMsg h 0xFF code

/-- The partition of a tenant whose register order names what it may not reach. -/
def State.regStranger (s : State) (f a width : Nat) (write : Option Nat) : Option Nat :=
  (if f = 0 then none else s.tenant f).filter (fun part => regForm a width && s.regForeign (.tenantOf part) a width write)

def State.regCommand (s : State) (org : Origin) (a width : Nat) (write : Option Nat) : State :=
  match org with
  | .slot f k =>
    match s.regStranger f.val a width write with
    | some part => s.foreignOrder f.val k.val part
    | none => s.vfOrder f.val k.val (regForm a width) false (fun s part => s.tenantReg f.val k.val part a width write)
  | .mgmt h => s.command h true true (fun s => s.operatorReg h a width write)

/-- `REGISTER_READ`. -/
def execRegisterRead (org : Origin) (addr : Word) (width : Byte) (s : State) : Result :=
  .next (s.regCommand org addr.toNat width.toNat none)

/-- `REGISTER_WRITE`. -/
def execRegisterWrite (org : Origin) (addr : Word) (width : Byte) (value : Word) (s : State) : Result :=
  .next (s.regCommand org addr.toNat width.toNat (some value.toNat))

/-! ## The deck window (R414) -/

/-- Cut a run at 4 KiB: address and length of each request TLP. -/
def cutTlps (a len : Nat) : List (Nat × Nat) :=
  (List.range ((a % 4096 + len + 4095) / 4096)).map (fun k =>
    let lo := max a ((a / 4096 + k) * 4096)
    (lo, min (a + len) ((a / 4096 + k + 1) * 4096) - lo))

/-- Erroneous-byte counts of the granules a TLP touches, out of those of the whole run. -/
def tlpWrong (a : Nat) (wrong : List Nat) (x : Nat × Nat) : List Nat := wrong.drop (x.1 / 64 - a / 64)

/-- A read TLP completes with Unsupported Request, which is logged, and reported as a TLP error (R414, R420). -/
def State.unsupported (s : State) (f part a : Nat) : State :=
  ((s.aerError f 20).emit (.unsupported f a (s.via f))).note part nodeSb 414 0

/-- One read TLP. -/
def State.readTlp (s : State) (f part : Nat) (wrong : List Nat) (x : Nat × Nat) : State :=
  match s.translate part x.1 with
  | none => s.unsupported f part x.1
  | some (dev, _) =>
    if !s.homeReaches (some boxDie) dev then s.unsupported f part x.1 else
    match s.readGranules (granules dev x.2) wrong with
    | (.ok l, s) => s.emit (.data f x.1 (slice l (dev % 64) x.2) (s.via f))
    | (.error _, s) => s.unsupported f part x.1

/-- `BAR2_READ`: `wrong` gives the erroneous bytes that the granules meet, in order. A partition stays bound, and its deck
reachable, until the end of its tenancy is done; requests to a channel that is retraining wait (R260, R414). PRESUMED (log entry
89): a function in D3hot takes no memory request; reads complete with Unsupported Request, and writes are discarded and reported. -/
def execBar2Read (fn : Fin 64) (addr : Word) (len : Nat) (wrong : List Nat) (s : State) : Result :=
  let a := addr.toNat
  if s.il.boot ≠ .booted ∨ !s.fnExists fn.val ∨ fn.val = 0 then .next s
  else if (s.fn fn.val).d3hot then .next ((cutTlps a len).foldl (fun s x => s.unsupported fn.val 0xFF x.1) s)
  else match s.boundPart fn.val with
  | none => .next ((cutTlps a len).foldl (fun s x => s.unsupported fn.val 0xFF x.1) s)
  | some part =>
    if !s.rangeServes part a len then .next s
    else .next ((cutTlps a len).foldl (fun s x => s.readTlp fn.val part (tlpWrong a wrong x) x) s.fabricOn)

/-- Discard a write TLP. -/
def State.dropTlp (s : State) (part : Nat) : State := s.note part nodeSb 414 1

/-- A TLP that comes outside the function's stream is discarded, counted and logged (R365, R341). -/
def State.dropOutside (s : State) (f part : Nat) : State :=
  (s.setFn f { s.fn f with ideDrops := (s.fn f).ideDrops + 1 }).note part nodeSb 365 0

/-- Whether a write to the BAR of a function is discarded for coming outside its stream, and of which partition it is. -/
def State.outside {α : Type} (s : State) (f : Nat) (x : Tlp α) : Option Nat :=
  if f = 0 ∨ x.inStream then none else (s.boundPart f).filter (fun part => s.ideNeeds f part)

/-- Whether every granule that a write merges into can be read: the merges' reads are made, and answer. -/
def State.mergesOk (s : State) (wrong : List Nat) : List (Nat × List Byte × List Bool) → Bool × State
  | [] => (true, s)
  | w :: ws =>
    if w.2.2.all id then State.mergesOk s wrong.tail ws
    else match s.readGranule w.1 (wrong.headD 0) with
      | (none, s) => (false, s)
      | (some _, s) => State.mergesOk s wrong.tail ws

/-- One write TLP: made whole or discarded whole; never journaled. -/
def State.writeTlp (s : State) (part a : Nat) (data : List Byte) (wrong : List Nat) : State :=
  match s.translate part a with
  | some (dev, true) =>
    if !s.homeReaches (some boxDie) dev then s.dropTlp part else
    match s.mergesOk wrong (overGranules dev data []) with
    | (true, s) => s.land dev data
    | (false, s) => s.dropTlp part
  | _ => s.dropTlp part

/-- The error of the link under which a write came is reported (R420); its own retry has delivered the write. -/
def State.linkError (s : State) (f : Nat) (fault : TlpFault) : State := if fault = .link then s.aerError f (32 + 6) else s

/-- `BAR2_WRITE`: `fault` says what befell the write on its way, `inStream` that it came in the VF's selective stream. -/
def execBar2Write (fn : Fin 64) (addr : Word) (data : List Byte) (fault : TlpFault) (inStream : Bool) (wrong : List Nat)
    (s : State) : Result :=
  let a := addr.toNat
  let poison := decide (fault = .poisoned)
  let drop (part : Nat) (s : State) : State := (if poison then s.aerError fn.val 12 else s).dropTlp part
  if s.il.boot ≠ .booted ∨ !s.fnExists fn.val ∨ fn.val = 0 then .next s
  else
  let was := s
  let s := s.linkError fn.val fault
  if (s.fn fn.val).d3hot then .next ((cutTlps a data.length).foldl (fun s _ => (s.aerError fn.val 20).dropTlp 0xFF) s)
  else match s.boundPart fn.val with
  | none => .next ((cutTlps a data.length).foldl (fun s _ => drop 0xFF s) s)
  | some part =>
    if poison then .next ((cutTlps a data.length).foldl (fun s _ => drop part s) s)
    else if s.ideNeeds fn.val part && !inStream then
      .next ((cutTlps a data.length).foldl (fun s _ => s.dropOutside fn.val part) s)
    else if !s.rangeServes part a data.length then .next was
    else .next ((cutTlps a data.length).foldl (fun s x =>
      s.writeTlp part x.1 (slice data (x.1 - a) x.2) (tlpWrong a wrong x)) s.fabricOn)

/-! ## Mailboxes (R364, Table 14.12) -/

/-- What refuses a mailbox command, and the partition it concerns: the lock (R345), a VF outside a tenancy (Table 14.2). -/
def State.mailboxBad (s : State) (f : Nat) : Option Nat :=
  if s.il.locked then some stConflict
  else if f ≠ 0 ∧ (s.tenant f).isNone then some stConflict
  else none

/-- A command of a function's mailbox; `foreign` says that it names what is not the function's own, which is tested before the state
(R9, R336). A mailbox lies in configuration space (R408). DESIGN CHOICE (log entry 88): the specification gives a status no way
back through the mailbox; what is refused changes nothing, is logged with its code, and nothing is answered. -/
def State.mailbox (s : State) (f : Nat) (foreign : Bool) (g : State) : State :=
  if s.il.boot ≠ .booted then s.retryConfig f
  else if !s.fnExists f then s
  else if foreign then s.reject ((s.tenant f).getD 0xFF) stOwnership
  else match s.mailboxBad f with
  | some code => s.reject ((s.tenant f).getD 0xFF) code
  | none => g

/-- The chain that a function's SPDM responder presents, and the device after it: the PF's ends with the boot certificate, a VF's
with a certificate of its partition under a fresh one-time key (Table 14.12). None where the device cannot sign one. -/
def State.spdmChain (s : State) (f : Nat) : Option (List Byte × State) :=
  if !s.il.attested then none
  else match (if f = 0 then none else s.tenant f) with
  | none => some (s.devCerts, s)
  | some part => if s.il.lmsNext == .ready then some (s.devCerts ++ s.partCert part [], s.useLms) else none

/-- `SPDM_KEY_EXCHANGE`: `ok` says that the exchange and FINISH verify. -/
def execSpdmKeyExchange (fn : Fin 64) (ok : Bool) (s : State) : Result :=
  .next (s.mailbox fn.val false (
    match s.spdmChain fn.val with
    | none => s.reject ((s.tenant fn.val).getD 0xFF) stSignature
    | some x =>
      let s := x.2.emit (.spdm fn.val x.1)
      if ok then s.setFn fn.val { s.fn fn.val with spdm := true } else s.reject ((s.tenant fn.val).getD 0xFF) stSignature))

/-- Whether an exchange keys the link stream. -/
def keysLink : IdeKm → Bool
  | .keyProg l _ => l
  | .ksetGo l => l
  | .ksetStop l => l

/-- The function after an exchange, if its state lets it be made: the alternate key set is programmed, taken into use, or the
stream stopped. -/
def Fn.keyed (x : Fn) : IdeKm → Option Fn
  | .keyProg false k => some { x with ideAlt := some k }
  | .ksetGo false => x.ideAlt.map (fun k => { x with ideKeys := k, ideAlt := none, ideActive := true })
  | .ksetStop false => some { x with ideActive := false }
  | .keyProg true k => some { x with linkAlt := some k }
  | .ksetGo true => x.linkAlt.map (fun k => { x with linkKeys := k, linkAlt := none, linkActive := true })
  | .ksetStop true => some { x with linkActive := false }

/-- `IDE_KM`, inside the function's SPDM session. The link stream is keyed through the PF's mailbox alone. -/
def execIdeKm (fn : Fin 64) (km : IdeKm) (s : State) : Result :=
  let x := s.fn fn.val
  .next (s.mailbox fn.val (keysLink km && decide (fn.val ≠ 0)) (
    match if x.spdm then x.keyed km else none with
    | some y => s.setFn fn.val y
    | none => s.reject ((s.tenant fn.val).getD 0xFF) stConflict))

end Sys2Proof.Machine
end

