-- ==== Sys2Proof/Machine/Sched.lean ====
section
/-! DEFINITION. Trestle schedules: the body of Tables 9.1 and 9.2, and what makes one malformed (R208 to R211). -/

namespace Sys2Proof.Machine

/-- A schedule (R208). `rows` lists the columns of each row of A in original numbering; `frows` those of each factor
row in elimination numbering, lower, diagonal, upper; `fm` and `fv` are the fraction bits by original row. -/
structure Sched where
  n : Nat
  nnza : Nat
  nnzf : Nat
  lu : Bool
  w : Nat
  restricted : Bool
  tau : Int
  guard : Nat
  rows : List (List Nat)
  perm : List Nat
  frows : List (List Nat)
  fm : List Nat
  fv : List Nat
  wf : List (List Nat)
  ws : List (List Nat)
  wt : List (List Nat)
  fprint : Nat
  deriving DecidableEq, Repr

/-! ## Reading a body -/

/-- `n` little-endian 32-bit words. -/
def words32 : Nat → List Byte → List Nat
  | 0, _ => []
  | n + 1, b => leNat (b.take 4) :: words32 n (b.drop 4)

/-- Cut a list by row pointers; none where the pointers do not start at 0, fall, or run past the list. -/
def cutRows : Nat → List Nat → List Nat → Option (List (List Nat))
  | at_, [e], l => if e = at_ ∧ l = [] then some [] else none
  | at_, a :: b :: ps, l =>
    if a = at_ ∧ a ≤ b ∧ b - a ≤ l.length then
      (cutRows b (b :: ps) (l.drop (b - a))).map (fun r => l.take (b - a) :: r)
    else none
  | _, [], _ => none

/-- `n` waves, each a count and its positions: the waves and the bytes they take. -/
def readWaves : Nat → List Byte → Option (List (List Nat) × Nat)
  | 0, _ => some ([], 0)
  | k + 1, b =>
    let c := leAt b 0 4
    if b.length < 4 + 4 * c then none
    else match readWaves k (b.drop (4 + 4 * c)) with
      | none => none
      | some r => some (words32 c (b.drop 4) :: r.1, r.2 + 4 + 4 * c)

/-- Strictly ascending. -/
def ascends : List Nat → Bool
  | a :: b :: l => decide (a < b) && ascends (b :: l)
  | _ => true

/-- Half-open ranges that do not meet. -/
def apart (x y : Nat × Nat) : Bool := decide (x.2 ≤ y.1) || decide (y.2 ≤ x.1)

def pairwiseApart : List (Nat × Nat) → Bool
  | [] => true
  | x :: xs => xs.all (apart x) && pairwiseApart xs

/-- Header fields within their ranges, reserved bytes zero (Table 9.1). -/
def schedHeadOk (b : List Byte) : Bool :=
  let n := leAt b 0 4
  decide (1 ≤ n) && decide (n ≤ 65536) && decide (n ≤ leAt b 4 4) && decide (leAt b 4 4 ≤ 1048576) &&
    decide (leAt b 8 4 ≤ 2097152) && decide (leAt b 12 1 ≤ 1) && (decide (leAt b 13 1 = 32) || decide (leAt b 13 1 = 64)) &&
    decide (leAt b 14 1 ≤ 1) && decide (leAt b 16 1 ≤ 8) && decide (leAt b 17 3 = 0) && decide (leAt b 52 12 = 0)

/-- Bytes of the pattern block. -/
def patternLen (n nnza nnzf : Nat) : Nat := 4 * (n + 1 + nnza + n + (n + 1) + nnzf)

/-- R210: SHA-384 of the pattern block followed by header bytes 12 and 14. -/
def fingerprintOf (body pattern : List Byte) : Nat :=
  leNat ((sha384 (pattern ++ slice body 12 1 ++ slice body 14 1)).take 8)

/-- Read a body: none where its header or the layout of its blocks is malformed. The blocks follow the header. -/
def parseSched (b : List Byte) : Option Sched :=
  if !schedHeadOk b then none
  else
    let n := leAt b 0 4
    let nnza := leAt b 4 4
    let nnzf := leAt b 8 4
    let op := leAt b 32 4
    let of_ := leAt b 36 4
    let pl := patternLen n nnza nnzf
    if b.length < op + pl ∨ b.length < of_ + 2 * n then none
    else
      let pat := slice b op pl
      let ws := words32 (pl / 4) pat
      let fmt := (slice b of_ (2 * n)).map BitVec.toNat
      let wave (cnt off : Nat) : Option (List (List Nat) × Nat) := readWaves (leAt b cnt 4) (b.drop (leAt b off 4))
      match cutRows 0 (ws.take (n + 1)) ((ws.drop (n + 1)).take nnza),
          cutRows 0 ((ws.drop (n + 1 + nnza + n)).take (n + 1)) (ws.drop (n + 1 + nnza + n + (n + 1))),
          wave 20 40, wave 24 44, wave 28 48 with
      | some rows, some frows, some wf, some wsv, some wt =>
        let span (o len : Nat) : Nat × Nat := (o, o + len)
        if pairwiseApart [span 0 64, span op pl, span of_ (2 * n), span (leAt b 40 4) wf.2, span (leAt b 44 4) wsv.2,
            span (leAt b 48 4) wt.2] then
          some
            { n := n, nnza := nnza, nnzf := nnzf, lu := decide (leAt b 12 1 = 1), w := leAt b 13 1
              restricted := decide (leAt b 14 1 = 1), tau := sextInt 8 (leAt b 15 1), guard := leAt b 16 1
              rows := rows, perm := (ws.drop (n + 1 + nnza)).take n, frows := frows
              fm := (List.range n).map (fun i => fmt.getD (2 * i) 0)
              fv := (List.range n).map (fun i => fmt.getD (2 * i + 1) 0)
              wf := wf.1, ws := wsv.1, wt := wt.1, fprint := fingerprintOf b pat }
        else none
      | _, _, _, _, _ => none

/-! ## Patterns (R209) -/

/-- Parts of a factor row: columns below, and from the diagonal on. -/
def lowerOf (i : Nat) (l : List Nat) : List Nat := l.filter (fun c => decide (c < i))
def upperOf (i : Nat) (l : List Nat) : List Nat := l.filter (fun c => decide (i < c))

def Sched.row (s : Sched) (i : Nat) : List Nat := s.rows.getD i []
def Sched.frow (s : Sched) (i : Nat) : List Nat := s.frows.getD i []

/-- A row of the permuted pattern, ascending. -/
def Sched.permuted (s : Sched) (k : Nat) : List Nat :=
  (s.row (s.perm.getD k 0)).foldl (fun l c => setIns (s.perm.idxOf c) l) []

/-- The next row of the complete fill, from the rows before it. -/
def fillRow (before : List (List Nat)) (row : List Nat) : List Nat :=
  (before.foldl (fun (a : Nat × List Nat) r =>
    (a.1 + 1, if a.2.contains a.1 then (upperOf a.1 r).foldl (fun l c => setIns c l) a.2 else a.2)) (0, row)).2

/-- The complete symbolic fill of a pattern. -/
def fillAll (rows : List (List Nat)) : List (List Nat) :=
  rows.foldl (fun acc r => acc ++ [fillRow acc r]) []

/-- What the factor pattern must be. -/
def Sched.wantFactor (s : Sched) : List (List Nat) :=
  let p := (List.range s.n).map s.permuted
  let f := if s.restricted then p else fillAll p
  ((List.range s.n).zip f).map (fun x => if s.lu then x.2 else x.2.filter (fun c => decide (c ≤ x.1)))

def Sched.patternOk (s : Sched) : Bool :=
  let idx := List.range s.n
  idx.all (fun i => ascends (s.row i) && (s.row i).all (fun c => decide (c < s.n)) && (s.row i).contains i) &&
    (s.lu || idx.all (fun i => (s.row i).all (fun c => (s.row c).contains i))) &&
    idx.all (fun i => s.perm.contains i)

/-! ## Formats and waves (R209, R211) -/

def Sched.formatsOk (s : Sched) : Bool :=
  s.fm.all (fun f => decide (f + 2 ≤ s.w) && decide (-(f : Int) ≤ s.tau) && decide (s.tau < (s.w : Int) - 1 - f)) &&
    s.fv.all (fun f => decide (f + 2 ≤ s.w))

/-- Positions a row depends on through the factor pattern. -/
def Sched.deps (s : Sched) (i : Nat) : List Nat := lowerOf i (s.frow i)

/-- Every position once, and each after those that `before` gives for it. -/
def wavesOk (n : Nat) (before : Nat → List Nat) : List Nat → List (List Nat) → Bool
  | done, [] => decide (done.length = n)
  | done, w :: ws =>
    w.all (fun i => decide (i < n) && !done.contains i && (before i).all done.contains) &&
      decide ((w.foldl (fun l i => setIns i l) []).length = w.length) && wavesOk n before (w ++ done) ws

def Sched.wavesOk (s : Sched) : Bool :=
  let later (i : Nat) : List Nat := (List.range s.n).filter (fun j => (s.deps j).contains i)
  Machine.wavesOk s.n s.deps [] s.wf && Machine.wavesOk s.n s.deps [] s.ws && Machine.wavesOk s.n later [] s.wt

/-- R209 to R211 hold of a body under the fingerprint its head carries. -/
def schedOk (fprint : Nat) (b : List Byte) : Bool :=
  match parseSched b with
  | none => false
  | some s => s.patternOk && decide (s.frows = s.wantFactor) && s.formatsOk && s.wavesOk && decide (s.fprint = fprint)

end Sys2Proof.Machine
end

