-- ==== Sys2Proof/Machine/Signatures.lean ====
section
/-! DEFINITION. Verifying a tenant's signatures (R137, R360): ECDSA over P-384 and two-level HSS, from the public standards the
manual cites by name (PRESUMED: FIPS 186 and RFC 8554; log entry 13). -/

namespace Sys2Proof.Machine

/-! ## ECDSA P-384 -/

/-- Power modulo `m`, over the lowest `k` bits of the exponent. -/
def powMod (m x e : Nat) : Nat → Nat
  | 0 => 1 % m
  | k + 1 =>
    let r := powMod m x (e / 2) k
    if e % 2 = 1 then r * r % m * x % m else r * r % m

/-- Inverse modulo a prime of 384 bits. -/
def invMod (m x : Nat) : Nat := powMod m (x % m) (m - 2) 384

/-- A point of the curve: none is the one at infinity. -/
abbrev EcPoint := Option (Nat × Nat)

/-- The third point of a chord or tangent of slope `l`, mirrored. -/
def ecThird (l : Nat) (a b : Nat × Nat) : Nat × Nat :=
  let p := p384P
  let x := (l * l + 2 * p - a.1 - b.1) % p
  (x, (l * (a.1 + p - x) + p - a.2) % p)

def ecAdd : EcPoint → EcPoint → EcPoint
  | none, b => b
  | a, none => a
  | some a, some b =>
    let p := p384P
    if a.1 ≠ b.1 then some (ecThird ((b.2 + p - a.2) * invMod p (b.1 + p - a.1) % p) a b)
    else if (a.2 + b.2) % p = 0 then none
    else some (ecThird ((3 * a.1 * a.1 + (p - 3)) * invMod p (2 * a.2) % p) a b)

/-- Multiple of a point, over the lowest `k` bits of the factor. -/
def ecMul (a : EcPoint) (n : Nat) : Nat → EcPoint
  | 0 => none
  | k + 1 =>
    let r := ecMul a (n / 2) k
    if n % 2 = 1 then ecAdd (ecAdd r r) a else ecAdd r r

/-- The base point. -/
def p384G : EcPoint := some
  (0xaa87ca22be8b05378eb1c71ef320ad746e1d3b628ba79b9859f741e082542a385502f25dbf55296c3a545e3872760ab7,
   0x3617de4a96262c6f5d9e98bf9292dc29f8f41dbd289a147ce9da3113b5f0b8c00a60b1ce1d7e819d7a431d7c90ea0e5f)

/-- Whether a signature, 48 bytes each of r and s, verifies over a digest under a 97-byte point. -/
def ecdsaVerifies (key digest sig : List Byte) : Bool :=
  let n := p384N
  let r := beNat (slice sig 0 48)
  let s := beNat (slice sig 48 48)
  let w := invMod n s
  let q : EcPoint := some (beNat (slice key 1 48), beNat (slice key 49 48))
  decide (1 ≤ r) && decide (r < n) && decide (1 ≤ s) && decide (s < n) && p384OnCurve key &&
    match ecAdd (ecMul p384G (beNat digest * w % n) 384) (ecMul q (r * w % n) 384) with
    | some x => decide (x.1 % n = r)
    | none => false

/-! ## LMS and HSS -/

/-- What an LMOTS type says: the width of a digit, the number of chains, the shift of the checksum. -/
def otsShape (t : Nat) : Option (Nat × Nat × Nat) :=
  match t with
  | 3 => some (4, 67, 4)
  | 4 => some (8, 34, 0)
  | _ => none

/-- Digits of `w` bits of a byte string, the highest of a byte first. -/
def digits (w : Nat) (l : List Byte) : List Nat :=
  l.flatMap (fun b => if w = 4 then [b.toNat / 16, b.toNat % 16] else [b.toNat])

/-- The rest of a hash chain, which ends at the largest digit: `n` steps from digit `j`. -/
def otsChain (head : List Byte) : Nat → Nat → List Byte → List Byte
  | 0, _, t => t
  | n + 1, j, t => otsChain head n (j + 1) (sha256 (head ++ toBe 1 j ++ t))

/-- The one-time key that a one-time signature of leaf `q` over a message leads to. -/
def otsKey (id : List Byte) (q : Nat) (shape : Nat × Nat × Nat) (sig msg : List Byte) : List Byte :=
  let w := shape.1
  let top := 2 ^ w - 1
  let leaf := id ++ toBe 4 q
  let h := sha256 (leaf ++ toBe 2 0x8181 ++ slice sig 4 32 ++ msg)
  let sum := ((digits w h).map (fun d => top - d)).foldl (· + ·) 0
  let ds := (digits w (h ++ toBe 2 (sum * 2 ^ shape.2.2))).take shape.2.1
  let ends := ((List.range shape.2.1).zip ds).map (fun x =>
    otsChain (leaf ++ toBe 2 x.1) (top - x.2) x.2 (slice sig (36 + 32 * x.1) 32))
  sha256 (leaf ++ toBe 2 0x8080 ++ ends.flatten)

/-- The root that a path leads to from a node. -/
def lmsRoot (id : List Byte) : List (List Byte) → Nat → List Byte → List Byte
  | [], _, t => t
  | p :: ps, node, t =>
    let two := if node % 2 = 1 then p ++ t else t ++ p
    lmsRoot id ps (node / 2) (sha256 (id ++ toBe 4 (node / 2) ++ toBe 2 0x8383 ++ two))

/-- Whether an LMS signature verifies over a message under a key: both types, the identifier and the root. -/
def lmsVerifies (key sig msg : List Byte) : Bool :=
  match lmsHeight (beNat (slice key 0 4)), otsShape (beNat (slice key 4 4)), lmotsLen (beNat (slice key 4 4)) with
  | some h, some shape, some n =>
    let id := slice key 8 16
    let q := beNat (slice sig 0 4)
    let leaf := otsKey id q shape (slice sig 4 n) msg
    let path := (List.range h).map (fun i => slice sig (8 + n + 32 * i) 32)
    decide (q < 2 ^ h) && (slice sig 4 4 == slice key 4 4) && (slice sig (4 + n) 4 == slice key 0 4) &&
      lmsRoot id path (2 ^ h + q) (sha256 (id ++ toBe 4 (2 ^ h + q) ++ toBe 2 0x8282 ++ leaf)) == slice key 24 32
  | _, _, _ => false

/-- Whether a two-level HSS signature verifies over a message under a 60-byte key: the top level signs the key of the second,
which signs the message. -/
def hssVerifies (key sig msg : List Byte) : Bool :=
  match lmsSigLen (beNat (slice key 4 4)) (beNat (slice key 8 4)) with
  | some top =>
    let below := slice sig (4 + top) 56
    decide (beNat (slice sig 0 4) = 1) && lmsVerifies (slice key 4 56) (slice sig 4 top) below &&
      lmsVerifies below (sig.drop (4 + top + 56)) msg
  | none => false

/-- A composite signature verifies when both halves do (R356): ECDSA takes the digest as it is, HSS its bytes as the message, as
R351 says of the signatures over a firmware image's digest (DEDUCED, log entry 13). -/
def compositeVerifies (key digest ecdsa hss : List Byte) : Bool :=
  ecdsaVerifies (slice key 0 97) digest ecdsa && hssVerifies (slice key 97 60) hss digest

end Sys2Proof.Machine
end

