-- ==== Sys2Proof/Machine/ImageForm.lean ====
section
/-! DEFINITION. The checks 3 to 13 that an image meets before it is applied (R134 to R144, R147, R148, R162, R183, R207,
R271), on its bytes. -/

namespace Sys2Proof.Machine

/-- A failed check: status, check number, section and record of the detail word (Table 6.9). -/
structure ImgBad where
  code : Nat
  check : Nat
  section_ : Nat
  record : Nat
  deriving DecidableEq, Repr

def ImgBad.detail (x : ImgBad) : Nat := x.check * 2 ^ 24 + x.section_ * 2 ^ 16 + min x.record 0xFFFF

/-- What a failed check answers, and a check that must hold. -/
abbrev Checked (α : Type) := Except ImgBad α

def need (ok : Bool) (code check sec rcd : Nat) : Checked Unit :=
  if ok then .ok () else .error ⟨code, check, sec, rcd⟩

/-- The first failing record of a list: `f` gives the rules it breaks as FORMAT, OWNERSHIP, BOUNDS (R148). -/
structure Broken where
  form : Bool
  own : Bool
  bound : Bool
  deriving DecidableEq, Repr

def Broken.code (b : Broken) : Option Nat :=
  if b.form then some stFormat else if b.own then some stOwnership else if b.bound then some stBounds else none

def firstBroken (check sec : Nat) : Nat → List Broken → Checked Unit
  | _, [] => .ok ()
  | i, b :: bs =>
    match b.code with
    | some c => .error ⟨c, check, sec, i⟩
    | none => firstBroken check sec (i + 1) bs

/-! ## Uncorrectable granules (R437) -/

/-- Whether a range of the image holds bytes that cannot be read; `bad` lists ranges of offsets. -/
def hits (bad : List (Nat × Nat)) (lo hi : Nat) : Bool := bad.any (fun x => decide (x.1 < hi) && decide (lo < x.2))

def readable (bad : List (Nat × Nat)) (lo hi check sec rcd : Nat) : Checked Unit :=
  need (!hits bad lo hi) stFaulted check sec rcd

/-! ## Sections and records (R134, R135) -/

/-- A directory entry (Table 6.3). -/
structure DirEnt where
  type : Nat
  count : Nat
  off : Nat
  len : Nat
  zero : Bool
  deriving DecidableEq, Repr

def dirEnt (b : List Byte) : DirEnt := ⟨leAt b 0 2, leAt b 4 4, leAt b 8 8, leAt b 16 8, leAt b 2 2 == 0⟩

/-- Bytes of a record's head, from which its length is known. -/
def recHead (type : Nat) : Nat :=
  match type with
  | 1 => 64 | 2 => 8 | 4 => 1032 | 8 => 128
  | _ => 16

/-- Length of the record that begins with these bytes. -/
def recSize (type : Nat) (b : List Byte) : Nat :=
  match type with
  | 1 => 64
  | 2 => 8 + 4 * leAt b 4 2
  | 3 => 16
  | 4 => 1032
  | 5 => 16 + 64 * leAt b 4 4
  | 6 => 16 + leAt b 4 4
  | 7 => 16 + leAt b 4 4
  | 8 => 128 + 8 * leAt b 14 1 + 32 * leAt b 13 1 + roundUp (leAt b 4 2) 8 + 16 * leAt b 22 1
  | _ => 16 + roundUp (leAt b 8 4) 64

/-- A section's records, each with its offset in the image; they fill the section exactly. -/
def cutRecords (bad : List (Nat × Nat)) (type : Nat) : Nat → Nat → Nat → List Byte → Checked (List (Nat × List Byte))
  | 0, _, _, b => if b.isEmpty then .ok [] else .error ⟨stFormat, 6, type, 0⟩
  | n + 1, i, off, b => do
    let h := recHead type
    need (decide (h ≤ b.length)) stFormat 6 type i
    readable bad off (off + h) 6 type i
    let size := recSize type b
    need (decide (size ≤ b.length)) stFormat 6 type i
    let rest ← cutRecords bad type n (i + 1) (off + size) (b.drop size)
    .ok ((off, b.take size) :: rest)

/-- Directory entries in order: known types, each once, within the measured bytes, none over an earlier one. -/
def dirOk (lo hi : Nat) : Nat → List DirEnt → List DirEnt → Checked Unit
  | _, _, [] => .ok ()
  | i, before, e :: es => do
    let clear := before.all (fun x => x.type != e.type && apart (x.off, x.off + x.len) (e.off, e.off + e.len) ||
      (x.type != e.type && (x.len == 0 || e.len == 0)))
    need (decide (1 ≤ e.type) && decide (e.type ≤ 9) && e.zero && decide (e.off % 64 = 0) && decide (lo ≤ e.off) &&
      decide (e.off + e.len ≤ hi) && clear) stFormat 6 0 i
    dirOk lo hi (i + 1) (e :: before) es

/-- An image whose header, directory and records have been read: records by section type. -/
structure Parsed where
  mlen : Nat
  classes : Nat
  secs : Tab (List (Nat × List Byte))
  deriving DecidableEq, Repr

def Parsed.recs (p : Parsed) (type : Nat) : List (List Byte) := (Tab.get [] p.secs type).map (·.2)

/-- Check 6: the sections and their records. DESIGN CHOICE (log entry 37): a partition map whose COUNT is not 1 fails here, with
RECORD 0. -/
def cutSections (bad : List (Nat × Nat)) (d : List Byte) : List DirEnt → Checked (Tab (List (Nat × List Byte)))
  | [] => .ok []
  | e :: es => do
    need (e.type != 1 || e.count == 1) stFormat 6 1 0
    let r ← cutRecords bad e.type e.count 0 e.off (slice d e.off e.len)
    let rest ← cutSections bad d es
    .ok (Tab.ins e.type r rest)

/-- The directory in ascending type. -/
def sortDir (es : List DirEnt) : List DirEnt :=
  (List.range 9).flatMap (fun k => es.filter (fun e => e.type == k + 1))

/-- The header (check 3). DESIGN CHOICE (log entry 37): an image shorter than its header fails here. -/
def headerOk (d : List Byte) : Bool :=
  decide (64 ≤ d.length) && (slice d 0 8 == ascii "HLNSTIMG") && decide (leAt d 8 2 = 1) && decide (3 ≤ leAt d 10 2) &&
    decide (leAt d 10 2 ≤ 9) && decide (leAt d 13 1 = 0x0B) && decide (leAt d 14 1 < 4) && decide (leAt d 15 1 = 0) &&
    decide (leAt d 40 24 = 0) && decide (leAt d 16 8 % 64 = 0)

/-- Checks 3 to 6. DESIGN CHOICE (log entry 37): a required section that is missing fails check 6 with SECTION 0 and RECORD 0. -/
def parseImage (bad : List (Nat × Nat)) (d : List Byte) : Checked Parsed := do
  let n := d.length
  readable bad 0 (min n 64) 3 0 0
  need (headerOk d) stFormat 3 0 0
  let mlen := leAt d 16 8
  need (decide (mlen ≤ 2 ^ 30) && decide (mlen ≤ n)) stBounds 4 0 0
  if n ≠ mlen then
    need (decide (mlen + 8 ≤ n)) stBounds 4 0xFF 0
    readable bad (mlen + 4) (mlen + 8) 4 0xFF 0
    need (decide (n = mlen + leAt d (mlen + 4) 4)) stBounds 4 0xFF 0
  need (decide (leAt d 12 1 = 1)) stFormat 5 0 0
  let nsec := leAt d 10 2
  need (decide (64 + 24 * nsec ≤ mlen)) stFormat 6 0 0
  let unread := (List.range nsec).find? (fun i => hits bad (64 + 24 * i) (88 + 24 * i))
  need unread.isNone stFaulted 6 0 (unread.getD 0)
  let es := (List.range nsec).map (fun i => dirEnt (slice d (64 + 24 * i) 24))
  dirOk (64 + 24 * nsec) mlen 0 [] es
  need ([1, 4, 5].all (fun t => es.any (fun e => e.type == t))) stFormat 6 0 0
  let secs ← cutSections bad d (sortDir es)
  .ok ⟨mlen, leAt d 14 1, secs⟩

/-! ## Check 7: measurement and signature (R136, R137, R360) -/

/-- Section and record that hold a byte of the measured image. -/
def Parsed.place (p : Parsed) (o : Nat) : Nat × Nat :=
  let at_ (x : Nat × List (Nat × List Byte)) : Option Nat :=
    (List.range x.2.length).find? (fun i => match x.2[i]? with
      | some r => decide (r.1 < o + 64) && decide (o < r.1 + r.2.length)
      | none => false)
  match p.secs.find? (fun x => (at_ x).isSome) with
  | some x => (x.1, (at_ x).getD 0)
  | none => (0, 0)

/-- The signature section under a key: its form, and both signatures over the measurement `meas`. -/
def sectionVerifies (k : TenantKey) (meas sg : List Byte) : Bool :=
  (slice sg 0 4 == ascii "TSIG") && (slice sg 8 48 == k.keyId) &&
    match hssSigLen (k.key.drop 97) (sg.drop 152) with
    | some n => decide (152 + n ≤ sg.length) && compositeVerifies k.key meas (slice sg 56 96) (sg.drop 152)
    | none => false

/-- Check 7, of the measurement `meas`. -/
def signatureOk (key : Option TenantKey) (bad : List (Nat × Nat)) (p : Parsed) (d meas : List Byte) : Checked Unit := do
  let hit := (bad.filter (fun x => decide (x.1 < p.mlen)) |>.map (·.1)).foldl min (2 ^ 64)
  need (decide (hit = 2 ^ 64)) stFaulted 7 (p.place hit).1 (p.place hit).2
  match key with
  | none => .ok ()
  | some k =>
    readable bad p.mlen d.length 7 0xFF 0
    need (decide (p.mlen < d.length) && sectionVerifies k meas (d.drop p.mlen)) stSignature 7 0xFF 0

/-! ## Check 8: partition map (R138) -/

def mapBroken (rings : List Nat) (r : List Byte) : Broken :=
  let set := leAt r 32 32
  let on := (List.range 256).filter (bit set)
  { form := decide (leAt r 0 4 ≠ on.length) || decide (leAt r 4 28 ≠ 0), own := on.any (fun i => !rings.contains i)
    bound := rings.any (fun i => !bit set i) }

/-! ## Check 9: consists and targets (R25, R139, R140, Table 1.5) -/

/-- A consist as its record defines it: its clusters in member order, and its member counts level by level. -/
structure CDef where
  c : Consist
  clusters : List Nat
  shape : List Nat
  bad : Broken
  deriving DecidableEq, Repr

def consistOf (r : List Byte) : Consist :=
  ⟨leAt r 0 2, leAt r 2 1, leAt r 3 1 == 1, words32 (leAt r 4 2) (r.drop 8)⟩

def ringClusters (i : Nat) : List Nat := (List.range 16).map (fun k => i * 16 + k)
def spanClusters (i : Nat) : List Nat := (List.range 256).map (fun k => i * 256 + k)

/-- The definition of an ID: that of the first record with it. -/
def defOf (defs : List CDef) (id : Nat) : Option CDef := defs.find? (fun x => x.c.id == id)

/-- One record, after those before it. -/
def defConsist (rings : List Nat) (defs : List CDef) (r : List Byte) : CDef :=
  let c := consistOf r
  let n := c.members.length
  let subs := c.members.filterMap (defOf defs)
  let first : List Nat := (subs.headD ⟨c, [], [], ⟨false, false, false⟩⟩).shape
  let shape : List Nat := n :: (match c.kind with | 0 => [] | 1 => [16] | 2 => [16, 16] | _ => first)
  let clusters : List Nat := match c.kind with
    | 0 => c.members
    | 1 => c.members.flatMap ringClusters
    | 2 => c.members.flatMap spanClusters
    | _ => subs.flatMap (fun x => x.clusters)
  let own : Bool := match c.kind with
    | 0 => c.members.any (fun g => !rings.contains (g / 16))
    | 1 => c.members.any (fun i => !rings.contains i)
    | 2 => c.members.any (fun k => !(List.range 16).all (fun i => rings.contains (k * 16 + i)))
    | _ => false
  let undef := decide (c.kind = 3) && decide (subs.length ≠ n)
  let form := !(decide (1 ≤ c.id) && decide (c.id ≤ 0xFFF)) || decide (3 < c.kind) || decide (1 < leAt r 3 1) ||
    decide (leAt r 6 2 ≠ 0) || (defOf defs c.id).isSome || decide ((dedup c.members).length ≠ n) || undef ||
    (decide (c.kind = 3) && subs.any (fun x => x.shape != first))
  ⟨c, clusters, shape, ⟨form, own, decide (n < 2) || decide (256 < n) || decide (4 < shape.length)⟩⟩

def defConsists (rings : List Nat) (rs : List (List Byte)) : List CDef :=
  rs.foldl (fun defs r => defs ++ [defConsist rings defs r]) []

/-- The rings of a set of clusters, if it holds whole rings. -/
def wholeRings (gs : List Nat) : Option (List Nat) :=
  let rings := dedup (gs.map (· / 16))
  if rings.all (fun i => (ringClusters i).all gs.contains) then some rings else none

/-- R140: what a record breaks in the light of the whole section. `seen` holds the rings of the targets before it. -/
def targetRules (defs : List CDef) : List Nat → List CDef → List Broken
  | _, [] => []
  | seen, x :: xs =>
    let rings := wholeRings x.clusters
    let f := if x.c.top then
        (match rings with
        | none => true
        | some l => l.any seen.contains || decide ((dedup x.clusters).length ≠ x.clusters.length))
      else !defs.any (fun y => decide (y.c.kind = 3) && y.c.members.contains x.c.id)
    let seen := if x.c.top && x.bad.code.isNone then seen ++ rings.getD [] else seen
    { x.bad with form := x.bad.form || f } :: targetRules defs seen xs

/-- The targets of an image (R140): top consists and lone rings. -/
def targetsOf (rings : List Nat) (defs : List CDef) : List Nat :=
  (defs.filter (fun x => x.c.top)).map (fun x => x.c.id) ++
    (rings.filter (fun i => !defs.any (fun x => x.clusters.any (fun g => g / 16 == i)))).map loneTarget

/-- Every ring lies in a target. -/
def allTargeted (rings : List Nat) (defs : List CDef) : Bool :=
  rings.all (fun i => !defs.any (fun x => x.clusters.any (fun g => g / 16 == i)) ||
    defs.any (fun x => x.c.top && x.clusters.any (fun g => g / 16 == i)))

def checkConsists (rings : List Nat) (rs : List (List Byte)) : Checked (List CDef) := do
  let defs := defConsists rings rs
  firstBroken 9 2 0 (targetRules defs [] defs)
  need (allTargeted rings defs) stFormat 9 2 0
  .ok defs

/-! ## Check 10: region tables (R141) -/

def tableWords (r : List Byte) : List Nat := words32 256 (r.drop 8)

def tableBroken (regions : List Nat) (spans : List Nat) (r : List Byte) : Broken :=
  let span := leAt r 0 1
  let ws := tableWords r
  let valid := (ws.filter (fun w => bit w 31)).map (· % 256)
  { form := decide (leAt r 1 7 ≠ 0) || spans.contains span || ws.any (fun w => decide (bits w 8 22 ≠ 0)) ||
      decide ((dedup valid).length ≠ valid.length)
    own := !regions.any (fun x => x / 256 == span) || valid.any (fun x => !regions.contains (span * 256 + x))
    bound := false }

/-- Each record with what came before it. -/
def withBefore {α β : Type} (f : List α → α → β) : List α → List α → List β
  | _, [] => []
  | before, x :: xs => f before x :: withBefore f (before ++ [x]) xs

def tablesOf (rs : List (List Byte)) : Tab Nat :=
  rs.foldl (fun m r => ((List.range 256).zip (tableWords r)).foldl (fun m x =>
    Tab.set 0 m (leAt r 0 1 * 256 + x.1) x.2) m) []

/-! ## Check 11: routes (R142, R271) -/

def routeRecOf (r : List Byte) : Route :=
  ⟨leAt r 0 2, leAt r 2 1, leAt r 3 1, (List.range (leAt r 4 1)).map (fun h => bits (leAt r 8 4) (2 * h) 2)⟩

/-- West hops come first and no hop reverses the one before. -/
def hopsOk : List Nat → Bool
  | a :: b :: l => !(decide (b = 3) && decide (a ≠ 3)) && decide (b ≠ (a + 2) % 4) && hopsOk (b :: l)
  | _ => true

/-- A path ends at its destination, and leaves the mesh nowhere else. -/
def pathOk : Nat → Nat → List Nat → Bool
  | at_, dst, [] => decide (at_ = dst)
  | at_, dst, h :: hs =>
    match farDie at_ h with
    | none => false
    | some far => if far < 16 then pathOk far dst hs else hs.isEmpty && decide (far = dst)

def routeBroken (rings : List Nat) (before : List (List Byte)) (r : List Byte) : Broken :=
  let x := routeRecOf r
  let ringOn (k : Nat) : Bool := rings.any (fun i => i / 16 == k)
  { form := decide (1023 < x.id) || before.any (fun y => (routeRecOf y).id == x.id) || decide (15 < x.src) ||
      decide (19 < x.dst) || decide (x.hops = []) || decide (16 < x.hops.length) || decide (leAt r 5 3 ≠ 0) ||
      decide (leAt r 12 4 ≠ 0) || !hopsOk x.hops || !pathOk x.src x.dst x.hops
    own := !ringOn x.src || (decide (x.dst < 16) && !ringOn x.dst), bound := false }

/-! ## Check 12: timetables (R143) -/

/-- 64-byte bundles as numbers. -/
def bundles : Nat → List Byte → List Nat
  | 0, _ => []
  | n + 1, b => leNat (b.take 64) :: bundles n (b.drop 64)

def ttTarget (r : List Byte) : Nat := leAt r 0 2
def ttClass (r : List Byte) : Nat := leAt r 2 1
def ttBundles (r : List Byte) : List Nat := bundles (leAt r 4 4) (r.drop 16)

def ttBroken (targets : List Nat) (before : List (List Byte)) (r : List Byte) : Broken :=
  let n := leAt r 4 4
  { form := !targets.contains (ttTarget r) || decide (1 < ttClass r) || decide (leAt r 3 1 ≠ 0) ||
      decide (leAt r 12 4 ≠ 0) || decide (n = 0) || decide (16252928 < n) || decide (n ≤ leAt r 8 4) ||
      before.any (fun y => ttTarget y == ttTarget r && ttClass y == ttClass r) || !bundlesOk n 0 (ttBundles r)
    own := false, bound := false }

def ttOf (r : List Byte) : Timetable := ⟨ttTarget r, ttClass r == 1, leAt r 8 4, (ttBundles r).map (BitVec.ofNat 512)⟩

/-! ## Check 13: stream programs and schedules (R144, R162, R183, R207) -/

def progTarget (r : List Byte) : Nat := leAt r 0 2
def progEng (r : List Byte) : Nat := leAt r 2 1
def progSlot (r : List Byte) : Nat := leAt r 3 1

/-- 64-bit instructions. -/
def words64 : Nat → List Byte → List Nat
  | 0, _ => []
  | n + 1, b => leNat (b.take 8) :: words64 n (b.drop 8)

def progWords (r : List Byte) : List Nat := words64 (leAt r 4 4 / 8) (r.drop 16)

/-- R162: the programs that a timetable's `STGO`s name are in the image. -/
def stgosBroken (progs : List (List Byte)) (r : List Byte) : Broken :=
  let have_ (x : Nat × Nat) : Bool :=
    progs.any (fun p => progTarget p == ttTarget r && progEng p == x.1 && progSlot p == x.2)
  ⟨(ttBundles r).any (fun b => (bundleStgos b).any (fun x => !have_ x)), false, false⟩

def progBroken (targets : List Nat) (before : List (List Byte)) (r : List Byte) : Broken :=
  let blen := leAt r 4 4
  let mine := before.filter (fun y => progTarget y == progTarget r && progEng y == progEng r)
  let total := mine.foldl (fun a y => a + leAt y 4 4 / 8) (blen / 8)
  { form := !targets.contains (progTarget r) || decide (3 < progEng r) || decide (31 < progSlot r) ||
      decide (blen % 8 ≠ 0) || decide (blen < 16) || decide (8192 < blen) || decide (leAt r 8 8 ≠ 0) ||
      mine.any (fun y => progSlot y == progSlot r) || !sProgOk (progWords r)
    own := false, bound := !sBoundsOk (progWords r) || decide (1024 < total) }

def progOf (r : List Byte) : StreamProg :=
  ⟨progTarget r, progEng r, progSlot r, (progWords r).map (BitVec.ofNat 64)⟩

def schedBroken (rings : List Nat) (before : List (List Byte)) (r : List Byte) : Broken :=
  let ring := leAt r 0 1
  let mine := before.filter (fun y => leAt y 0 1 == ring)
  let total := mine.foldl (fun a y => a + leAt y 4 4) (leAt r 4 4)
  { form := decide (15 < leAt r 1 1) || decide (leAt r 2 2 ≠ 0) || decide (leAt r 4 4 < 64) ||
      mine.any (fun y => leAt y 1 1 == leAt r 1 1) || !schedOk (leAt r 8 8) (r.drop 16)
    own := !rings.contains ring, bound := decide (16 ≤ mine.length) || decide (2 ^ 21 < total) }

def schedOf (r : List Byte) : SchedRec := ⟨leAt r 0 1, leAt r 1 1, leAt r 8 8, r.drop 16⟩

end Sys2Proof.Machine
end

