-- ==== Sys2Proof/Machine/ImageLoad.lean ====
section
/-! DEFINITION. Loading an image: the order, the end of its validation, its application (R145 to R151, R282 to R284, R300,
R437). -/

namespace Sys2Proof.Machine

/-! ## Reading the image (R147, R437) -/

/-- The bytes of a range, and the offsets of those that cannot be read: no entry maps them, their deck is not reached (R273), or
they are uncorrectable. -/
def State.readImage (s : State) (part pa n : Nat) : List Byte × List (Nat × Nat) :=
  (entryStarts pa n).foldl (fun acc a =>
    let len := min ((a / 2 ^ 24 + 1) * 2 ^ 24) (pa + n) - a
    match (s.translate part a).filter (fun x => s.homeReaches (some boxDie) x.1) with
    | none => (acc.1 ++ List.replicate len 0, acc.2 ++ [(a - pa, a - pa + len)])
    | some (dev, _) =>
      (acc.1 ++ s.deckBytes dev len,
       acc.2 ++ ((granules dev len).filter s.poisoned).map (fun g => (a - pa + (g - dev), a - pa + (g + 64 - dev)))))
    ([], [])

/-! ## Check 14: collective groups (R145, R282 to R284, R300) -/

def bucketOf (b : List Byte) : Bucket := ⟨leAt b 0 4, leAt b 4 1, leAt b 5 1, leAt b 8 8, leAt b 16 8⟩

def groupRecOf (r : List Byte) : GroupRec :=
  let nb := leAt r 13 1
  let nc := leAt r 14 1
  let gs := leAt r 4 2
  let ob := 128 + 8 * nc
  let on := ob + 32 * nb
  let oh := on + roundUp gs 8
  { gid := leAt r 0 2, op := leAt r 2 1, dclass := leAt r 3 1, gsize := gs, mypos := leAt r 6 2, tagbase := leAt r 8 3
    weight := leAt r 11 1, chunklog := leAt r 12 1, nreg := leAt r 15 1, tdone := leAt r 16 1, postn := leAt r 18 2
    timeout := leAt r 20 2, stage := leAt r 24 8, lagaddr := leAt r 32 8
    contrib := words64 nc (r.drop 128)
    buckets := (List.range nb).map (fun k => bucketOf (slice r (ob + 32 * k) 32))
    nexthop := (slice r on gs).map BitVec.toNat
    hosts := (List.range (leAt r 22 1)).map (fun k => (leAt r (oh + 16 * k) 2, leAt r (oh + 16 * k + 8) 8)) }

/-- Fields within their ranges, and reserved bytes zero. -/
def groupForm (r : List Byte) : Bool :=
  let g := groupRecOf r
  let nb := g.buckets.length
  let ob := 128 + 8 * g.contrib.length
  let on := ob + 32 * nb
  let oh := on + roundUp g.gsize 8
  let within (x lo hi : Nat) : Bool := decide (lo ≤ x) && decide (x ≤ hi)
  within g.gid 1 0xFF && within g.op 0 3 && within g.dclass 0 2 && within g.gsize 1 4096 && decide (g.mypos < g.gsize) &&
    within g.weight 1 255 && within g.chunklog 16 20 && within nb 1 64 && within g.contrib.length 1 255 &&
    (if g.op = 3 then within g.nreg 1 31 else g.nreg == 0) && within g.postn 1 65535 && within g.timeout 1 60000 &&
    within g.hosts.length 0 15 && leAt r 17 1 == 0 && leAt r 23 1 == 0 && leAt r 40 88 == 0 &&
    (List.range nb).all (fun k => leAt r (ob + 32 * k + 6) 2 == 0 && leAt r (ob + 32 * k + 24) 8 == 0) &&
    leAt r (on + g.gsize) (roundUp g.gsize 8 - g.gsize) == 0 &&
    (List.range g.hosts.length).all (fun k => leAt r (oh + 16 * k + 2) 6 == 0)

/-- What the fields of a record say together. -/
def GroupRec.agrees (g : GroupRec) : Bool :=
  let positions := g.hosts.map (·.1)
  ((g.op == 2) == (g.dclass == 2)) && (g.op != 2 || g.contrib.length == 1) &&
    (g.op != 3 || (g.dclass == 1 && g.buckets.length == 1)) &&
    g.buckets.all (fun b => if g.op = 3 then b.len == 8
      else decide (b.len % 64 = 0) && decide (2 ^ 20 ≤ b.len) && decide (b.len ≤ 2 ^ 26)) &&
    ((List.range g.gsize).zip g.nexthop).all (fun x =>
      let own := x.1 == g.mypos || positions.contains x.1
      if x.2 = 0xFF then own else !own && decide (x.2 / 2 ≤ 15)) &&
    positions.all (fun p => p != g.mypos && decide (p < g.gsize)) && decide ((dedup positions).length = positions.length)

/-- Bytes of the staging areas of all buckets (R288). -/
def GroupRec.stageLen (g : GroupRec) : Nat := g.stageOf g.buckets.length - g.stage

/-- Every area of a group translates; `s` has the image's own tables in force. -/
def State.groupMaps (s : State) (part : Nat) (g : GroupRec) : Bool :=
  let wide (b : Bucket) : Nat := if g.dclass = 2 then b.len else 2 * b.len
  (s.maps part g.lagaddr (16 * g.gsize) true) &&
    g.held.all (fun h => s.maps part (g.stage + h.2) g.stageLen true &&
      g.buckets.all (fun b => s.maps part (b.dst + h.2) b.len true &&
        g.contrib.all (fun c => s.maps part (c + b.srcoff + h.2) (wide b) false)))

/-- Whether every address of a group suits the values that lie there (R32): partials of 8 bytes, wire elements, the sums of the
lag table. -/
def GroupRec.aligned (g : GroupRec) : Bool :=
  decide (g.lagaddr % 8 = 0) && g.held.all (fun h => decide ((g.stage + h.2) % g.elt = 0) &&
    g.buckets.all (fun b => decide ((b.dst + h.2) % g.elt = 0) &&
      g.contrib.all (fun c => decide ((c + b.srcoff + h.2) % (if g.dclass = 2 then 1 else 8) = 0))))

/-- Groups of other partitions. -/
def State.otherGroups (s : State) (part : Nat) : List Group :=
  (s.groups.map (·.2)).filter (fun g => g.part != part)

def State.groupBroken (s : State) (part : Nat) (before : List (List Byte)) (r : List Byte) : Broken :=
  let g := groupRecOf r
  let others := s.otherGroups part
  let tags := others.map (fun x => x.rcd.tagbase) ++ before.map (fun y => (groupRecOf y).tagbase)
  { form := !groupForm r || !g.agrees || tags.contains g.tagbase || before.any (fun y => (groupRecOf y).gid == g.gid)
    own := false, bound := decide (16 ≤ others.length + before.length) || !s.groupMaps part g || !g.aligned }

/-! ## Check 15: constants (R146) -/

/-- Destination and data of a constants record. -/
def constOf (r : List Byte) : Nat × List Byte := (leAt r 0 8, slice r 16 (leAt r 8 4))

def State.constBroken (s : State) (part : Nat) (r : List Byte) : Broken :=
  let n := leAt r 8 4
  { form := decide (leAt r 12 4 ≠ 0), own := false
    bound := decide (n ≠ 0) && !s.maps part (leAt r 0 8) n true }

/-! ## The whole validation (Table 6.8) -/

/-- R143: classes as the header names them, and a timetable that each target can run. -/
def State.classesOk (s : State) (classes : Nat) (im : Image) (targets : List Nat) : Bool :=
  let has (c : Bool) : Bool := im.tts.any (fun t => t.c77 == c)
  decide (classes % 4 = b2n (has false) + 2 * b2n (has true)) &&
    targets.all (fun t => (im.timetable t true).isSome || (!s.targetC77 im t && (im.timetable t false).isSome))

/-- An image that passes, and its constants. -/
structure Valid where
  im : Image
  consts : List (Nat × List Byte)
  deriving DecidableEq, Repr

/-- Checks 8 to 13, on sections that have been read whole. -/
def State.checkSections (s : State) (part : Nat) (p : Parsed) (meas : List Byte) (signed : Bool) : Checked Image := do
  let q := s.part part
  firstBroken 8 1 0 ((p.recs 1).map (mapBroken q.rings))
  let defs ← checkConsists q.rings (p.recs 2)
  let targets := targetsOf q.rings defs
  firstBroken 10 4 0 (withBefore (fun b r => tableBroken q.regions (b.map (fun y => leAt y 0 1)) r) [] (p.recs 4))
  firstBroken 11 3 0 (withBefore (routeBroken q.rings) [] (p.recs 3))
  firstBroken 12 5 0 (withBefore (ttBroken targets) [] (p.recs 5))
  let im : Image :=
    { meas := meas, signed := signed, classes := p.classes, consists := defs.map (fun x => x.c)
      tables := tablesOf (p.recs 4), routes := (p.recs 3).map routeRecOf, tts := (p.recs 5).map ttOf
      progs := (p.recs 6).map progOf, scheds := (p.recs 7).map schedOf, groups := (p.recs 8).map groupRecOf }
  need (s.classesOk p.classes im targets) stFormat 12 5 0
  firstBroken 13 5 0 ((p.recs 5).map (stgosBroken (p.recs 6)))
  firstBroken 13 6 0 (withBefore (progBroken targets) [] (p.recs 6))
  firstBroken 13 7 0 (withBefore (schedBroken q.rings) [] (p.recs 7))
  .ok im

/-- Checks 3 to 15 of the bytes of an image. DESIGN CHOICE (log entry 38): what is checked is what is applied, whatever its own
constants write over the image's bytes. -/
def State.validate (s : State) (part : Nat) (d : List Byte) (bad : List (Nat × Nat)) : Checked Valid := do
  let q := s.part part
  let p ← parseImage bad d
  let meas := sha384 (d.take p.mlen)
  signatureOk q.key bad p d meas
  let im ← s.checkSections part p meas q.key.isSome
  let s' := s.setPart part { q with image := some im }
  firstBroken 14 8 0 (withBefore (s'.groupBroken part) [] (p.recs 8))
  firstBroken 15 9 0 ((p.recs 9).map (s'.constBroken part))
  .ok ⟨im, (p.recs 9).map constOf⟩

/-! ## Application (R150, R151, R323) -/

/-- The rings are off and the image takes the place of the one before: tables, routes, consists (with clear status blocks),
timetables, programs, schedules, groups. -/
def State.installImage (s : State) (part : Nat) (im : Image) : State :=
  let s := ((s.ringsOff (s.part part).rings).zeroStreams (s.part part).rings).freeGroups part
  (s.setPart part { s.part part with image := some im, stepno := 0, units := [] }).takeGroups part im.groups

/-- The load completes. -/
def State.endLoad (s : State) (part : Nat) (j : LoadJob) (st : PState) (code detail : Nat) (result : List (Nat × List Byte)) :
    State :=
  let s := s.setPart part { s.part part with st := st, job := .idle }
  let s := s.complete j.fn j.slot code detail result
  if code = stOk then s else s.reject part code

/-- Constants are written in order, up to one that would merge into a poisoned granule (R251, R257). -/
def State.putConsts (s : State) (part : Nat) : List (Nat × List Byte) → Bool × State
  | [] => (true, s)
  | c :: cs =>
    if s.partMerges part c.1 c.2 then (false, s)
    else State.putConsts (s.writePart part c.1 c.2) part cs

/-- An application that a hardware fault ends: the partition is in EMPTY, and the deck is as the fault left it (R151). -/
def State.failApply (s : State) (part : Nat) (j : LoadJob) : State :=
  let s := ((s.ringsOff (s.part part).rings).zeroStreams (s.part part).rings).freeGroups part
  (s.setPart part { s.part part with image := none, stepno := 0, units := [] }).endLoad part j .empty stFaulted 0 []

/-- An image that has passed is applied; `hwFault` says that a hardware fault occurs meanwhile. How many constants have been
written by then is open. -/
def State.applyImage (s : State) (part : Nat) (j : LoadJob) (v : Valid) (hwFault : Bool) : State :=
  if hwFault then
    let d := s.draw
    let n := Config.choice 10 d.1 (v.consts.length + 1)
    (((d.2.installImage part v.im).putConsts part (v.consts.take n)).2).failApply part j
  else match (s.installImage part v.im).putConsts part v.consts with
  | (true, s) => s.endLoad part j .ready stOk 0 [(64, v.im.meas)]
  | (false, s) => s.failApply part j

/-! ## Commands -/

/-- Images that the signal box validates now (R149). -/
def State.loads (s : State) : Nat :=
  (s.parts.filter (fun p => match p.2.job with
    | .load _ => true
    | _ => false)).length

/-- Whether a load stays as it was posted, for want of a context: none of its tests is made then (R149). -/
def State.loadWaits (s : State) : Bool := decide (4 ≤ s.loads)

/-- Reject a load with its detail word (R148). -/
def State.rejectLoad (s : State) (f slot part code detail : Nat) : State :=
  (s.complete f slot code detail []).reject part code

/-- `IMAGE_LOAD`: checks 1 and 2; with all four contexts busy the order stays as it is. -/
def execImageLoad (fn slot : Fin 64) (addr len : Word) (s : State) : Result :=
  .next (if s.loadWaits then s
    else s.vfOrder fn.val slot.val true false (fun s part =>
      let p := s.part part
      if !p.st.idleOne then s.rejectLoad fn.val slot.val part stConflict (1 * 2 ^ 24)
      else if decide (0 < len.toNat) && !s.boxMaps part addr.toNat len.toNat false then
        s.rejectLoad fn.val slot.val part stBounds (2 * 2 ^ 24)
      else s.setPart part { p with
        st := .loading, came := p.st, job := .load ⟨fn.val, slot.val, addr.toNat, len.toNat⟩ }))

/-- `IMAGE_VALIDATION_END`: `hwFault` says whether a hardware fault occurs during application, `wrong` how many erroneous bytes the
granules of the image meet, in order. An image at a channel that is retraining is read later (R260). -/
def execImageValidationEnd (part : Fin 64) (hwFault : Bool) (wrong : List Nat) (s : State) : Result :=
  let p := s.part part.val
  match p.job with
  | .load j =>
    if !s.rangeServes part.val j.addr j.len then .next s else
    let s := (s.fabricOn.fetchPart part.val j.addr j.len).meetPart part.val j.addr j.len wrong
    let x := s.readImage part.val j.addr j.len
    match s.validate part.val x.1 x.2 with
    | .error e => .next (s.endLoad part.val j p.came e.code e.detail [])
    | .ok v => .next (s.applyImage part.val j v hwFault)
  | _ => .next s

end Sys2Proof.Machine
end

