-- ==== Sys2Proof/Machine/Management.lean ====
section
/-! DEFINITION. Management sessions and the messages that act on the device as a whole (R341, R349, R350, R353, R367, R368,
R389, R407, R421). -/

namespace Sys2Proof.Machine

/-! ## Opening and ending a session (R368) -/

/-- Whether the management port answers. -/
def State.mgmtUp (s : State) : Bool := s.il.boot != .none_

def State.refuseSession (s : State) (i : Nat) : State := (s.setSession i none).note 0xFF nodeSb 368 1

/-- A management message has arrived: CORES wakes (R395), and the standing clock is at least at its tick. -/
def State.messageAt (s : State) (tick : Nat) : State :=
  { s.rouse with power := { s.rouse.power with tick := max s.power.tick tick } }

/-- The reply to a session-opening message: its tag is zero bytes (R421). -/
def State.openReply (s : State) (i : Nat) (x : Session) (data : List Byte) : State :=
  (s.setSession i (some { x with tx := x.tx + 1 })).emit
    (.reply i (x.tx + 1) 0 stOk (data.map BitVec.toNat) (List.replicate 48 0))

/-- `HELLO`: a session begins in a free place; with none free it is refused. -/
def execHello (sess : Fin 4) (tick : Nat) (s : State) : Result :=
  .next (if !s.mgmtUp then s
    else match s.session sess.val with
    | some _ => (s.messageAt tick).note 0xFF nodeSb 368 1
    | none => (s.messageAt tick).openReply sess.val ⟨.hello, none, 0, 0, tick, 0, [], [], []⟩ [])

/-- Whether an operator's chain is accepted: at most four links to the anchor, each verified by both signatures. -/
def State.chainOk (s : State) (chain : List Bool) : Bool :=
  s.il.anchor.isSome && decide (1 ≤ chain.length) && decide (chain.length ≤ 4) && chain.all id

/-- `CERTS`: the chains are presented. -/
def execCerts (sess : Fin 4) (chain : List Bool) (s : State) : Result :=
  .next (match s.session sess.val with
    | some x =>
      if x.stage ≠ .hello then s.rouse
      else if s.chainOk chain then s.rouse.openReply sess.val { x with stage := .certs } s.devCerts
      else s.rouse.refuseSession sess.val
    | none => s.rouse)

/-- `KEYSHARE`: the device draws its own ephemeral value and sends its share. -/
def execKeyshare (sess : Fin 4) (share : Nat) (s : State) : Result :=
  .next (match s.session sess.val with
    | some x =>
      if x.stage ≠ .certs then s.rouse
      else
        let own := s.rouse.random 48
        own.2.openReply sess.val { x with stage := .share, share := share, own := own.1 } (ephemeralShare own.1)
    | none => s.rouse)

/-- The key of a session, from the ECDH secret and the transcript hash, as R366 derives a link's (R368). -/
def sessionKey (own : List Byte) (share transcript : Nat) : List Byte :=
  hkdfExpand (hkdfExtract (ascii "HLN-MGMT-1") (ecdhSecret own share)) (toBe 48 transcript) 48

/-- `FINISH`: the transcript verifies, and the session's key is derived. -/
def execFinish (sess : Fin 4) (transcript : Option Nat) (tick : Nat) (s : State) : Result :=
  .next (match s.session sess.val with
    | some x =>
      if x.stage ≠ .share then s.messageAt tick
      else match transcript with
        | none => (s.messageAt tick).refuseSession sess.val
        | some h => (s.messageAt tick).openReply sess.val
            { x with stage := .open_, key := sessionKey x.own x.share h, last := max x.last tick } (s.transcriptSig h)
    | none => s.messageAt tick)

/-- `SESSION_TIMEOUT`: a timer that is due wakes CORES (R395). -/
def execSessionTimeout (sess : Fin 4) (tick : Nat) (s : State) : Result :=
  .next (match s.session sess.val with
    | some x => if x.last + sessLimit ≤ tick then (s.messageAt tick).setSession sess.val none else s
    | none => s)

/-! ## Firmware (R353) -/

/-- Bytes a chunk carries at most, and a slot holds. -/
def chunkMax : Nat := 61440
def slotMax : Nat := 32 * 2 ^ 20

/-- Chunks of an image, by offset, after one more: a chunk that does not follow restarts it. -/
def addChunk (l : List (Nat × List Byte)) (offset : Nat) (data : List Byte) : List (Nat × List Byte) :=
  match l.getLast? with
  | some (o, d) => if o + d.length = offset then l ++ [(offset, data)] else [(offset, data)]
  | none => [(offset, data)]

/-- The bytes that chunks carry. -/
def chunkBytes (l : List (Nat × List Byte)) : List Byte := l.flatMap (fun x => x.2)

/-- The signatures of an image, its vendor key not revoked. -/
def Interlock.signed (x : Interlock) (im : FwImage) : Bool :=
  !x.vkrev.testBit im.keySlot.val && im.keyHashOk && im.ecdsaOk && im.hssOk

/-- What a slot holds while it is being written: nothing that verifies (R409). -/
def partly (im : FwImage) : FwImage := { im with keyHashOk := false, ecdsaOk := false, hssOk := false }

/-- An image into the slot that did not boot. -/
def State.writeSlot (s : State) (im : FwImage) : State :=
  let x := s.il
  if x.slotB then { s with il := { x with flashA := some im } } else { s with il := { x with flashB := some im } }

/-- A whole image is verified, and written to the slot that did not boot; `cut` says that a reset comes while it is being written,
which leaves the slot partial and the order unanswered (R409). -/
def State.updateFirmware (s : State) (h : Mgmt) (l : List (Nat × List Byte)) (im : FwImage) (cut : Bool) : State :=
  let whole := decide ((l.head?.map (·.1)) = some 0)
  if !whole || !s.il.signed im then s.rejectMsg h 0xFF stSignature
  else if im.svn < s.il.floor ∨ slotMax < (chunkBytes l).length then s.rejectMsg h 0xFF stBounds
  else if cut then s.writeSlot (partly im)
  else (s.writeSlot im).reply h stOk []

/-- `FW_CHUNK`. -/
def execFwChunk (h : Mgmt) (offset : Nat) (data : List Byte) (last : Bool) (image : FwImage) (s : State)
    (cut : Bool := false) : Result :=
  .next (s.command h false true (fun s =>
    match s.session h.sess.val with
    | none => s
    | some x =>
      if chunkMax < data.length then s.rejectMsg h 0xFF stFormat
      else
        let l := addChunk x.chunks offset data
        let s := s.setSession h.sess.val (some { x with chunks := if last then [] else l })
        if last then s.updateFirmware h l image cut else s.reply h stOk []))

/-- `SVN_COMMIT`. -/
def execSvnCommit (h : Mgmt) (s : State) : Result :=
  .next (s.command h false false (fun s =>
    if s.il.svn ≤ s.il.floor then s.rejectMsg h 0xFF stConflict
    else if 63 < s.il.svn then s.rejectMsg h 0xFF stBounds
    else { s with il := { s.il with floor := s.il.svn } }.reply h stOk []))

/-- `RESET`: the device reset follows 10 ms after the reply. -/
def execReset (h : Mgmt) (s : State) : Result :=
  .next (s.command h true false (fun s => { s with power := { s.power with ordered := true } }.reply h stOk []))

/-! ## Lifecycle and anchor (R349, R350, R367) -/

/-- What forbids a lifecycle order. -/
def State.lifecycleBad (s : State) (target : Nat) (signed serialOk : Bool) : Option Nat :=
  if !signed then some stSignature
  else if !serialOk then some stOwnership
  else if !((s.il.lc == 1 && target == 2) || (s.il.lc == 2 && target == 3)) then some stConflict
  else if target = 3 ∧ s.parts.any (fun p => p.2.exists_) then some stConflict
  else none

/-- `LIFECYCLE`: the bytes of the token are what the message carries; the rest of the operands is what they say (log entry 13). -/
def execLifecycle (h : Mgmt) (target : BitVec 2) (ecdsaOk hssOk serialOk : Bool) (s : State) (_token : List Byte := []) : Result :=
  .next (s.command h false false (fun s =>
    match s.lifecycleBad target.toNat (ecdsaOk && hssOk) serialOk with
    | some code => s.rejectMsg h 0xFF code
    | none =>
      { s with il := { s.il with lc := target.toNat, attested := s.il.attested && decide (target ≠ 3) } }.reply h stOk []))

/-- `ANCHOR`, with the certificate: the first needs no session, since none can be opened without an anchor; its message wakes CORES
like any other (R395). -/
def execAnchor (h : Mgmt) (cert : List Byte) (signedByCurrent : Bool) (s : State) : Result :=
  match s.il.anchor with
  | none =>
    .next (if s.il.boot = .none_ then s
      else
        let s := s.rouse
        if !s.lands.provEn then s.rejectMsg h 0xFF stOwnership
        else if s.il.locked || s.il.boot == .recovery then s.rejectMsg h 0xFF stConflict
        else { s with il := { s.il with anchor := some cert } }.reply h stOk [])
  | some _ =>
    .next (s.commandOwn h (fun _ => signedByCurrent) (fun s =>
      { s with il := { s.il with anchor := some cert } }.reply h stOk []))

/-! ## Reports (R341, R421) -/

/-- The telemetry pages. -/
def State.telemetryPage (s : State) (page : Nat) : Option (List Nat) :=
  let p := s.power
  match page with
  | 0 => some ([p.power, p.cap, p.step, p.hotDie, p.hotDeck, b2n p.capsat, b2n p.thermFlag] ++ p.others ++ p.therm.map (fun t => t.step))
  | 1 => some ((List.range 256).map (fun i =>
      b2n (s.ring i).awake + 2 * b2n (s.repair.retired.contains i) + 4 * Tab.get 0 s.repair.spare i +
        128 * b2n (s.repair.failedSpares.contains i)))
  | 2 => some (s.repair.bypass.flatMap (fun x => [x.1, x.2, x.2 / 7]))
  | 3 => some ((List.range 16).flatMap (fun k =>
      let d := s.deck k
      [d.pow.code, d.readReg 0, d.readReg 4, d.readReg 8, d.readReg 0xC, d.readReg 0x10, d.readReg 0x14, d.readReg 0x18]))
  | 4 => some ((List.range 16).flatMap (fun n => let x := s.port n; [x.readReg 0, x.readReg 4, x.readReg 8]) ++
      s.edges.flatMap (fun e => [e.1, e.2.readReg 0, e.2.readReg 4]))
  | 5 => some (s.groups.flatMap (fun g => [g.1, g.2.readReg 0, g.2.readReg 4, g.2.readReg 8, g.2.readReg 0xC]))
  | _ => none

/-- `TELEMETRY`. -/
def execTelemetry (h : Mgmt) (page : Byte) (s : State) : Result :=
  .next (s.command h true false (fun s =>
    match s.telemetryPage page.toNat with
    | some l => s.reply h stOk l
    | none => s.rejectMsg h 0xFF stFormat))

def LogEntry.words (e : LogEntry) : List Nat := [e.tick, e.part, e.node, e.reg, e.cause]

/-- `EVENTLOG`: up to 256 entries from an index. -/
def execEventlog (h : Mgmt) (first : Nat) (s : State) : Result :=
  .next (s.command h false false (fun s =>
    s.reply h stOk (((s.log.drop first).take 256).flatMap LogEntry.words)))

/-- `METER_RECORD`, from the mirror. -/
def execMeterRecord (h : Mgmt) (seq : Nat) (s : State) : Result :=
  .next (s.command h false false (fun s =>
    match Tab.find s.mirror.records seq with
    | some r => s.reply h stOk (r.map BitVec.toNat)
    | none => s.rejectMsg h 0xFF stBounds))

/-- `METER_REG`, from the mirror. -/
def execMeterReg (h : Mgmt) (offset : Nat) (s : State) : Result :=
  .next (s.command h false false (fun s =>
    match s.mirror.regs.find? (fun r => r.1 == offset) with
    | some r => s.reply h stOk [r.2]
    | none => s.rejectMsg h 0xFF stBounds))

end Sys2Proof.Machine
end

