-- ==== Sys2Proof/Machine/MatrixArray.lean ====
section
/-! DEFINITION. The matrix slot's commands and the array's own events (04_matrix_array.md). -/

namespace Sys2Proof.Machine

def execMmul (i : Issue) (f : MmulF) (s : State) : Result := s.eachOp i slotCompute (.mmul i f) (fun t c => c.mmulOp t f)

/-- R84: the joins of the given ring cycle come about; the ring is brought to its end. -/
def execAccumulatorJoin (i : Issue) (s : State) : Result := s.ringEvent i (fun t r => r.finish i.ring t)

/-- `MSTART` of a bundle (R88, R94). -/
def execMstart (i : Issue) (s : State) : Result := s.eachOp i slotCompute (.mstart i) (fun t c => c.matrixOp (fun c => c.mstart t))

/-- `MSTOP` of a bundle. -/
def execMstop (i : Issue) (s : State) : Result := s.eachOp i slotCompute (.mstop i) (fun t c => c.matrixOp (fun c => c.mstop t))

/-- R89: the ramp steps that are due at the start of the given ring cycle. -/
def execRampStep (i : Issue) (s : State) : Result := s.ringEvent i (fun _ r => r)

def execMldw (i : Issue) (sd : Fin 32) (s : State) : Result := s.eachOp i slotLoad (.mldw i sd) (fun t c => c.mldwOp t sd)

/-- R81: the load cycle of the given ring cycle, its last one included, is made. -/
def execMldwComplete (i : Issue) (s : State) : Result := s.ringEvent i (fun t r => r.finish i.ring t)

def execMswap (i : Issue) (s : State) : Result := s.eachOp i slotSwap (.mswap i) (fun _ c => c.matrixOp (fun c => c.mswap))

def execMwr (i : Issue) (f : MwrF) (s : State) : Result := s.eachOp i slotOut (.mwr i f) (fun t c => c.mwrOp t f)

/-- R95: a column block's parity check fails in a cluster. -/
def execColumnCheckMismatch (cl : Fin 4096) (cycle : Nat) (col : Fin 84) (s : State) : Result :=
  let ring := cl.val / 16
  .next (s.atRing ring (fun r => r.event ring cycle (fun _ r =>
    r.put (cl.val % 16) ((r.get (cl.val % 16)).colchk col.val))))

/-- R92: the limit of an open queue runs out in the given ring cycle. -/
def execBatchLimitExpiry (i : Issue) (s : State) : Result := s.ringEvent i (fun t r => r.finish i.ring t)

/-- R93: batches whose last join has landed post their tokens in the given ring cycle. -/
def execBatchComplete (i : Issue) (s : State) : Result := s.ringEvent i (fun t r => r.finish i.ring t)

end Sys2Proof.Machine
end

