-- ==== Sys2Proof/Machine/MeterOps.lean ====
section
/-! DEFINITION. The Quinys meter's measurement, attribution, records and registers (15_quinys_meter.md), as
operations over the meter alone. -/

namespace Sys2Proof.Machine

/-! ## Measurement (R370, R371) -/

/-- Rated current of a group in mA (Table 15.1). -/
def ratedMa (g : Nat) : Int := [2400000, 2400000, 500000, 500000, 400000, 120000, 80000, 150000].getD g 0

/-- Accumulator units in one µJ: a sample of µV × mA lasts 1/16,000 s. -/
def rawPerUj : Nat := 16000000

/-- A group's cumulative energy in µJ. -/
def Meter.uj (m : Meter) (g : Nat) : Nat := m.raw.getD g 0 / rawPerUj

/-- A group's current after gain and offset (`QM_GAIN`, `QM_OFFS`). -/
def Meter.current (m : Meter) (g : Nat) (ma : Int) : Int :=
  ma * (m.gain.getD g 0).toNat / 2 ^ 30 + (m.offs.getD g 0).toInt

/-- 120 % of a group's rated current. -/
def clampMa (g : Nat) : Int := ratedMa g * 6 / 5

/-- A current beyond 120 % of rated. -/
def overCurrent (g : Nat) (ma : Int) : Bool := decide (clampMa g < ma ∨ ma < -clampMa g)

/-- A current clamped at 120 % of rated. -/
def clampCurrent (g : Nat) (ma : Int) : Int := min (max ma (-clampMa g)) (clampMa g)

/-- Conditions of a record's FLAGS, in the coding of Table 15.4. -/
def mfWorkloss : Nat := 1
def mfEvlate : Nat := 2
def mfOvr : Nat := 4
def mfUnmetered : Nat := 8
def mfSealbrk : Nat := 0x10
def mfNs : Nat := 0x20
def mfClkfail : Nat := 0x40
def mfUnsigned : Nat := 0x80

/-- Values of the 30-bit one-time key counter (R382). -/
def hssEnd : Nat := 2 ^ 30

/-- No one-time key remains. -/
def Meter.exhausted (m : Meter) : Bool := decide (hssEnd ≤ m.hss)

/-- The conditions that hold now. -/
def Meter.flagsNow (m : Meter) : Nat :=
  mfWorkloss * b2n (!m.silent.isEmpty) + mfEvlate * b2n m.evlate + mfOvr * b2n m.ovr
    + mfSealbrk * b2n (m.st == .sealbreak) + mfNs * b2n m.ns + mfClkfail * b2n m.clkfail + mfUnsigned * b2n m.exhausted

/-- Conditions are noted for the next record of every type. -/
def Meter.raise (m : Meter) (f : Nat) : Meter :=
  { m with since := (List.range 8).foldl (fun t k => Tab.set 0 t k (Tab.get 0 t k ||| f)) m.since }

/-- One decimated sample: voltage in µV and current in mA of every group. -/
def Meter.sample (m : Meter) (l : List (Int × Int)) : Meter :=
  let one := fun (g : Nat) => l.getD g (0, 0)
  let over_ := (List.range 8).any (fun g => overCurrent g (m.current g (one g).2))
  let m := { m with raw := (List.range 8).map (fun g =>
    ((m.raw.getD g 0 : Int) + (one g).1 * clampCurrent g (m.current g (one g).2)).toNat) }
  if over_ then ({ m with ovr := true }).raise mfOvr else m

/-! ## Registers (R391) -/

/-- `QM_STAT`. -/
def Meter.statReg (m : Meter) : Nat :=
  2 ^ 15 * b2n m.exhausted + 2 ^ 14 * b2n m.clkfail + 2 ^ 13 * b2n m.evlate + 2 ^ 12 * b2n (!m.silent.isEmpty)
    + 2 ^ 11 * b2n m.ovr + 2 ^ 8 * b2n m.ns
    + (match m.st with
       | .starting => 0
       | .measure => 1
       | .sealbreak => 2)

/-- The two words of a 64-bit register. -/
def words2 (off x : Nat) : List (Nat × Nat) := [(off, x % 2 ^ 32), (off + 4, x / 2 ^ 32 % 2 ^ 32)]

/-- Every `QM_` register with its offset. -/
def Meter.regs (m : Meter) : List (Nat × Nat) :=
  [(0, m.statReg), (8, m.refused), (0xC, m.breaks)] ++ words2 0x10 m.time ++ words2 0x18 m.recseq
    ++ (List.range 8).flatMap (fun g => words2 (0x100 + 8 * g) (m.uj g))
    ++ (List.range 8).flatMap (fun g =>
        [(0x200 + 8 * g, (m.gain.getD g 0).toNat), (0x204 + 8 * g, (m.offs.getD g 0).toNat)])
    ++ (List.range 8).map (fun g => (0x300 + 4 * g, m.alpha.getD g 0))

/-- Offsets of SEAL fields. -/
def sealOffset (o : Nat) : Bool :=
  decide (0x200 ≤ o ∧ o < 0x240 ∧ o % 4 = 0) || decide (0x300 ≤ o ∧ o < 0x320 ∧ o % 4 = 0)

/-- A value a SEAL field takes: α_g is at most 0x1_0000. -/
def sealValueOk (p : Nat × BitVec 32) : Bool :=
  sealOffset p.1 && (decide (p.1 < 0x300) || decide (p.2.toNat ≤ 0x10000))

/-- Write one SEAL field. -/
def Meter.setSeal (m : Meter) (p : Nat × BitVec 32) : Meter :=
  if 0x300 ≤ p.1 then { m with alpha := m.alpha.set ((p.1 - 0x300) / 4) p.2.toNat }
  else if p.1 % 8 = 0 then { m with gain := m.gain.set ((p.1 - 0x200) / 8) p.2 }
  else { m with offs := m.offs.set ((p.1 - 0x200) / 8) p.2 }

/-! ## Attribution (R376, R378, R379) -/

/-- Whether a span feeds a group. -/
def feeds (g span : Nat) : Bool := decide (4 ≤ g) || decide (span < 8 ↔ g % 2 = 0)

/-- N_g. -/
def ringsFed (g : Nat) : Nat := if g < 4 then 128 else 256

/-- Rings of a set that a group feeds. -/
def fedRings (g : Nat) (rings : List Nat) : Nat := (rings.filter (fun r => feeds g (r / 16))).length

/-- W_{p,g}: the rise in a partition's work on the spans a group is fed by. -/
def Meter.workOn (m : Meter) (part g : Nat) : Nat :=
  m.seen.foldl (fun a e => if e.1 % 256 = part ∧ feeds g (e.1 / 256) then a + e.2.rise else a) 0

/-- ΣW_g over the open accounts. -/
def Meter.workAll (m : Meter) (g : Nat) : Nat := m.accounts.foldl (fun a x => a + m.workOn x.part g) 0

/-- Whether a span a group is fed by has been silent for 10 s. -/
def Meter.silentOn (m : Meter) (g : Nat) : Bool := m.silent.any (feeds g)

/-- E_g: the energy of the interval. -/
def Meter.intervalUj (m : Meter) (g : Nat) : Nat := m.uj g - m.mark.getD g 0

/-- A_{p,g} of R379, for an interval of `t` milliseconds. -/
def creditOf (e alpha held n t w wsum : Nat) : Nat :=
  e * alpha * held / (65536 * n * t) + (if wsum = 0 then 0 else e * (65536 - alpha) * w / (65536 * wsum))

def Meter.credit (m : Meter) (t : Nat) (x : Account) (g : Nat) : Nat :=
  creditOf (m.intervalUj g) (m.alpha.getD g 0) (fedRings g x.rings * t) (ringsFed g) t (m.workOn x.part g)
    (if m.silentOn g then 0 else m.workAll g)

/-- The sum of a value over the eight groups. -/
def overGroups (f : Nat → Nat) : Nat := (List.range 8).foldl (fun a g => a + f g) 0

/-- An account after an interval. -/
def Meter.credited (m : Meter) (t : Nat) (x : Account) : Account :=
  { x with
    energy := x.energy + overGroups (m.credit t x)
    work := x.work + m.workOn x.part 4
    heldMs := x.heldMs + x.rings.length * t }

/-- What accounts receive together in an interval. -/
def Meter.creditedAll (m : Meter) (t : Nat) : Nat :=
  m.accounts.foldl (fun a x => a + overGroups (m.credit t x)) 0

/-- An interval ends at a millisecond: its energy is attributed, the unallocated account takes the rest, accepted values
apply, and the copy the serial port reads is made. An interval of no length stays open. -/
def Meter.endInterval (m : Meter) (ms : Nat) : Meter :=
  let m := { m with time := max m.time ms }
  let t := m.time - m.start
  if t = 0 then m
  else
    let m1 := { m with
      accounts := m.accounts.map (m.credited t)
      unalloc := m.unalloc + (overGroups m.intervalUj - m.creditedAll t)
      mark := (List.range 8).map m.uj
      seen := m.seen.map (fun e => (e.1, { e.2 with rise := 0 }))
      start := m.time
      next := [] }
    let m2 := m.next.foldl Meter.setSeal m1
    { m2 with saved := m2.raw, copy := m2.regs, copyRecs := m2.records, evlate := false, ovr := false }

/-- A good work frame (R376): a count of a new epoch counts from zero. -/
def Meter.takeFrame (m : Meter) (f : WorkFrame) : Meter :=
  let span := f.span.val
  let m := { m with silent := setDel span m.silent }
  if 64 ≤ f.part.toNat then m
  else
    let key := span * 256 + f.part.toNat
    let w := Tab.get ⟨0, 0, 0⟩ m.seen key
    let base := if w.epoch = f.epoch.toNat then w.cum else 0
    let x : WorkSeen := ⟨f.epoch.toNat, f.cumwork.toNat, w.rise + (f.cumwork.toNat + 2 ^ 64 - base) % 2 ^ 64⟩
    { m with seen := Tab.ins key x m.seen }

/-! ## Records (R381 to R383) -/

/-- The meter's key. -/
def cvMeterKey : List Nat := [22]
def cvMeterHss : List Nat := [23]

/-- An account entry. -/
def Account.entry (x : Account) (closed : Option Nat) : List Byte :=
  toLe 4 x.num ++ toLe 4 x.part ++ toLe 8 x.energy ++ toLe 8 x.work ++ toLe 8 x.heldMs ++ toLe 8 x.opened
    ++ toLe 8 (closed.getD (2 ^ 64 - 1))

/-- A record's header (Table 15.4). -/
def Meter.header (m : Meter) (ty nacc : Nat) : List Byte :=
  ascii "QMRC" ++ toLe 1 ty ++ toLe 1 (Tab.get 0 m.since ty ||| m.flagsNow) ++ toLe 2 nacc ++ toLe 8 m.recseq
    ++ toLe 8 m.time ++ toLe 4 m.breaks ++ toLe 4 m.refused ++ toBe 48 m.fw
    ++ (List.range 8).flatMap (fun g => toLe 8 (m.uj g)) ++ toLe 8 m.unalloc ++ toLe 8 0

/-- Bytes the record store holds. -/
def storeBytes : Nat := 67108864

/-- Bytes of the records held. -/
def recordBytes (t : Tab (List Byte)) : Nat := t.foldl (fun a r => a + r.2.length) 0

/-- Drop the oldest records until the store holds the rest. -/
def trimRecords : Tab (List Byte) → Tab (List Byte)
  | [] => []
  | r :: t => if recordBytes (r :: t) ≤ storeBytes then r :: t else trimRecords t

/-- The next one-time key, reserved ahead in steps of 1,024 (R382). -/
def Meter.takeKey (m : Meter) : Meter :=
  { m with hss := m.hss + 1, hssCeil := if m.hss < m.hssCeil then m.hssCeil else m.hss / 1024 * 1024 + 1024 }

/-- A record is written, signed by two trees of height 15, stored, and left to the mailbox. What holds now also holds after it
(R381). -/
def Meter.writeRecord (m : Meter) (ty : Nat) (entries : List (List Byte)) : Meter :=
  let body := m.header ty (if ty = 5 then 0 else entries.length) ++ entries.flatten
  let sig := if m.exhausted then [] else compositeSigOf 15 cvMeterKey m.hss body
  let m1 := if m.exhausted then m else m.takeKey
  { m1 with
    records := trimRecords (m.records ++ [(m.recseq, body ++ toLe 4 sig.length ++ sig)])
    unsent := m.unsent ++ [m.recseq]
    recseq := m.recseq + 1
    since := Tab.set 0 m.since ty m.flagsNow }

/-! ## Accounts (R377, R378) -/

/-- The open account of a partition is closed, with its close record. -/
def Meter.closeAcct (m : Meter) (part : Nat) : Meter :=
  match m.accounts.find? (fun x => x.part == part) with
  | none => m
  | some x =>
    ({ m with accounts := m.accounts.filter (fun y => y.part ≠ part) }).writeRecord 2 [x.entry (some m.time)]

/-- An account of a partition is opened, with its open record. -/
def Meter.openAcct (m : Meter) (part : Nat) (rings : List Nat) : Meter :=
  let x : Account := ⟨m.nextAcct, part, rings, 0, 0, 0, m.time⟩
  ({ m with accounts := m.accounts ++ [x], nextAcct := m.nextAcct + 1 }).writeRecord 3 [x.entry none]

/-- Milliseconds of an hour. -/
def hourMs : Nat := 3600000

/-- The record of the hour that ends at a millisecond, once: an entry for every account open then. -/
def Meter.hourEnd (m : Meter) (ms : Nat) : Meter :=
  if ms % hourMs = 0 ∧ m.hour < ms / hourMs then
    let m := m.endInterval ms
    { m.writeRecord 1 (m.accounts.map (fun x => x.entry none)) with hour := ms / hourMs }
  else m

/-- A partition event takes effect in the millisecond of its receipt, after the end of an hour in it (R378). -/
def Meter.event (m : Meter) (ev : PEvent) (part : Nat) (rings : List Nat) (ms : Nat) : Meter :=
  let m := ((m.hourEnd ms).endInterval ms).closeAcct part
  match ev with
  | .teardown => { m with sets := Tab.del part m.sets }
  | _ => ({ m with sets := Tab.ins part rings m.sets }).openAcct part rings

/-- The ring set that a snapshot gives a partition. -/
def shownSet (sets : List (Nat × List Nat)) (id : Nat) : Option (List Nat) := (sets.find? (fun x => x.1 == id)).map (·.2)

/-- The events that the ring sets of a snapshot reveal: partitions gone, then partitions come. Where no event is known to be missed
(`same`), a ring set that changed is no event (R328). -/
def Meter.revealed (m : Meter) (same : Bool) (sets : List (Nat × List Nat)) : List (PEvent × Nat × List Nat) :=
  let kept := fun (id : Nat) => shownSet sets id == Tab.find m.sets id ||
    (same && (shownSet sets id).isSome && (Tab.find m.sets id).isSome)
  (m.sets.filter (fun x => !(kept x.1))).map (fun x => (PEvent.teardown, x.1, x.2)) ++
    (sets.filter (fun x => !(kept x.1))).map (fun x => (PEvent.creation, x.1, x.2))

/-- Missed events that the ring sets do not show, a bind, an unbind: they close an account and open the next of some partitions,
of which ones is open (log entry 60). -/
def Meter.reopen (m : Meter) (sets : List (Nat × List Nat)) : Meter :=
  let l := sets.filter (fun x => shownSet sets x.1 == Tab.find m.sets x.1 && Config.rebound m.recseq x.1)
  l.foldl (fun m x => (m.closeAcct x.1).openAcct x.1 x.2) m

/-- Ring sets that changed with no event, by retirements (R328): the accounts go on with the rings shown, from the receipt on
(log entry 60). -/
def Meter.reheld (m : Meter) (sets : List (Nat × List Nat)) (ms : Nat) : Meter :=
  let now (part : Nat) (rings : List Nat) : List Nat := (shownSet sets part).getD rings
  let m : Meter := { m with sets := m.sets.map (fun x => (x.1, now x.1 x.2)) }
  if m.accounts.all (fun a => now a.part a.rings == a.rings) then m
  else
    let m := m.endInterval ms
    { m with accounts := m.accounts.map (fun (a : Account) => { a with rings := now a.part a.rings }) }

/-- A snapshot (R377): events that it shows to be missed, by its number or by what it holds, are applied late: EVLATE holds for
the interval that begins with them. -/
def Meter.snapshot (m : Meter) (sets : List (Nat × List Nat)) (seq ms : Nat) : Meter :=
  if seq < m.evseq then m
  else
    let lost := m.missed + (seq - m.evseq)
    let l := m.revealed (lost == 0) sets
    let m : Meter := { m with evseq := seq, missed := 0 }
    if lost = 0 ∧ l.isEmpty then m.reheld sets ms
    else
      let m := (m.hourEnd ms).endInterval ms
      let m := ({ m with evlate := true }).raise mfEvlate
      let m := if l.length < lost then m.reopen sets else m
      (l.foldl (fun m e => m.event e.1 e.2.1 e.2.2 ms) m).reheld sets ms

/-! ## Change orders (R386) -/

/-- The status of a change order. -/
def Meter.judge (m : Meter) (o : ChangeOrder) : Nat :=
  if m.st ≠ .sealbreak then stConflict
  else if !o.credentialOk ∨ m.nonce ≠ some o.nonce ∨ o.breaks ≠ m.breaks then stSignature
  else if !o.wellFormed ∨ (o.values.isEmpty ∧ o.firmware.isNone) ∨ !(o.values.all sealValueOk)
      ∨ (o.firmware.isSome ∧ !o.fwCarriesBoth) then stFormat
  else if o.firmware.isSome ∧ !o.fwVerifies then stSignature
  else stOk

/-- The register values that a seal-break end record carries, as an entry each (log entry 60). -/
def Meter.newValues (m : Meter) : List (List Byte) := m.changed.map (fun p => toLe 4 p.1 ++ toLe 4 p.2.toNat)

/-- A change order is refused, and counted. -/
def Meter.refuse (m : Meter) : Meter := ({ m with refused := satInc 32 m.refused }).writeRecord 7 []

/-- A change order, with its nonce spent. -/
def Meter.change (m : Meter) (o : ChangeOrder) : Meter :=
  let st := m.judge o
  let m : Meter := { m with time := max m.time o.ms }
  let m := if m.nonce = some o.nonce then { m with nonce := none } else m
  if st = stOk then
    { m with
      next := m.next ++ o.values
      changed := m.changed ++ o.values
      nextFw := (match o.firmware with
                 | some f => some f
                 | none => m.nextFw) }
  else m.refuse

/-! ## The meter certificate (R382) -/

/-- The meter's public key. -/
def meterKey : List Byte :=
  compositeKey (ecPoint cvMeterKey) ([0, 0, 0, 2, 0, 0, 0, 7, 0, 0, 0, 3] ++ Config.cryptoBytes cvMeterHss 48)

/-- The certificate the vendor issued; `ns` is the variant. -/
def meterCert (ns : Bool) : List Byte :=
  vendorCert 1 (nameOf (ascii "HLN-BK1 meter")) (derSeq [derSeq [oidT 1 2], derBits meterKey]) (vendorExts meterKey ns)

/-! ## Work frames (R375) -/

/-- A work frame's bytes (Table 15.3). -/
def workFrameBytes (span part epoch seq cum : Nat) : List Byte :=
  let b := toLe 1 span ++ toLe 1 part ++ toLe 1 epoch ++ toLe 1 0 ++ toLe 4 seq ++ toLe 8 cum ++ List.replicate 12 0
  b ++ toLe 4 (crc32 b)

end Sys2Proof.Machine
end

