-- ==== Sys2Proof/Machine/Meter.lean ====
section
/-! DEFINITION. Commands of the Quinys meter (15_quinys_meter.md). -/

namespace Sys2Proof.Machine

/-- The meter acts while its supply is up (R373). -/
def State.onMeter (s : State) (f : Meter → Meter) : State :=
  if s.meter.st = .starting then s else { s with meter := f s.meter }

/-- The serial port answers while the meter runs. -/
def State.serial (s : State) (reply : List Nat) : State :=
  if s.meter.st = .starting then s else s.emit (.meter reply)

/-! ## The work-count chain (R374 to R376) -/

/-- Partitions that hold a ring on a span. -/
def State.workParts (s : State) (span : Nat) : List Nat :=
  (s.parts.filter (fun p => p.2.rings.any (fun r => r / 16 == span))).map (fun p => p.1)

/-- A span sends one frame. -/
def State.sendWork (s : State) (span part : Nat) : State :=
  let x := s.span span
  let w := if part = 255 then ⟨0, 0⟩ else Tab.get ⟨0, 0⟩ x.work part
  (s.setSpan span { x with wseq := (x.wseq + 1) % 2 ^ 32 }).emit
    (.workFrame (workFrameBytes span part w.epoch x.wseq w.cum))

/-- `WORK_FRAME_SEND`. -/
def execWorkFrameSend (span : Fin 16) (s : State) : Result :=
  let s := (List.range 16).foldl (fun s k => s.takeWork (span.val * 16 + k)) s
  .next (match s.workParts span.val with
    | [] => s.sendWork span.val 255
    | l => l.foldl (fun s p => s.sendWork span.val p) s)

/-- `WORK_FRAME_RECEIVE`. A frame whose CRC fails, or that names no partition, is discarded (R375, R390). -/
def execWorkFrameReceive (f : WorkFrame) (s : State) : Result :=
  .next (if f.crcOk ∧ (f.part.toNat < 64 ∨ f.part.toNat = 255) then s.onMeter (fun m => m.takeFrame f) else s)

/-- `WORKLOSS_TIMEOUT`: no good frame of a span for 10 s. -/
def execWorklossTimeout (span : Fin 16) (s : State) : Result :=
  .next (s.onMeter (fun m => ({ m with silent := setIns span.val m.silent }).raise mfWorkloss))

/-! ## Partition events (R377) -/

/-- `PARTITION_EVENT_FRAME`. A frame whose CRC fails is discarded (R390). An event already applied is not applied again; one whose
number does not follow shows that another was missed. -/
def execPartitionEventFrame (ev : Framed PEvent) (part : Fin 64) (rings : List Nat) (seq ms : Nat) (s : State) : Result :=
  .next (s.onMeter (fun m => if !ev.ok || decide (seq ≤ m.evseq) then m
    else ({ m with evseq := seq, missed := m.missed + (seq - (m.evseq + 1)) }).event ev.body part.val rings ms))

/-- What the signal box's snapshot holds: every partition's ring set (R377). -/
def State.ringSets (s : State) : List (Nat × List Nat) := (s.parts.filter (fun p => p.2.exists_)).map (fun p => (p.1, p.2.rings))

/-- `SNAPSHOT_FRAME`: the signal box sends a snapshot, with the number of its last event; the operands say whether it comes to the
meter, with its fixed layout and a CRC that checks, and in which meter millisecond (R377, R390). -/
def execSnapshotFrame (comes formed crcOk : Bool) (ms : Nat) (s : State) : Result :=
  .next (if s.il.boot = .none_ then s
    else
      let t := s.emit (.snapshot s.ringSets s.evseq)
      if comes && formed && crcOk then t.onMeter (fun m => m.snapshot s.ringSets s.evseq ms) else t)

/-! ## Intervals and records (R378 to R381) -/

/-- `INTERVAL_BOUNDARY`, at a whole second of the meter clock. -/
def execIntervalBoundary (ms : Nat) (s : State) : Result :=
  .next (if ms % 1000 = 0 then s.onMeter (fun m => m.endInterval ms) else s)

/-- `HOUR_RECORD`: an entry for every account open at the end of the hour. -/
def execHourRecord (ms : Nat) (s : State) : Result := .next (s.onMeter (fun m => m.hourEnd ms))

/-- `ENERGY_SAMPLE`. -/
def execEnergySample (samples : List (Int × Int)) (s : State) : Result :=
  .next (s.onMeter (fun m => m.sample samples))

/-! ## Seal-break (R384 to R386) -/

/-- `SEAL_BREAK_ASSERT`. -/
def execSealBreakAssert (ms : Nat) (s : State) : Result :=
  .next (if s.meter.st = .measure then
      let m := { s.meter with st := .sealbreak, breaks := satInc 32 s.meter.breaks, time := max s.meter.time ms }
      { s with meter := (m.raise mfSealbrk).writeRecord 4 [], lands := { s.lands with sealN := false } }
    else s)

/-- `SEAL_BREAK_RELEASE`: accepted firmware is installed; the end record carries its FWMEAS and the new register values. -/
def execSealBreakRelease (ms : Nat) (s : State) : Result :=
  .next (if s.meter.st = .sealbreak then
      let m := { s.meter with
        st := .measure, fw := s.meter.nextFw.getD s.meter.fw, nextFw := none, time := max s.meter.time ms }
      { s with meter := { m.writeRecord 5 m.newValues with changed := [] }, lands := { s.lands with sealN := true } }
    else s)

/-! ## Supply and crystal (R372, R373) -/

/-- `METER_SUPPLY_FAIL`: everything is committed, or, where the hold-up is too short, the energy since the last boundary is lost
(whether it is, is a free value); the nonce is lost. -/
def execMeterSupplyFail (s : State) : Result :=
  let d := s.draw
  let m := s.meter
  .next { d.2 with meter := { m with
    st := .starting, nonce := none, raw := if Config.heldUp d.1 then m.raw else m.saved } }

/-- `METER_START`: the one-time keys resume at the end of their reservation (R382). -/
def execMeterStart (start : MeterStart) (s : State) : Result :=
  .next (if s.meter.st = .starting then
      let m := { s.meter with st := .measure, hss := s.meter.hssCeil, time := max s.meter.time start.ms }
      let m := (if start.powered then m.raise mfUnmetered else m).writeRecord 6 []
      { s with meter := { m with copy := m.regs, copyRecs := m.records } }
    else s)

/-- `CRYSTAL_FAIL`. -/
def execCrystalFail (s : State) : Result :=
  .next { s with meter := ({ s.meter with clkfail := true }).raise mfClkfail }

/-- `CRYSTAL_RETURN`. -/
def execCrystalReturn (s : State) : Result := .next { s with meter := { s.meter with clkfail := false } }

/-! ## The mailbox land (R389) -/

/-- `MAILBOX_OUTPUT`: a copy of every register, and each new record that the store still holds. -/
def execMailboxOutput (s : State) : Result :=
  .next (if s.meter.st = .starting then s
    else
      let m := s.meter
      let recs := m.unsent.filterMap (fun q => (Tab.find m.records q).map (fun r => (q, r)))
      let s := { s with
        meter := { m with unsent := [] }
        mirror := { s.mirror with wire := s.mirror.wire ++ [(m.copy, recs)] } }
      s.emit (.mailbox (m.copy.flatMap (fun r => toLe 4 r.1 ++ toLe 4 r.2) ++ recs.flatMap (fun r => r.2))))

/-- `METER_MAILBOX_RECEIVE`: the oldest output on its way reaches the mirror. -/
def execMeterMailboxReceive (s : State) : Result :=
  .next (match s.mirror.wire with
    | [] => s
    | (regs, recs) :: rest =>
      { s with mirror := ⟨regs, recs.foldl (fun t r => Tab.ins r.1 r.2 t) s.mirror.records, rest⟩ })

/-! ## The serial port (R388, Table 15.5) -/

/-- A malformed frame receives a FORMAT reply. -/
def State.malformed (s : State) : State := s.serial [stFormat]

/-- `GET_REG`, from the copy of the last boundary. -/
def execGetReg (offset : Framed Nat) (s : State) : Result :=
  .next (if !offset.ok then s.malformed
    else s.serial (match s.meter.copy.find? (fun r => r.1 == offset.body) with
    | some r => [stOk, r.2]
    | none => [stBounds]))

/-- `GET_RECORD`, from the copy of the last boundary. -/
def execGetRecord (seq : Framed Nat) (s : State) : Result :=
  .next (if !seq.ok then s.malformed
    else s.serial (match Tab.find s.meter.copyRecs seq.body with
    | some r => stOk :: r.map BitVec.toNat
    | none => [stBounds]))

/-- `GET_CERT`. -/
def execGetCert (s : State) : Result := .next (s.serial (stOk :: (meterCert s.meter.ns).map BitVec.toNat))

/-- `GET_NONCE`. -/
def execGetNonce (s : State) : Result :=
  let n := s.meter.nonces
  .next ((s.serial (stOk :: (Config.cryptoBytes [24, n] 32).map BitVec.toNat)).onMeter
    (fun m => { m with nonces := n + 1, nonce := some n }))

/-- `CHANGE`. -/
def execChange (o : Framed ChangeOrder) (s : State) : Result :=
  .next (if !o.ok then s.malformed else (s.serial [s.meter.judge o.body]).onMeter (fun m => m.change o.body))

end Sys2Proof.Machine
end

