-- ==== Sys2Proof/Machine/Partitions.lean ====
section
/-! DEFINITION. Creating, binding, halting and ending partitions; functions and their resets (R130 to R133, R173,
R178, R337, R338, R412, R417 to R419, R421). -/

namespace Sys2Proof.Machine

/-- State codes of the status page (Table 17.6). -/
def PState.code : PState → Nat
  | .absent => 0 | .empty => 1 | .loading => 2 | .ready => 3 | .running => 4 | .replan => 5 | .teardown => 6

/-! ## Creation (R131, R313) -/

/-- Blocks the limits of the existing partitions, and one more, may take on a siding die (R313). -/
def State.limitSum (s : State) (die extra : Nat) : Nat :=
  ((s.parts.filter (fun p => p.2.exists_)).map (fun p => (s.siding die).jlimit p.1)).foldl (· + ·) 0 +
    (s.siding die).jlimit extra

/-- The identifier a creation takes: the one named, or the lowest free one. -/
def State.newIdent (s : State) (want : Nat) : Option Nat :=
  if want = 0xFF then (List.range 64).find? (fun k => !(s.part k).exists_) else some want

/-- What forbids a creation (R131, R313, R336, R349). -/
def State.createBad (s : State) (want : Nat) (rings : List Nat) (regions : List (Nat × Nat)) : Option Nat :=
  if rings.any (fun r => (s.partOf r).isSome) || regions.any (fun x => (s.regionHolder x.1 x.2).isSome) then
    some stOwnership
  else if s.il.lc = 0 ∨ s.il.lc = 3 then some stConflict
  else match s.newIdent want with
  | none => some stBounds
  | some id =>
    if id < 64 ∧ (s.part id).exists_ then some stConflict
    else if 64 ≤ id ∨ rings = [] then some stBounds
    else if rings.any (fun r => decide (256 ≤ r) || s.repair.retired.contains r) then some stBounds
    else if regions.any (fun x => decide (16 ≤ x.1) || decide (256 ≤ x.2) || (s.deck x.1).withdrawn.contains x.2) then
      some stBounds
    else if 8192 < s.limitSum 0 id ∨ 8192 < s.limitSum 1 id then some stBounds
    else none

/-- A deck that is off wakes and is scrubbed before a region of it is granted (R395, R399). -/
def State.wakeForGrant (s : State) (span : Nat) : State :=
  if (s.deck span).pow = .off then s.fabricOn.deckOn span
  else if s.power.unc then s.deckOn span
  else s

/-- R374: a span's work count of a partition identifier that is written into one of its rings starts anew. -/
def State.newWork (s : State) (id span : Nat) : State :=
  let x := s.span span
  let w := Tab.get ⟨0, 0⟩ x.work id
  s.setSpan span { x with work := Tab.ins id ⟨0, (w.epoch + 1) % 256⟩ x.work }

/-- The partition comes into being, asleep, in EMPTY; the owner records name it. -/
def State.createPart (s : State) (id : Nat) (rings : List Nat) (regions : List (Nat × Nat)) : State :=
  let p := s.part id
  let s := s.setPart id { Partition.reset with
    st := .empty, came := .empty, tenancy := p.tenancy
    rings := rings.foldl (fun l r => setIns r l) []
    regions := regions.foldl (fun l x => setIns (x.1 * 256 + x.2) l) [] }
  let s := regions.foldl (fun s x =>
    let s := s.wakeForGrant x.1
    let d := s.deck x.1
    s.setDeck x.1 { d with owner := Tab.ins x.2 (id + 1) d.owner }) s
  let s := (dedup (rings.map (· / 16))).foldl (fun s k => s.newWork id k) s
  s.meterEvent .creation id (s.part id).rings

/-- Whether no other partition holds what a creation names (R131). -/
def State.createOwn (s : State) (rings : List Nat) (regions : List (Nat × Nat)) : Bool :=
  !(rings.any (fun r => (s.partOf r).isSome) || regions.any (fun x => (s.regionHolder x.1 x.2).isSome))

/-- `CREATE`. -/
def execCreate (h : Mgmt) (part : Byte) (rings : List Nat) (regions : List (Nat × Nat)) (s : State) : Result :=
  .next (s.commandOwn h (fun s => s.createOwn rings regions) (fun s =>
    match s.createBad part.toNat rings regions with
    | some code => s.rejectMsg h 0xFF code
    | none =>
      let id := (s.newIdent part.toNat).getD 0
      (s.createPart id rings regions).reply h stOk [id]))

/-! ## Teardown and halt (R133, R178) -/

/-- A bind or unbind order whose tenancy's end a teardown overtakes. -/
def State.overtake (s : State) (part : Nat) : State :=
  match (s.part part).job with
  | .ending (some k) _ _ => s.completeBad 0 k part stConflict
  | _ => s

/-- `TEARDOWN`. -/
def execTeardown (h : Mgmt) (part : Fin 64) (s : State) : Result :=
  .next (s.command h true false (fun s =>
    match (s.part part.val).st with
    | .absent => s.rejectMsg h part.val stConflict
    | .teardown => s.rejectMsg h part.val stConflict
    | _ => (s.overtake part.val).beginEnd part.val (.teardown h false) .teardown))

/-- R133 step 1: no hold was reached in 10 ms; a timer that is due wakes CORES (R395). -/
def execTeardownHaltTimeout (part : Fin 64) (s : State) : Result :=
  .next (match (s.part part.val).job with
    | .teardown _ false => s.rouse.powerOffEnd part.val
    | .ending _ _ false => s.rouse.powerOffEnd part.val
    | _ => s)

/-- `HALT`, of a tenant or of the operator. -/
def execHalt (org : Origin) (part : Fin 64) (s : State) : Result :=
  match org with
  | .slot f k =>
    .next (s.vfOrder f.val k.val true false (fun s p =>
      if (s.part p).st = .running then s.haltPart p [org] else s.completeBad f.val k.val p stConflict))
  | .mgmt h =>
    .next (s.command h false false (fun s =>
      if (s.part part.val).st = .running then s.haltPart part.val [org] else s.rejectMsg h part.val stConflict))

/-- R173: a ring that has received a report stops at the hold it is at; what waits for the partition's rings to stand
still goes on. -/
def execRingHalted (i : Issue) (s : State) : Result :=
  let s := s.atRing i.ring (fun r => r.event i.ring i.cycle (fun _ r =>
    if r.tt.report && r.tt.run == .hold then r.haltHere else r))
  .next (match s.partOf i.ring with
    | some part => s.proceed part
    | none => s)

/-! ## Lists -/

/-- A set of numbers below `n` as a bit map. -/
def bitMap (l : List Nat) : Nat := l.foldl (fun a k => a ||| 2 ^ k) 0

/-- `PARTITIONS`: identifier, state and ring set of every partition. -/
def execPartitions (h : Mgmt) (s : State) : Result :=
  .next (s.command h false false (fun s =>
    s.reply h stOk ((s.parts.filter (fun p => p.2.exists_)).flatMap (fun p =>
      [p.1, p.2.st.code, bitMap p.2.rings]))))

/-- Partition list order: existing partitions and bound ones. -/
def execPartitionList (slot : Fin 64) (s : State) : Result :=
  .next (s.pfOrder 0 slot.val true (fun s =>
    s.complete 0 slot.val stOk 0
      [(64, toLe 8 (bitMap ((s.parts.filter (fun p => p.2.exists_)).map (·.1)))),
       (72, toLe 8 (bitMap ((s.parts.filter (fun p => p.2.vf.isSome && !p.2.ending)).map (·.1))))]))

/-! ## Binding (R337, R338) -/

/-- Whether a VF number is one of NumVFs (R417). -/
def State.vfNamed (s : State) (vf : Nat) : Bool :=
  s.host.vfEnable && !s.host.clearing && decide (0 < vf) && decide (vf ≤ s.host.numVfs)

/-- Whether a bind that replaces another VF is giving a VF to a partition (R337). -/
def State.promised (s : State) (vf : Nat) : Bool :=
  s.parts.any (fun p => match p.2.job with
    | .ending _ (some v) _ => v == vf
    | _ => false)

/-- `BIND`. -/
def execBind (slot : Fin 64) (vf part : Byte) (s : State) : Result :=
  .next (s.pfOrder 0 slot.val true (fun s =>
    let v := vf.toNat
    let q := part.toNat
    let bad (code : Nat) : State := s.completeBad 0 slot.val 0xFF code
    if !s.vfNamed v || decide (64 ≤ q) then bad stBounds
    else
      let p := s.part q
      if p.ending || p.st == .absent || p.st == .teardown || s.promised v then bad stConflict
      else match s.boundPart v with
      | some q' => if q' = q then s.complete 0 slot.val stOk 0 [] else bad stConflict
      | none =>
        if p.vf.isNone then (s.beginTenancy q v).complete 0 slot.val stOk 0 []
        else s.beginEnd q (.ending (some slot.val) (some v) false) .empty))

/-- `UNBIND`. -/
def execUnbind (slot : Fin 64) (vf : Byte) (s : State) : Result :=
  .next (s.pfOrder 0 slot.val true (fun s =>
    let v := vf.toNat
    if !s.vfNamed v then s.completeBad 0 slot.val 0xFF stBounds
    else match s.boundPart v with
    | none => s.complete 0 slot.val stOk 0 []
    | some q =>
      if (s.part q).ending then s.completeBad 0 slot.val q stConflict
      else s.beginEnd q (.ending (some slot.val) none false) .empty))

/-! ## Functions (R412, R417, R419) -/

/-- A configuration request: before step 7 of Table 14.8, and in recovery, it is answered with Request Retry Status (R352, R408);
a locked interlocking lets it have no effect (R345). -/
def State.config (s : State) (f : Nat) (g : State) : State :=
  if s.il.boot = .booted then (if s.il.locked then s.reject 0xFF stConflict else g) else s.retryConfig f

/-- A configuration write of NumVFs, which also sets VF Enable; while VFs are about to disappear it leaves VF Enable to that. -/
def execSetNumvfs (n : Nat) (s : State) : Result :=
  .next (s.config 0 (if n ≤ 63 then
    { s with host := { s.host with numVfs := n, vfEnable := true } } else s))

/-- Every tenancy with a bound VF begins to end; a bind that was replacing another VF binds none. -/
def State.unbindAll (s : State) : State :=
  (List.range 64).foldl (fun s q =>
    let p := s.part q
    match p.job with
    | .ending _ (some _) off =>
      let s := s.overtake q
      s.setPart q { s.part q with job := .ending none none off }
    | _ => if p.vf.isSome && !p.ending then s.beginEnd q (.ending none none false) .empty else s) s

/-- VF Enable is cleared: the write completes at once, and the VFs disappear once they are unbound (R412). -/
def State.clearVfs (s : State) : State :=
  let s : State := { s with host := { s.host with clearing := s.host.vfEnable } }
  s.unbindAll.settleVfs

def execVfEnableClear (s : State) : Result := .next (s.config 0 s.clearVfs)

/-- A reset of a function leaves it in D0 (R411). -/
def State.wakeFn (s : State) (f : Nat) : State := s.setFn f { s.fn f with d3hot := false }

/-- Whether an origin is an order of a function. -/
def fromFn (f : Nat) (o : Origin) : Bool :=
  match o with
  | .slot g _ => g.val == f
  | .mgmt _ => false

/-- A job without the order of a function: its result is discarded. -/
def PJob.without (j : PJob) (f : Nat) : PJob :=
  match j with
  | .load x => if x.fn = f then .load { x with fn := 64 } else j
  | .restore x => if x.fn = f then .restore { x with fn := 64 } else j
  | .step x => if x.fn = f then .step { x with fn := 64 } else j
  | .ending (some _) next off => if f = 0 then .ending none next off else j
  | j => j

/-- The orders of a function in progress complete without a result, and every slot is FREE (R419). -/
def State.dropOrders (s : State) (f : Nat) : State :=
  let s := { s with parts := s.parts.map (fun p =>
    (p.1, { p.2 with job := p.2.job.without f, halts := p.2.halts.filter (fun o => !fromFn f o) })) }
  (List.range 64).foldl (fun s k => s.putBook f (slotAt k) [0]) s

/-- `VF_FLR`. A reset of a function is a configuration request (R408). -/
def execVfFlr (fn : Fin 64) (s : State) : Result :=
  let halted : State := match s.tenant fn.val with
    | some p => if (s.part p).st = PState.running then s.haltPart p [] else s
    | none => s
  .next (if fn.val = 0 ∨ (s.il.boot = .booted ∧ !s.fnExists fn.val) then s
    else s.config fn.val ((halted.dropOrders fn.val).wakeFn fn.val))

/-- `PF_FLR`. -/
def execPfFlr (s : State) : Result := .next (s.config 0 (((s.dropOrders 0).wakeFn 0).clearVfs))

end Sys2Proof.Machine
end

