-- ==== Sys2Proof/Machine/Recovery.lean ====
section
/-! DEFINITION. Steps, fault reports, recovery, commits, checkpoints and restores (R28, R130, R197, R203, R307, R308,
R315 to R322). -/

namespace Sys2Proof.Machine

/-! ## The step order (R130, R197, R308) -/

/-- Every token counter of a partition is zero, those of its units' token ports too, and its rings are ready to be started. -/
def State.zeroTokens (s : State) (part : Nat) : State :=
  let p := s.part part
  let s := p.rings.foldl (fun s i =>
    let r := s.ring i
    if r.awake then s.setRing i { r.each (fun _ c => { c with tok := [] }) with
      tok := [], tt := { r.tt with ended := false, report := false } } else s) s
  s.setPart part { s.part part with spanTok := [], devTok := [], faces := [] }

/-- A step order of a READY partition: it enters RUNNING. -/
def State.startStep (s : State) (part f slot ckpt : Nat) : State :=
  let s := s.zeroTokens part
  let j : StepJob :=
    { fn := f, slot := slot, ckpt := ckpt, repeats := 0, faulted := false, prog := false, faults := [], halting := false
      committed := false, digests := [], lastDigests := [], oldDigests := [], endCode := none, replan := false, done := none, pages := []
      lastPages := [] }
  s.setPart part { s.part part with st := .running, job := .step j, opt := false }

/-- Whether the partition's fault handling keeps its step orders POSTED (R308), or a deck of it that is about to lose a channel and be
scrubbed (R261). -/
def State.stepWaits (s : State) (f : Nat) : Bool :=
  match s.tenant f with
  | some p => ((s.part p).handling || s.failingOn p) && !s.il.locked
  | none => false

/-- `STEP`. -/
def execStep (fn slot : Fin 64) (ckpt : Word) (s : State) : Result :=
  .next (if s.stepWaits fn.val then s
    else s.vfOrder fn.val slot.val true false (fun s p =>
      if (s.part p).st = .ready then s.startStep p fn.val slot.val ckpt.toNat
      else s.completeBad fn.val slot.val p stConflict))

/-! ## Faults and recovery -/

/-- `FAULT_REPORT`: a ring's faults, as it has raised them by a ring cycle, reach the signal box. -/
def execFaultReport (ring : Fin 256) (cycle : Nat) (s : State) : Result :=
  let s := s.atRing ring (fun r => r.event ring cycle (fun _ r => r))
  let cs := (s.ring ring).causes
  match s.partOf ring.val, cs with
  | none, _ => .next s
  | some _, [] => .next s
  | some part, _ =>
    let openStep := s.stepOpen part
    let s := s.rouse.takeCauses part ring.val
    if openStep then .next (s.reportAll part)
    else if cs.any (fun c => !c.2.isProgram) then .next (s.setPart part { s.part part with handling := true })
    else .next s

/-- Whether a ring of the partition is being woken: a wake is completed under a halt or a report (R400). -/
def State.waking (s : State) (part : Nat) : Bool := (s.part part).rings.any s.mayWake

/-- `RECOVERY`: the rings stand still, and none is being woken. `tests` gives what the self-tests of halted clusters find; `badEntries` the journal
entries found uncorrectable. -/
def execRecovery (part : Fin 64) (tests : List (Fin 4096 × SelfTest)) (badEntries : List (Fin 2 × Nat)) (s : State) : Result :=
  let p := s.part part.val
  if !s.allStill part.val || s.waking part.val then .next s
  else match p.stepJob with
  | some j =>
    if (j.faulted || j.halting) && !j.committed && j.done.isNone then .next (s.recoverStep part.val tests badEntries) else .next s
  | none => if p.handling then .next (s.recoverLate part.val tests) else .next s

/-! ## The commit (R307, R324) -/

/-- Every condition of R307 holds. -/
def State.mayCommit (s : State) (part : Nat) : Bool :=
  let p := s.part part
  match p.stepJob with
  | none => false
  | some j =>
    !j.committed && !j.faulted && !j.halting && !p.rings.isEmpty && p.rings.all (fun i => (s.ring i).tt.ended) &&
      s.groups.all (fun g => (g.2.part != part) || g.2.liveIn.isEmpty) && !s.journalWaits part

/-- The commit point. -/
def State.commitPoint (s : State) (part : Nat) : State :=
  let s := (s.journalDrop part).mapSr part SrStream.anchor
  let p := s.part part
  let s := p.rings.foldl (fun s i => let r := s.ring i; if r.awake then s.setRing i { r with optph := false } else s) s
  (s.setPart part { p with stepno := (p.stepno + 1) % 2 ^ 64, opt := false }).onStep part
    (fun j => { j with committed := true })

/-- Whether a descriptor and its manifest lie at channels that serve (R260). -/
def State.ckptServes (s : State) (part addr : Nat) : Bool :=
  s.rangeServes part addr 64 && match s.parseCkpt part addr with
    | some ck => s.rangeServes part (addr + 64) (32 * ck.dests.length + 16 * ck.exts.length) &&
        s.rangeServes part ck.manifest ck.manifestLen
    | none => true

/-- The step's checkpoint waits for a channel that is retraining. -/
def State.stopServes (s : State) (part : Nat) : Bool :=
  match (s.part part).stepJob with
  | some j => decide (j.ckpt = 0) || s.ckptServes part j.ckpt
  | none => true

/-- `COMMIT`. -/
def execCommit (part : Fin 64) (s : State) : Result :=
  if !s.mayCommit part.val || !s.stopServes part.val then .next s
  else
    let s := s.commitPoint part.val
    match (s.part part.val).stepJob with
    | none => .next s
    | some j => if j.ckpt = 0 then .next (s.endStep part.val stOk false) else .next (s.beginStop part.val j.ckpt)

/-! ## Checkpoints -/

/-- `CHECKPOINT_STOP_END`; `badExtent` names an extent whose read proves uncorrectable. A capture waits for a channel that is
retraining (R260). -/
def execCheckpointStopEnd (part : Fin 64) (badExtent : Option Nat) (s : State) : Result :=
  match (s.part part.val).ckpt with
  | some ck =>
    if ((ck.manifest, ck.manifestLen) :: ck.exts).any (fun x => !s.rangeServes part.val x.1 x.2) then .next s
    else .next (s.endStop part.val ck badExtent)
  | none => .next s

/-- A pending destination of the draining checkpoint with a serial number, the oldest such, changes its state. -/
def State.destState (s : State) (part serial dest st : Nat) : State :=
  let l := (s.part part).drains
  match l.findIdx? (fun ck => ck.serial == serial && ck.dests[dest]?.any (fun d => d.state == 0)) with
  | none => s
  | some k =>
    match l[k]? with
    | none => s
    | some ck =>
      match ck.dests[dest]? with
      | none => s
      | some d =>
        if d.state = 0 then
          s.drainStep part (l.take k) { ck with dests := ck.dests.set dest { d with state := st } } (l.drop (k + 1))
        else s

/-- `CHECKPOINT_ACK`. -/
def execCheckpointAck (part : Fin 64) (dest : CkptDest) (s : State) : Result :=
  .next (s.destState part.val dest.serial.toNat dest.dest.val 1)

/-- `DESTINATION_TIMEOUT`: where the destination is pending its timer is due, and wakes CORES (R395). -/
def execDestinationTimeout (part : Fin 64) (dest : CkptDest) (s : State) : Result :=
  let due := (s.part part.val).drains.any (fun ck =>
    ck.serial == dest.serial.toNat && ck.dests[dest.dest.val]?.any (fun d => d.state == 0))
  .next (if due then s.rouse.destState part.val dest.serial.toNat dest.dest.val 2 else s)

/-! ## Restores -/

/-- `RESTORE`: recovery runs, the groups' included (R298, R301), and the partition is in LOADING until the copy has been
taken. -/
def execRestore (fn slot : Fin 64) (src : RestoreSrc) (roff rstate : Word) (s : State) : Result :=
  .next (s.vfOrder fn.val slot.val true false (fun s p =>
    let q := s.part p
    if q.st = .ready ∨ q.st = .replan then
      let s := (s.recoverUnits p).recoverGroups p
      s.setPart p { s.part p with
        st := .loading, came := q.st
        job := .restore ⟨fn.val, slot.val, src, roff.toNat, rstate.toNat⟩ }
    else s.completeBad fn.val slot.val p stConflict))

/-- The siding copy that a restore names. -/
def State.sidingCopy (s : State) (part gid pos : Nat) (serial : Nat) : Option Copy :=
  match (s.part part).image with
  | none => none
  | some im => match im.groups.find? (fun g => g.gid == gid) with
    | none => none
    | some g => ((s.siding (copyDie pos)).copies ++ (s.siding (1 - copyDie pos)).copies).find? (fun c =>
        (c.part == part) && (c.base == g.tagbase) && (c.pos == pos) && (c.ser == serial % 65536) && c.complete &&
          leAt c.manifest 8 8 == serial)

/-- What a restore reads: the host's bytes, or a siding copy's. -/
def State.copyRead (s : State) (part : Nat) (j : RestoreJob) (exts : List (Nat × Nat)) (data : List Byte) :
    Option CopyParts :=
  let lens := exts.map (·.2)
  let mlen := 128 + 8 * exts.length
  match j.src with
  | .host _ =>
    if data.length < mlen then none
    else some (cutCopy (data.take (data.length - mlen)) (data.drop (data.length - mlen)) lens)
  | .siding gid pos serial =>
    match s.sidingCopy part gid.toNat pos.toNat serial.toNat with
    | none => none
    | some c => some (cutCopy (Tab.getRun 0 c.data 0 c.len) (c.manifest.take mlen) lens)

/-- Whether a restore's host bytes came outside the stream that they have to come in: they are discarded, and the restore goes on
waiting (R365). -/
def State.restoreOutside (s : State) (part : Nat) (j : RestoreJob) (data : Tlp (List Byte)) : Option Nat :=
  match j.src with
  | .host _ => if data.inStream then none else (s.part part).vf.filter (fun f => s.ideNeeds f part)
  | .siding _ _ _ => none

/-- `RESTORE_COMPLETE`: `exts` are the copy's extents and `data` the bytes the host returned. Where a channel that it writes to is
retraining it waits (R260). -/
def execRestoreComplete (part : Fin 64) (exts : List (Nat × Nat)) (data : Tlp (List Byte)) (hwFault : Bool) (s : State) : Result :=
  let p := s.part part.val
  match p.job with
  | .restore j =>
    match s.restoreOutside part.val j data with
    | some f => .next ((s.setFn f { s.fn f with ideDrops := (s.fn f).ideDrops + 1 }).note part.val nodeSb 365 1)
    | none =>
    if exts.any (fun x => !s.rangeServes part.val ((x.1 + j.roff) % 2 ^ 64) x.2) then .next s else
    let s := s.fabricOn
    match s.copyRead part.val j exts data.body with
    | some c => .next (s.restoreFrom part.val j p.came exts c hwFault)
    | none => .next (s.endRestore part.val j p.came stRestore)
  | _ => .next s

end Sys2Proof.Machine
end

