-- ==== Sys2Proof/Machine/Orders.lean ====
section
/-! DEFINITION. The order books: a host's writes into order slots, and the signal box's scan (R416 to R418). -/

namespace Sys2Proof.Machine

/-! ## The host's writes (R417) -/

/-- An inbound write to an order-book window wakes CORES (R395). -/
def State.wakeCores (s : State) : State := { s with power := { s.power with cores := true } }

/-- A write to a slot in TAKEN is discarded and counted. -/
def State.discardWrite (s : State) : State :=
  { s with host := { s.host with discards := satInc 16 s.host.discards } }

/-- A host's write to BAR0 of a function: one that must come in its stream and does not is discarded (R365), and a function in
D3hot takes none (PRESUMED, log entry 89). -/
def State.barWrite {α : Type} (s : State) (f : Nat) (x : Tlp α) (g : State) : State :=
  if s.il.boot ≠ .booted ∨ !s.fnExists f then s
  else if (s.fn f).d3hot then s.aerError f 20
  else match s.outside f x with
  | some part => s.dropOutside f part
  | none => g

/-- `ORDER_POST`: OP, TAG and ARGS are written, then STATE = POSTED. -/
def execOrderPost (fn slot : Fin 64) (op : Byte) (tag : Word) (args : Tlp (List Byte)) (s : State) : Result :=
  let f := fn.val
  let o := slotAt slot.val
  .next (s.barWrite f args (
    if s.slotState f slot.val = 2 then s.wakeCores.discardWrite
    else
      let s := ((s.wakeCores.putBook f (o + 1) [op]).putBook f (o + 8) (toLe 8 tag.toNat)).putBook f (o + 16) (slice args.body 0 48)
      s.putBook f o [1]))

/-- `SLOT_WRITE_WHILE_TAKEN`: a host's write of one byte of a slot. In TAKEN it is discarded; in any other state it lands, as the
one that sets STATE = FREE does (R413, R417 step 5). -/
def execSlotWriteWhileTaken (fn slot : Fin 64) (offset : Fin 128) (value : Tlp Byte) (s : State) : Result :=
  .next (s.barWrite fn.val value (
    if s.slotState fn.val slot.val = 2 then s.wakeCores.discardWrite
    else s.wakeCores.putBook fn.val (slotAt slot.val + offset.val) [value.body]))

/-! ## MSI-X (R413, R417) -/

/-- A host's write to a function's MSI-X state; the power state is none of it. -/
def Msix.write (m : Msix) : MsixAct → Msix
  | .unmask v => { m with masked := setDel v.val m.masked }
  | .mask v => { m with masked := setIns v.val m.masked }
  | .entry o v =>
    if o.val % 16 / 4 = 3 then
      { m with masked := if v.getLsbD 0 then setIns (o.val / 16) m.masked else setDel (o.val / 16) m.masked }
    else { m with table := Tab.setRun 0 m.table (o.val / 4 * 4) (toLe 4 v.toNat) }
  | .enable b => { m with enable := b }
  | .functionMask b => { m with fmask := b }
  | .power _ => m

/-- A host's write to a function's MSI-X state or power state (R411). -/
def Fn.write (x : Fn) (a : MsixAct) : Fn :=
  match a with
  | .power d => { x with d3hot := d }
  | a => { x with msix := x.msix.write a }

/-- Whether a write goes to the table in BAR0 and not to the configuration space. -/
def msixInBar : MsixAct → Bool
  | .enable _ => false
  | .functionMask _ => false
  | .power _ => false
  | _ => true

/-- The vectors whose pending message a write may let go. -/
def msixFrees : MsixAct → List Nat
  | .unmask v => [v.val]
  | .mask _ => []
  | .entry o _ => [o.val / 16]
  | _ => [0, 1, 2, 3]

/-- `MSIX_UNMASK`: a write that leaves a vector unmasked sends its pending message; one that brings the function back to D0 lets
them all go. -/
def execMsixUnmask (fn : Fin 64) (act : Tlp MsixAct) (s : State) : Result :=
  let f := fn.val
  let t := (s.setFn f ((s.fn f).write act.body)).sendPend f (msixFrees act.body)
  .next (if msixInBar act.body then s.barWrite f act t else s.config f (if s.fnExists f then t else s))

/-! ## The arguments of an order (Table 17.7) -/

/-- Every byte of a run of the slot is zero, as its unused bytes are. -/
def zeroRun (l : List Byte) (o n : Nat) : Bool := (slice l o n).all (fun b => b == 0)

/-- A little-endian field of the slot as a bit vector. -/
def fieldBv (w : Nat) (l : List Byte) (o : Nat) : BitVec w := BitVec.ofNat w (leAt l o (w / 8))

/-- The restore order's source. -/
def restoreSrcOf (l : List Byte) : Option RestoreSrc :=
  if leAt l 16 1 = 0 ∧ zeroRun l 17 7 then some (.host (fieldBv 64 l 24))
  else if leAt l 16 1 = 1 ∧ zeroRun l 17 1 ∧ zeroRun l 22 2 then
    some (.siding (fieldBv 16 l 18) (fieldBv 16 l 20) (fieldBv 64 l 24))
  else none

/-- The order that a slot's bytes spell: none where OP names none or an unused byte is not zero. `wrong` gives the erroneous bytes
that the granules read for it meet. -/
def orderOf (fn slot : Fin 64) (wrong : List Nat) (l : List Byte) : Option Instr :=
  match leAt l 1 1 with
  | 0x10 => if leAt l 24 1 < 2 ∧ zeroRun l 25 39 then some (.imageKey fn slot (fieldBv 64 l 16) (bit (leAt l 24 1) 0) wrong) else none
  | 0x11 => if zeroRun l 32 32 then some (.imageLoad fn slot (fieldBv 64 l 16) (fieldBv 64 l 24)) else none
  | 0x12 => if zeroRun l 24 40 then some (.step fn slot (fieldBv 64 l 16)) else none
  | 0x13 =>
    if zeroRun l 48 16 then
      (restoreSrcOf l).map (fun src => .restore fn slot src (fieldBv 64 l 32) (fieldBv 64 l 40))
    else none
  | 0x14 => if zeroRun l 16 48 then some (.halt (.slot fn slot) 0) else none
  | 0x15 =>
    if zeroRun l 28 4 ∧ zeroRun l 40 24 then
      some (.certificate fn slot (fieldBv 64 l 16) (fieldBv 16 l 24) (fieldBv 8 l 26) (fieldBv 8 l 27) (fieldBv 64 l 32)
        wrong)
    else none
  | 0x16 => if zeroRun l 36 28 then some (.seal fn slot (fieldBv 64 l 16) (fieldBv 64 l 24) (fieldBv 32 l 32) wrong) else none
  | 0x17 => if zeroRun l 36 28 then some (.unseal fn slot (fieldBv 64 l 16) (fieldBv 64 l 24) (fieldBv 32 l 32) wrong) else none
  | 0x18 => if zeroRun l 25 39 then some (.registerRead (.slot fn slot) (fieldBv 64 l 16) (fieldBv 8 l 24)) else none
  | 0x19 =>
    if zeroRun l 25 7 ∧ zeroRun l 40 24 then
      some (.registerWrite (.slot fn slot) (fieldBv 64 l 16) (fieldBv 8 l 24) (fieldBv 64 l 32))
    else none
  | 0x20 => if fn = 0 ∧ zeroRun l 18 46 then some (.bind slot (fieldBv 8 l 16) (fieldBv 8 l 17)) else none
  | 0x21 => if fn = 0 ∧ zeroRun l 17 47 then some (.unbind slot (fieldBv 8 l 16)) else none
  | 0x22 => if fn = 0 ∧ zeroRun l 16 48 then some (.partitionList slot) else none
  | _ => none

/-- Whether OP names an order of the PF. -/
def pfOp (op : Nat) : Bool := decide (0x20 ≤ op ∧ op ≤ 0x22)

/-- Whether OP names an order of a VF. -/
def vfOp (op : Nat) : Bool := decide (0x10 ≤ op ∧ op ≤ 0x19)

/-- An order whose bytes do not check (R417): OWNERSHIP where its function may not issue it, else FORMAT; an image key order of a
tenancy that has its key is rejected with STATE_CONFLICT whatever it carries (R361). -/
def State.badOrder (s : State) (f slot op : Nat) : State :=
  if f = 0 then
    if vfOp op then s.vfOrder f slot false false (fun s _ => s) else s.pfOrder f slot false (fun s => s)
  else if pfOp op then s.pfOrder f slot false (fun s => s)
  else if op = 0x10 ∧ ((s.tenant f).any (fun p => (s.part p).key.isSome)) = true then
    s.vfOrder f slot true false (fun s p => s.completeBad f slot p stConflict)
  else s.vfOrder f slot false false (fun s _ => s)

/-! ## The scan -/

/-- A slot's bytes. -/
def State.slotBytes (s : State) (f slot : Nat) : List Byte := s.bookBytes f (slotAt slot) 64

/-- Whether the signal box can start the order in a slot (R149, R308, R354). -/
def State.canStart (s : State) (f slot : Nat) : Bool :=
  let l := s.slotBytes f slot
  match leAt l 1 1 with
  | 0x11 => !s.loadWaits
  | 0x12 => !s.stepWaits f
  | 0x15 => !(decide (leAt l 26 1 ≤ 64) && s.certWaits f (leAt l 27 1))
  | _ => true

/-- The functions a scan visits, in its order. -/
def State.scanOrder (s : State) : List Nat :=
  let fns := (List.range 64).filter s.fnExists
  fns.filter (fun f => decide (s.host.scanFn < f)) ++ fns.filter (fun f => decide (f ≤ s.host.scanFn))

/-- The slots of a function that hold a POSTED order the signal box can start. -/
def State.ready (s : State) (f : Nat) : List Nat :=
  (List.range 64).filter (fun k => s.slotState f k == 1 && s.canStart f k)

/-- The order the scan takes next. -/
def State.nextOrder (s : State) : Option (Fin 64 × Fin 64) :=
  (s.scanOrder.findSome? (fun f => (s.ready f).head?.map (fun k => (Fin.ofNat 64 f, Fin.ofNat 64 k))))

/-- Evaluate the order a slot spells. -/
def State.evaluate (s : State) (fn slot : Fin 64) (wrong : List Nat) : Result :=
  let l := s.slotBytes fn.val slot.val
  match orderOf fn slot wrong l with
  | some (.imageKey f k addr ide w) => execImageKey f k addr ide s w
  | some (.imageLoad f k addr len) => execImageLoad f k addr len s
  | some (.step f k ckpt) => execStep f k ckpt s
  | some (.restore f k src roff rstate) => execRestore f k src roff rstate s
  | some (.halt org part) => execHalt org part s
  | some (.certificate f k dest space n sel na w) => execCertificate f k dest space n sel na s w
  | some (.seal f k src dst len w) => execSeal f k src dst len s w
  | some (.unseal f k src dst len w) => execUnseal f k src dst len s w
  | some (.registerRead org addr w) => execRegisterRead org addr w s
  | some (.registerWrite org addr w v) => execRegisterWrite org addr w v s
  | some (.bind k vf part) => execBind k vf part s
  | some (.unbind k vf) => execUnbind k vf s
  | some (.partitionList k) => execPartitionList k s
  | _ => .next (s.badOrder fn.val slot.val (leAt l 1 1))

/-- `ORDER_BOOK_SCAN`: one order is taken, if one can be started; `wrong` gives the erroneous bytes that the granules it reads meet,
in order. -/
def execOrderBookScan (s : State) (wrong : List Nat := []) : Result :=
  if s.il.boot ≠ .booted ∨ !s.power.cores then .next s
  else match s.nextOrder with
  | some (f, k) => s.evaluate f k wrong
  | none => .next s

end Sys2Proof.Machine
end

