-- ==== Sys2Proof/Machine/Power.lean ====
section
/-! DEFINITION. Power, clocks, reset and boot; the board's I3C interface (R345, R354, R394 to R410, R422). -/

namespace Sys2Proof.Machine

/-! ## The power manager (R398, R401 to R404) -/

/-- `CAP_EVALUATION`: 2,048 ticks of the standing clock have passed (R402). A tripped device only counts them. -/
def execCapEvaluation (milliwatts : Nat) (dieTemps deckTemps : List Nat) (s : State) : Result :=
  let s : State := { s with power := { s.power with tick := (s.power.tick / 2048 + 1) * 2048 % 2 ^ 64 } }
  .next (if s.power.tripped then s else s.evaluatePower milliwatts dieTemps deckTemps)

/-- `RING_CLOCK_STEP`: the ring applies the step in force (R398, R404). -/
def execRingClockStep (ring : Fin 256) (s : State) : Result :=
  if (s.ring ring).awake then
    .next { s with power := { s.power with
      ringStep := Tab.set 0 s.power.ringStep ring.val (s.power.spanStep (ring.val / 16)) } }
  else .next s

/-- `THERMAL_TRIP`: every domain but AON and the meter is off until a device reset (R404). -/
def execThermalTrip (span : Fin 16) (s : State) : Result :=
  let c := s.cold
  let c : State := { c with
    lands := { c.lands with thermtrip := false }
    power := { c.power with tripped := true } }
  .next (if s.power.tripped then s else (c.emit (.ibi 1)).note 0xFF (256 + span.val) 404 1)

/-! ## Rings (R394, R399, R400) -/

/-- `RING_SLEEP`. -/
def execRingSleep (ring : Fin 256) (s : State) : Result :=
  if s.maySleep ring then
    let t := s.ringOff ring
    match s.partOf ring with
    | some q => .next (t.proceed q)
    | none => .next t
  else .next s

/-- `RING_WAKE`: `tests` gives what the self-tests find, by physical slot. A cap step decided meanwhile is applied at
the first ring cycle. -/
def execRingWake (ring : Fin 256) (tests : List (Fin 17 × SelfTest)) (s : State) : Result :=
  match s.partOf ring with
  | none => .next s
  | some part =>
    if s.mayWake ring then
      let t := s.wakeRing part ring (tests.map (fun x => (x.1.val, x.2)))
      .next { t with power := { t.power with
        ringStep := Tab.set 0 t.power.ringStep ring.val (t.power.spanStep (ring.val / 16)) } }
    else .next s

/-! ## Shared domains (R395) -/

/-- `UNCORE_OFF`. -/
def execUncoreOff (s : State) : Result :=
  .next (if s.power.unc && s.fabricIdle then s.fabricOff else s)

/-- `UNCORE_ON`. -/
def execUncoreOn (s : State) : Result :=
  .next (if s.il.boot == .booted then s.fabricOn else s)

/-- Whether an order that loads or restores is in evaluation (R395). -/
def State.evaluating (s : State) : Bool :=
  s.parts.any (fun p => match p.2.job with
    | .load _ | .restore _ => true
    | _ => false)

/-- `CORES_SLEEP`. -/
def execCoresSleep (s : State) : Result :=
  .next (if s.anyPosted || s.evaluating then s else { s with power := { s.power with cores := false } })

/-- `CORES_WAKE`: every cause wakes CORES. -/
def execCoresWake (cause : WakeCause) (s : State) : Result :=
  match cause with
  | .orderBook | .management | .i3c | .fault | .timer =>
    .next (if s.power.sbOn then { s with power := { s.power with cores := true } } else s)

/-! ## Resets and the boot (R351, R407 to R409) -/

/-- `PWROK`: the rising land resets the device. -/
def execPwrok (s : State) : Result := .next s.powerOn

/-- `POWER_ON_RESET`. -/
def execPowerOnReset (s : State) : Result := .next s.powerOn

/-- `PERST`: asserted, and held until the boot. -/
def execPerst (s : State) : Result :=
  let t := s.deviceReset rstPerst
  .next { t with lands := { t.lands with perst := false } }

/-- `SYS_RST_N`: the land goes low, or high again. -/
def execSysRstN (low : Bool) (s : State) : Result :=
  if low then
    let t := s.deviceReset rstSysRst
    .next { t with lands := { t.lands with sysRst := false } }
  else .next { s with lands := { s.lands with sysRst := true } }

/-- `DEVICE_RESET`, by a cause that is present. -/
def execDeviceReset (cause : ResetCause) (s : State) : Result :=
  match cause with
  | .perst => .next (if s.lands.perst then s else s.deviceReset rstPerst)
  | .sysRst => .next (if s.lands.sysRst then s else s.deviceReset rstSysRst)
  | .order => .next (if s.power.ordered then s.deviceReset rstOrder else s)
  | .refLoss => .next (if s.power.refLost then s.deviceReset rstRefLoss else s)
  | .thermTrip => .next (if s.power.tripped then s.deviceReset rstThermTrip else s)

/-- `REFERENCE_LOSS`: the device holds itself in reset. -/
def execReferenceLoss (s : State) : Result :=
  let t := s.deviceReset rstRefLoss
  .next { t with power := { t.power with refLost := true } }

/-- `REFERENCE_RETURN`. -/
def execReferenceReturn (s : State) : Result :=
  .next { s with power := { s.power with refLost := false } }

/-- `BOOT`, from t0: PERST# is deasserted, and nothing else keeps the device in reset. -/
def execBoot (slotA slotB : FwImage) (idCertOk repairOk : Bool) (s : State) : Result :=
  .next (if (s.il.boot == .none_) && s.released then s.boot slotA slotB idCertOk repairOk else s)

/-! ## The interlocking (R345, R354) -/

/-- `LOCKSTEP_MISMATCH`. -/
def execLockstepMismatch (s : State) : Result :=
  .next (if s.il.boot = .none_ ∨ s.il.locked then s else s.lock)

/-- `LMS_TREE_GENERATED`. -/
def execLmsTreeGenerated (s : State) : Result :=
  .next { s with il := { s.il with tree := false } }

/-! ## The board page (R401, R422) -/

/-- The bytes of a board write with their offsets, from the one that it names on: the offset increments (R422). -/
def boardRun (offset : Byte) (bytes : List Byte) : List (Nat × Byte) :=
  ((List.range bytes.length).map (fun k => (offset.toNat + k) % 256)).zip bytes

/-- The byte of a board write at an offset, the last one written. -/
def boardByte (l : List (Nat × Byte)) (o : Nat) : Option Nat :=
  ((l.filter (fun p => p.1 == o)).getLast?).map (fun p => p.2.toNat)

/-- Writes of the board page that are ignored: read-only and other offsets, and a cap not written whole. They are logged
(R342). -/
def boardIgnored (l : List (Nat × Byte)) : Bool :=
  l.any (fun p => p.1 != 6 && p.1 != 7) || ((boardByte l 6).isSome != (boardByte l 7).isSome)

/-- The board's cap. A locked interlocking takes none (R345). -/
def State.setBdcap (s : State) (v : Nat) : State :=
  if s.il.locked then s.reject 0xFF stConflict
  else if capOk v then { s with power := { s.power with bdcap := v }, i3c := { s.i3c with status := stOk } }
  else { s with i3c := { s.i3c with status := stBounds } }.reject 0xFF stBounds

/-- `BDCAP_WRITE`: one private write to the board page, of an offset and the bytes from there on. One of the offset alone points the
next read. -/
def execBdcapWrite (offset : Byte) (s : State) (bytes : List Byte := []) : Result :=
  if s.i3c.addr.isNone then .next s
  else
    let l := boardRun offset bytes
    let s := s.rouse
    let s := if boardIgnored l then s.note 0xFF nodeSb 422 0 else s
    let s : State := { s with i3c := { s.i3c with ptr := (offset.toNat + bytes.length) % 256 } }
    match boardByte l 6, boardByte l 7 with
    | some lo, some hi => .next (s.setBdcap (lo + 256 * hi))
    | _, _ => .next s

/-- `I3C_DYNAMIC_ADDRESS`: by ENTDAA, or by SETDASA from static address 0x3A. -/
def execI3cDynamicAddress (setdasa : Bool) (staticAddr addr : BitVec 7) (s : State) : Result :=
  if setdasa && decide (staticAddr ≠ 0x3A) then .next s
  else .next { s.rouse with i3c := { s.i3c with addr := some addr.toNat } }

end Sys2Proof.Machine
end

