-- ==== Sys2Proof/Machine/Streams.lean ====
section
/-! DEFINITION. Stream slots, stream instructions, transfers and free local store accesses
(08_streams_tokens_ordering.md, R243). -/

namespace Sys2Proof.Machine

/-! ## Stream slots of a bundle -/

def execStgo (i : Issue) (eng : Fin 4) (pslot sr : Fin 32) (s : State) : Result :=
  s.eachOp i (20 + eng.val) (.stgo i eng pslot sr) (fun t c => c.stgo t eng.val pslot.val (c.r.getS sr.val))

def execStrel (i : Issue) (eng : Fin 4) (s : State) : Result :=
  s.eachOp i (20 + eng.val) (.strel i eng) (fun t c => (c.strel t eng.val).tryEnds)

def execSthalt (i : Issue) (eng : Fin 4) (s : State) : Result :=
  s.eachOp i (20 + eng.val) (.sthalt i eng) (fun t c => c.sthalt t eng.val)

/-! ## Stream instructions (Table 8.2) -/

/-- The command that an engine's program holds at its pc is `i`. -/
def StreamEng.isAt (x : StreamEng) (e : EngAt) (i : Instr) : Bool :=
  match Tab.find x.store x.slot with
  | some body => match body[x.pc]? with
    | some w => streamInstr e w.toNat == some i
    | none => false
  | none => true

/-- Whether an engine executes instruction `i` in ring cycle `t`: it runs or waits, its program has come to `i`, and it has
executed none in this ring cycle (R181, R182). -/
def StreamEng.steps (x : StreamEng) (e : EngAt) (i : Instr) (t : Nat) : Bool :=
  x.executes && decide (x.from_ ≤ t) && x.isAt e i

/-- The engine has executed its instruction of ring cycle `t`; one that waits will try it again. -/
def StreamEng.stepped (x : StreamEng) (t : Nat) : StreamEng :=
  if x.st = .waiting then x else { x with from_ := t + 1 }

/-- Instruction `i` of an engine's program executes: it does `f` to its cluster, which has the partition, the ring cycle and
the ring's optimizer phase. An engine that cannot execute it does nothing. -/
def State.streamOp (s : State) (e : EngAt) (i : Instr) (f : State → Nat → Nat → Bool → Cluster → Cluster) : State :=
  let ring := e.cl.val / 16
  let s := s.atRing ring (fun r => r.event ring e.cycle (fun _ r => r))
  match s.partOf ring with
  | none => s
  | some part =>
    let r := s.ring ring
    let c := s.cluster e.cl.val
    if r.awake && (c.engine e.eng.val).steps e i r.now then
      let c := f s part r.now r.optph c
      (s.setCluster e.cl.val (c.setEngine e.eng.val ((c.engine e.eng.val).stepped r.now))).takeFlags ring
    else s

/-- An instruction that only changes the engine, and completes in its ring cycle. -/
def State.streamSet (s : State) (e : EngAt) (i : Instr) (f : StreamEng → StreamEng) : Result :=
  .next (s.streamOp e i (fun _ _ _ _ c => c.setEngine e.eng.val (f (c.engine e.eng.val)).advance))

/-- `S.CFG`. -/
def execSCfg (e : EngAt) (dir : Dir) (half : BitVec 15) (base : BitVec 21) (s : State) : Result :=
  s.streamSet e (.sCfg e dir half base) (fun x =>
    let x : StreamEng := if x.dir = dir then x else { x with h0 := restHalf dir, h1 := restHalf dir }
    { x with dir := dir, half := half.toNat, base := base.toNat })

def execSPar (e : EngAt) (da : Fin 8) (s : State) : Result := s.streamSet e (.sPar e da) (fun x => x.setReg da.val x.par)

def execSLi (e : EngAt) (da : Fin 8) (imm : BitVec 48) (s : State) : Result :=
  s.streamSet e (.sLi e da imm) (fun x => x.setReg da.val (imm.signExtend 64))

def execSAddi (e : EngAt) (da sa : Fin 8) (imm : BitVec 48) (s : State) : Result :=
  s.streamSet e (.sAddi e da sa imm) (fun x => x.setReg da.val (x.reg sa.val + imm.signExtend 64))

def execSAdd (e : EngAt) (da sa : Fin 8) (s : State) : Result :=
  s.streamSet e (.sAdd e da sa) (fun x => x.setReg da.val (x.reg da.val + x.reg sa.val))

/-- `S.LOOP` (R184): the next n instructions are executed COUNT times. -/
def execSLoop (e : EngAt) (count : BitVec 24) (n : BitVec 10) (s : State) : Result :=
  .next (s.streamOp e (.sLoop e count n) (fun _ _ _ _ c =>
    let x := c.engine e.eng.val
    let first := x.pc + 1
    c.setEngine e.eng.val { x with
      pc := first, st := .running, loops := ⟨first, first + n.toNat, count.toNat - 1⟩ :: x.loops }))

/-- `S.GET` (R185); an outbound program holds none (R183). -/
def execSGet (e : EngAt) (sa : Fin 8) (len : BitVec 24) (inc : Bool) (s : State) : Result :=
  .next (s.streamOp e (.sGet e sa len inc) (fun s part t ph c =>
    if (c.engine e.eng.val).dir = .inbound then
      s.streamAccess part t ph c e.eng.val sa.val len.toNat inc false else c))

/-- `S.PUT` (R186); an inbound program holds none (R183). -/
def execSPut (e : EngAt) (sa : Fin 8) (len : BitVec 24) (inc : Bool) (s : State) : Result :=
  .next (s.streamOp e (.sPut e sa len inc) (fun s part t ph c =>
    if (c.engine e.eng.val).dir = .outbound then
      s.streamAccess part t ph c e.eng.val sa.val len.toNat inc true else c))

def execSFlip (e : EngAt) (s : State) : Result :=
  .next (s.streamOp e (.sFlip e) (fun _ _ t _ c => c.setEngine e.eng.val ((c.engine e.eng.val).flip t)))

/-- `S.POST` (R198): it waits for the engine's preceding `S.PUT` writes. -/
def execSPost (e : EngAt) (scope : Scope) (name : Byte) (s : State) : Result :=
  let s := s.streamOp e (.sPost e scope name) (fun _ _ _ _ c =>
    let x := c.engine e.eng.val
    let n := (x.jobs.filter (·.out)).length
    let p : StreamPost := ⟨scope, name.toNat, n⟩
    c.setEngine e.eng.val ({ x with posts := x.posts ++ [p] } : StreamEng).advance)
  .next (s.streamPosts e.cl.val e.eng.val)

/-- `S.END` (R188). -/
def execSEnd (e : EngAt) (s : State) : Result :=
  .next (s.streamOp e (.sEnd e) (fun _ _ _ _ c =>
    c.setEngine e.eng.val ({ c.engine e.eng.val with st := .ending } : StreamEng).tryEnd))

/-- R185: a closed half whose `S.GET` writes have all landed is full. -/
def execStreamHalfFull (e : EngAt) (half : Bool) (s : State) : Result :=
  let ring := e.cl.val / 16
  .next (s.atRing ring (fun r => r.event ring e.cycle (fun _ r =>
    let c := r.get (e.cl.val % 16)
    r.put (e.cl.val % 16) (c.setEngine e.eng.val ((c.engine e.eng.val).fillHalf half)))))

/-! ## Transfers (R164, R191, R192) -/

/-- The XF slot: a descriptor is read in the ring cycle of its issue; a submission that finds 16 outstanding is
not executed and sets XFULL. -/
def Ring.xfer (r : Ring) (t : Nat) (op : Xop) (sd : Fin 32) (scope : Scope) (name : Nat) : Ring :=
  let full (c : Cluster) : Bool := decide (16 ≤ xferCount c)
  let r' := r.each (fun _ c =>
    if full c then c
    else c.due t t 6 (.xfer op (bits (c.r.getS sd.val).toNat 5 16 * 32) scope name r.optph))
  match r.firstSlot full with
  | some k => r'.ttFault tfXfull (some k)
  | none => r'

/-- Descriptors read in earlier ring cycles are checked before a submission counts what is outstanding. -/
def State.xferOp (s : State) (i : Issue) (c : Instr) (f : Nat → Ring → Ring) : Result :=
  (s.atRing i.ring (fun r => r.event i.ring i.cycle (fun _ r => r))).slotOp i 6 c f

def execXget (i : Issue) (sd : Fin 32) (tscope : Scope) (tname : Byte) (s : State) : Result :=
  s.xferOp i (.xget i sd tscope tname) (fun t r => r.xfer t .get sd tscope tname.toNat)

def execXput (i : Issue) (sd : Fin 32) (tscope : Scope) (tname : Byte) (s : State) : Result :=
  s.xferOp i (.xput i sd tscope tname) (fun t r => r.xfer t .put sd tscope tname.toNat)

def execXmove (i : Issue) (sd : Fin 32) (tscope : Scope) (tname : Byte) (s : State) : Result :=
  s.xferOp i (.xmove i sd tscope tname) (fun t r => r.xfer t .move sd tscope tname.toNat)

/-- R192: a transfer whose writes are all visible posts its token and leaves the engine. -/
def execTransferComplete (cl : Fin 4096) (idx : Fin 16) (cycle : Nat) (s : State) : Result :=
  let ring := cl.val / 16
  let s := s.atRing ring (fun r => r.event ring cycle (fun _ r => r))
  let c := s.cluster cl.val
  match c.xfers.getD idx.val none with
  | some x =>
    if x.job.len ≤ x.job.put then
      .next ((s.setCluster cl.val { c with xfers := c.xfers.set idx.val none }).postFrom cl.val x.scope x.name 4)
    else .next s
  | none => .next s

end Sys2Proof.Machine
end

