-- ==== Sys2Proof/Machine/TestPort.lean ====
section
/-! DEFINITION. The test access port (R432 to R434, Table 18.6). -/

namespace Sys2Proof.Machine

/-- Cells of the boundary register, from TDI (R432). -/
def cellCount : Nat := 631

/-- Cells of the control lands: the 144 lanes' four cells each come first, then the lands of Table 18.3 in its order, an
input taking one cell, an output two, a bidirectional land three. -/
def cellPerst : Nat := 590
def cellPwrok : Nat := 591
def cellSysRst : Nat := 592
def cellProv : Nat := 595

/-- What a cell captures: a control land's level; of every other land a level that the board or the device drives, which
the model does not follow. -/
def State.landLevel (s : State) (key k : Nat) : Bool :=
  if k = cellPerst then s.lands.perst
  else if k = cellPwrok then s.lands.pwrok
  else if k = cellSysRst then s.lands.sysRst
  else if k = cellTherm ∨ k = cellTherm + 1 then s.lands.thermtrip
  else if k = cellProv then s.lands.provEn
  else Config.free [13, key, k] % 2 == 1

/-- The lands are captured, and the captured cells are shifted out, the one nearest TDO first. -/
def State.capture (s : State) : State :=
  let k := s.draw
  let cs := (List.range cellCount).map (k.2.landLevel k.1)
  ({ k.2 with tap := { k.2.tap with captured := cs } }).emit (.tdo cs.reverse)

/-- What the instruction register captures, shifted out as an instruction is loaded (R432): 0b0000_0001. -/
def irCapture : List Bool := true :: List.replicate 7 false

/-- The port releases the lands under an instruction. -/
def State.freeLands (s : State) (ir : TapIr) : State :=
  ({ s with tap := { s.tap with ir := ir, holding := none } }).driveTherm

/-- A command of the port: while TRST_N is low it stays in Test-Logic-Reset and loads no instruction (R432). -/
def State.scan (s : State) (g : State) : State := if s.tap.trst then g else s

/-- An instruction is loaded that never holds the lands. -/
def State.loadFree (s : State) (ir : TapIr) : State := (s.emit (.tdo irCapture)).freeLands ir

/-- An instruction is loaded that holds the lands while SYS_RST_N is low, and acts as BYPASS while it is high. -/
def State.loadHolding (s : State) (ir : TapIr) : State :=
  ({ s.emit (.tdo irCapture) with tap := { s.tap with ir := ir, holding := if s.lands.sysRst then none else some ir } }).driveTherm

/-- The bypass register captures a 0. -/
def State.shiftBypass (s : State) : State := s.emit (.tdo [false])

/-- Cells shifted into the boundary register, if any are: the lands follow those that an instruction drives them from. -/
def State.shiftIn (s : State) (cells : Option (List Bool)) : State :=
  match cells with
  | some l => if l.length = cellCount then ({ s with tap := { s.tap with cells := l } }).driveTherm else s
  | none => s

/-- The register behind an instruction that drives the lands from the boundary cells: the boundary register while it holds
them, which captures and takes new cells in, else the bypass register. -/
def State.scanHolding (s : State) (cells : Option (List Bool)) : State :=
  if s.tap.holding.isSome then s.capture.shiftIn cells else s.shiftBypass

/-- `EXTEST`: `cells` gives the cells shifted in, if any are. -/
def execExtest (s : State) (cells : Option (List Bool) := none) : Result := .next (s.scan ((s.loadHolding .extest).scanHolding cells))

/-- The identification register (R433). -/
def idCode : Nat := 0x1B4C16D5

/-- `IDCODE`. -/
def execIdcode (s : State) : Result :=
  .next (s.scan ((s.loadFree .idcode).emit (.tdo ((List.range 32).map (bit idCode)))))

/-- `SAMPLE/PRELOAD`: samples the lands; `preload` gives the cells shifted in, if any are. -/
def execSamplePreload (preload : Option (List Bool)) (s : State) : Result :=
  .next (s.scan ((s.loadFree .samplePreload).capture.shiftIn preload))

/-- `CLAMP`. -/
def execClamp (s : State) : Result := .next (s.scan (s.loadHolding .clamp).shiftBypass)

/-- `HIGHZ`. -/
def execHighz (s : State) : Result := .next (s.scan (s.loadHolding .highz).shiftBypass)

/-- `EXTEST_PULSE`. -/
def execExtestPulse (s : State) (cells : Option (List Bool) := none) : Result :=
  .next (s.scan ((s.loadHolding .extestPulse).scanHolding cells))

/-- `EXTEST_TRAIN`. -/
def execExtestTrain (s : State) (cells : Option (List Bool) := none) : Result :=
  .next (s.scan ((s.loadHolding .extestTrain).scanHolding cells))

/-- `BYPASS`. -/
def execBypass (s : State) : Result := .next (s.scan (s.loadFree .bypass).shiftBypass)

/-- The instruction that an 8-bit code loads (Table 18.6); each has its command. -/
def TapIr.ofCode (code : Byte) : TapIr :=
  match code.toNat with
  | 0 => .extest
  | 1 => .idcode
  | 2 => .samplePreload
  | 3 => .clamp
  | 4 => .highz
  | 5 => .extestPulse
  | 6 => .extestTrain
  | _ => .bypass

/-- What loading a code does, with the cells shifted into the register behind it: the command of its instruction (Table 18.6). -/
def State.loadCode (s : State) (code : Byte) (cells : Option (List Bool)) : Result :=
  match TapIr.ofCode code with
  | .extest => execExtest s cells
  | .idcode => execIdcode s
  | .samplePreload => execSamplePreload cells s
  | .clamp => execClamp s
  | .highz => execHighz s
  | .extestPulse => execExtestPulse s cells
  | .extestTrain => execExtestTrain s cells
  | .bypass => execBypass s

/-- `TEST_LOGIC_RESET`: IDCODE becomes the instruction, and the lands are released; a low TRST_N keeps the port there, a high one
lets it leave. -/
def execTestLogicReset (s : State) (by_ : TapReset := .tms) : Result :=
  .next (match by_ with
    | .tms => s.freeLands .idcode
    | .trst high =>
      let s : State := { s with tap := { s.tap with trst := high } }
      if high then s else s.freeLands .idcode)

end Sys2Proof.Machine
end

