-- ==== Sys2Proof/Machine/TrestleNum.lean ====
section
/-! DEFINITION. The arithmetic of a Trestle engine: fixed point, the factor, the solves, refinement, the inner methods and the
gradient (R212 to R216, R223 to R228). Vectors are lists in original row numbering unless a definition says
positions. -/

namespace Sys2Proof.Machine

/-! ## Events of a request (R213, R215, R228) -/

/-- What a request has met so far. A strict request stops at its first RANGE event, and nothing after it counts; where `room` is
given, a deadline leaves room for as many more events and operations with flags, and nothing after those counts either (R228). -/
structure Ev where
  strict : Bool
  nrange : Nat
  rangeRow : Option Nat
  nanin : Bool
  nrepl : Nat
  pivRow : Option Nat
  zero : Bool
  tiny : Bool
  fl : Fl
  room : Option Nat
  deriving DecidableEq, Repr

def Ev.new (strict : Bool) : Ev := ⟨strict, 0, none, false, 0, none, false, false, 0, none⟩

def Ev.stopped (e : Ev) : Bool := e.strict && decide (0 < e.nrange)

/-- Whether nothing more counts. -/
def Ev.shut (e : Ev) : Bool := e.stopped || e.room == some 0

def Ev.spend (e : Ev) : Ev := { e with room := e.room.map (· - 1) }

/-- `n` RANGE events of a row. -/
def Ev.range (e : Ev) (row : Nat) (n : Nat := 1) : Ev :=
  if e.shut || n == 0 then e
  else { e with nrange := e.nrange + (if e.strict then 1 else n), rangeRow := e.rangeRow.or (some row) }.spend

/-- A RANGE event of a value that is not finite. -/
def Ev.nonfinite (e : Ev) (row : Nat) : Ev := { e.range row with nanin := e.nanin || !e.shut }

def Ev.flags (e : Ev) (f : Fl) : Ev := if e.shut then e else { e with fl := e.fl ||| f }.spend

def Ev.pivot (e : Ev) (row : Nat) (zero : Bool) : Ev :=
  if e.shut then e
  else { e with nrepl := e.nrepl + 1, pivRow := e.pivRow.or (some row), zero := e.zero || zero, tiny := e.tiny || !zero }.spend

/-! ## Fixed point (R212, R213) -/

/-- Round to nearest, ties to even. -/
def rneQ (num : Int) (den : Nat) : Int :=
  let q := num / den
  let r := num - q * den
  if 2 * r < den then q else if (den : Int) < 2 * r then q + 1 else if q % 2 = 0 then q else q + 1

/-- Saturate to a `w`-bit value of a row. -/
def Ev.fix (e : Ev) (w row : Nat) (x : Int) : Int × Ev :=
  if x < intLo w true then (intLo w true, e.range row)
  else if intHi w true < x then (intHi w true, e.range row)
  else (x, e)

/-- An FP64 code times 2^k into a format of `f` fraction bits (Table 9.3). -/
def Ev.toFixed (e : Ev) (w f row : Nat) (k : Int) (code : Nat) : Int × Ev :=
  match fp64.decode code with
  | .nan _ => (0, e.nonfinite row)
  | .inf n => (if n then intLo w true else intHi w true, e.nonfinite row)
  | .fin n m x =>
    let t := x + k + f
    let v : Int := if n then -(m : Int) else m
    e.fix w row (if 0 ≤ t then v * (2 ^ t.toNat : Nat) else rneQ v (2 ^ (-t).toNat))

/-- A fixed-point value times 2^(−k) as FP64. -/
def fixedToFp (f : Nat) (k : Int) (v : Int) : Nat × Fl :=
  if v = 0 then (0, 0) else fp64.round .rne false false (decide (v < 0)) v.natAbs (-k - f) false 0

/-! ## The factor (R214, R215) -/

/-- Column and value of each entry of a row. -/
abbrev FRow := List (Nat × Int)

def FRow.at_ (r : FRow) (c : Nat) : Option Int := (r.find? (fun p => p.1 == c)).map (·.2)

/-- Fraction bits by elimination position. -/
def Sched.orig (s : Sched) (k : Nat) : Nat := s.perm.getD k 0
def Sched.fmAt (s : Sched) (k : Nat) : Nat := s.fm.getD (s.orig k) 0
def Sched.fvAt (s : Sched) (k : Nat) : Nat := s.fv.getD (s.orig k) 0

/-- Exact sums are taken in units of 2^(−256); three factors of a term carry at most 186 fraction bits. -/
def unitBits : Nat := 256

def toUnits (x : Int) (f : Nat) : Int := x * (2 ^ (unitBits - f) : Nat)

/-- Entries of A cut into rows. -/
def cutBy {α β : Type} : List (List α) → List β → List (List β)
  | [], _ => []
  | r :: rs, l => l.take r.length :: cutBy rs (l.drop r.length)

/-- The matrix in fixed point, from FP64 codes in pattern order. -/
def Sched.convertA (s : Sched) (vals : List Nat) (e : Ev) : List FRow × Ev :=
  let rows := (List.range s.n).zip (s.rows.zip (cutBy s.rows vals))
  rows.foldl (fun (acc : List FRow × Ev) x =>
    let r := (x.2.1.zip x.2.2).foldl (fun (a : FRow × Ev) p =>
      let y := a.2.toFixed s.w (s.fm.getD x.1 0) x.1 0 p.2
      (a.1 ++ [(p.1, y.1)], y.2)) (([], acc.2) : FRow × Ev)
    (acc.1 ++ [r.1], r.2)) ([], e)

/-- a_ij at elimination positions; 0 outside the pattern. -/
def Sched.aAt (s : Sched) (a : List FRow) (i j : Nat) : Int := (FRow.at_ (a.getD (s.orig i) []) (s.orig j)).getD 0

/-- Quotient of an exact sum by a pivot, in units of 2^(−f) (R214, R216); `fp` is the pivot's fraction bits. -/
def quotUnits (x pivot : Int) (f fp : Nat) : Int :=
  let num := x * (2 ^ (f + fp) : Nat)
  rneQ (if pivot < 0 then -num else num) (pivot.natAbs * 2 ^ unitBits)

def roundUnits (x : Int) (f : Nat) : Int := rneQ x (2 ^ (unitBits - f))

/-- R215: the pivot that is kept. -/
def Sched.keepPivot (s : Sched) (i : Nat) (p : Int) (e : Ev) : Int × Ev :=
  let tau : Int := (2 ^ (s.tau + s.fmAt i).toNat : Nat)
  if p = 0 then (tau, e.pivot (s.orig i) true)
  else if p.natAbs < tau.natAbs then (if p < 0 then -tau else tau, e.pivot (s.orig i) false)
  else (p, e)

/-- Σ of R214 for entry (i, j), in units: over the entries of row i already formed below min(i, j). -/
def Sched.update (s : Sched) (rows : List FRow) (row : FRow) (i j : Nat) : Int :=
  row.foldl (fun a p =>
    let k := p.1
    if min i j ≤ k then a
    else
      let other : Option Int :=
        if s.lu then FRow.at_ (rows.getD k []) j
        else if j = i then some p.2 else FRow.at_ (rows.getD j []) k
      match other with
      | none => a
      | some y =>
        if s.lu then a + toUnits (p.2 * y) (s.fmAt i + s.fmAt k)
        else
          let d := (FRow.at_ (rows.getD k []) k).getD 0
          a + toUnits (p.2 * d * y) (s.fmAt i + s.fmAt k + s.fmAt j)) 0

/-- One row of the factor, entry by entry. -/
def Sched.factorRow (s : Sched) (a : List FRow) (rows : List FRow) (i : Nat) (e : Ev) : FRow × Ev :=
  (s.frow i).foldl (fun (acc : FRow × Ev) j =>
    let x := toUnits (s.aAt a i j) (s.fmAt i) - s.update rows acc.1 i j
    let f := s.fmAt i
    let row := s.orig i
    if j < i then
      let d := (FRow.at_ (rows.getD j []) j).getD 1
      let y := acc.2.fix s.w row (quotUnits x d f (s.fmAt j))
      (acc.1 ++ [(j, y.1)], y.2)
    else
      let y := acc.2.fix s.w row (roundUnits x f)
      let z := if j = i then s.keepPivot i y.1 y.2 else y
      (acc.1 ++ [(j, z.1)], z.2)) ([], e)

/-- The first `n` rows of the factor, by elimination position. -/
def Sched.factorTo (s : Sched) (n : Nat) (vals : List Nat) (e : Ev) : List FRow × Ev :=
  let a := s.convertA vals e
  (List.range n).foldl (fun (acc : List FRow × Ev) i =>
    let r := s.factorRow a.1 acc.1 i acc.2
    (acc.1 ++ [r.1], r.2)) ([], a.2)

/-- The factor. -/
def Sched.factor (s : Sched) (vals : List Nat) (e : Ev) : List FRow × Ev := s.factorTo s.n vals e

/-! ## Solve stages (R216) -/

/-- One stage over positions in an order: b_i − Σ c v_k, divided by a pivot where there is one. `coef` gives the entries
of a sum: position, value, fraction bits. -/
def Sched.stage (s : Sched) (order : List Nat) (coef : Nat → List (Nat × Int × Nat)) (pivot : Nat → Option (Int × Nat))
    (b : List Int) (e : Ev) : List Int × Ev :=
  order.foldl (fun (acc : List Int × Ev) i =>
    let f := s.fvAt i
    let x := (coef i).foldl (fun t c => t - toUnits (c.2.1 * acc.1.getD c.1 0) (c.2.2 + s.fvAt c.1))
      (toUnits (b.getD i 0) f)
    let y := acc.2.fix s.w (s.orig i) (match pivot i with
      | none => roundUnits x f
      | some p => quotUnits x p.1 f p.2)
    (acc.1.set i y.1, y.2)) (List.replicate s.n 0, e)

/-- Entries of a factor row below and above its diagonal, and of a column. -/
def Sched.rowPart (s : Sched) (rows : List FRow) (upper : Bool) (i : Nat) : List (Nat × Int × Nat) :=
  ((rows.getD i []).filter (fun p => if upper then decide (i < p.1) else decide (p.1 < i))).map
    (fun p => (p.1, p.2, s.fmAt i))

def Sched.colPart (s : Sched) (rows : List FRow) (upper : Bool) (i : Nat) : List (Nat × Int × Nat) :=
  (List.range s.n).filterMap (fun k =>
    if (if upper then decide (k < i) else decide (i < k)) then
      (FRow.at_ (rows.getD k []) i).map (fun v => (k, v, s.fmAt k))
    else none)

def Sched.pivotOf (s : Sched) (rows : List FRow) (i : Nat) : Option (Int × Nat) :=
  (FRow.at_ (rows.getD i []) i).map (fun d => (d, s.fmAt i))

/-- The direct solve with the factor or its transpose. -/
def Sched.direct (s : Sched) (rows : List FRow) (trans : Bool) (b : List Int) (e : Ev) : List Int × Ev :=
  let up := List.range s.n
  let down := up.reverse
  let no (_ : Nat) : Option (Int × Nat) := none
  let none_ (_ : Nat) : List (Nat × Int × Nat) := []
  let p := up.map (fun k => b.getD (s.orig k) 0)
  let x : List Int × Ev :=
    if !s.lu then
      let y := s.stage up (s.rowPart rows false) no p e
      let z := s.stage up none_ (s.pivotOf rows) y.1 y.2
      s.stage down (s.colPart rows false) no z.1 z.2
    else if !trans then
      let y := s.stage up (s.rowPart rows false) no p e
      s.stage down (s.rowPart rows true) (s.pivotOf rows) y.1 y.2
    else
      let w := s.stage up (s.colPart rows true) (s.pivotOf rows) p e
      s.stage down (s.colPart rows false) no w.1 w.2
  (up.map (fun i => x.1.getD (s.perm.idxOf i) 0), x.2)

/-! ## The residual kernel (R224) -/

/-- Cut into groups of 12. -/
def groups12 {α : Type} : Nat → List α → List (List α)
  | 0, _ => []
  | n + 1, l => if l.isEmpty then [] else l.take 12 :: groups12 n (l.drop 12)

/-- The FP64 code of 1, and the opposite of a code. -/
def fpOne : Nat := 0x3FF0000000000000
def fpNeg (x : Nat) : Nat := if bit x 63 then x - 2 ^ 63 else x + 2 ^ 63

/-- A fused dot product of FP64 pairs, read out once. -/
def fusedDot (ps : List (Nat × Nat)) : Nat × Fl :=
  let op (x : Nat) : Val := Mode.fp64.operand true x 0
  let acc := (groups12 ps.length ps).foldl (fun (a : Sum × Fl) g =>
    let pr := g.map (fun p => mkProd (op p.1) (op p.2))
    let s := formGroup Mode.fp64.p (pr.map (·.1))
    let j := joinAcc Mode.fp64.accw a.1 s.1
    (j.1, pr.foldl (fun f p => f ||| p.2) a.2 ||| s.2 ||| j.2)) (Sum.zero, 0)
  let r := readSingle (.flt fp64) .rne false 0 127 acc.1
  (r.1, acc.2 ||| r.2)

/-- Entries of row `i` of A, or of its column `i` in ascending row: the other index and the FP64 code. -/
def Sched.line (s : Sched) (a : List (List (Nat × Nat))) (trans : Bool) (i : Nat) : List (Nat × Nat) :=
  if trans then ((List.range s.n).zip a).filterMap (fun r => (r.2.find? (fun p => p.1 == i)).map (fun p => (r.1, p.2)))
  else a.getD i []

def Sched.residual (s : Sched) (m : Nat) (a : List (List (Nat × Nat))) (trans : Bool) (b x : List Nat) : List Nat × Fl :=
  (List.range m).foldl (fun (acc : List Nat × Fl) i =>
    let r := fusedDot ((b.getD i 0, fpOne) :: (s.line a trans i).map (fun p => (fpNeg p.2, x.getD p.1 0)))
    (acc.1 ++ [r.1], acc.2 ||| r.2)) ([], 0)

def fpMag (x : Nat) : Nat := x % 2 ^ 63
def fpFinite (x : Nat) : Bool := decide (fpMag x < 0x7FF0000000000000)
def maxAbs (l : List Nat) : Nat := l.foldl (fun a x => max a (fpMag x)) 0

/-- The scale exponent k of R223. -/
def Sched.scaleOf (s : Sched) (r : List Nat) : Int :=
  let ks := ((List.range s.n).zip r).filterMap (fun p =>
    match fp64.decode p.2 with
    | .fin _ m e => if m = 0 then none else
        some ((s.w : Int) - 2 - s.fv.getD p.1 0 - s.guard - (lg m + e))
    | _ => none)
  ks.foldl min (ks.headD 0)

/-! ## Inner methods (R225) -/

/-- How a request solves: method, iterations, the transpose. -/
structure Inner where
  method : Nat
  iters : Nat
  trans : Bool
  deriving DecidableEq, Repr

/-- A × v with the converted matrix, exact sums rounded once to FV. -/
def Sched.times (s : Sched) (a : List FRow) (v : List Int) (e : Ev) : List Int × Ev :=
  ((List.range s.n).zip a).foldl (fun (acc : List Int × Ev) r =>
    let x := r.2.foldl (fun t p => t + toUnits (p.2 * v.getD p.1 0) (s.fm.getD r.1 0 + s.fv.getD p.1 0)) 0
    let y := acc.2.fix s.w r.1 (roundUnits x (s.fv.getD r.1 0))
    (acc.1 ++ [y.1], y.2)) ([], e)

/-- An inner product, exact and converted once, with the flags of its conversion (Table 9.3). -/
def Sched.inner2 (s : Sched) (v w : List Int) (e : Ev) : Nat × Ev :=
  let x := (List.range s.n).foldl (fun t i => t + toUnits (v.getD i 0 * w.getD i 0) (2 * s.fv.getD i 0)) 0
  let y := fixedToFp unitBits 0 x
  (y.1, e.flags y.2)

/-- v + α × w, formed exactly and rounded once. -/
def Sched.axpy (s : Sched) (v : List Int) (alpha : Nat) (neg : Bool) (w : List Int) (e : Ev) : List Int × Ev :=
  match fp64.decode alpha with
  | .fin n m x =>
    (List.range s.n).foldl (fun (acc : List Int × Ev) i =>
      let p : Int := (if xor n neg then -(m : Int) else m) * w.getD i 0
      let t := if 0 ≤ x then v.getD i 0 + p * (2 ^ x.toNat : Nat)
        else rneQ (v.getD i 0 * (2 ^ (-x).toNat : Nat) + p) (2 ^ (-x).toNat)
      let y := acc.2.fix s.w i t
      (acc.1 ++ [y.1], y.2)) ([], e)
  | _ => (v, e)

/-- Whether a number may divide: not zero, finite. -/
def divides (x : Nat) : Bool := fpFinite x && decide (fpMag x ≠ 0)

/-- PCG: d, r, p, r · z and the events. The standard recurrence, in its order: α, d, r, z, β, p; nothing is formed after
the last d. -/
def Sched.pcg (s : Sched) (a rows : List FRow) : Nat → List Int → List Int → List Int → Nat → Ev → List Int × Ev
  | 0, d, _, _, _, e => (d, e)
  | n + 1, d, r, p, rho, e =>
    let q := s.times a p e
    let den := s.inner2 p q.1 q.2
    if !divides den.1 then (d, den.2)
    else
      let alpha := (divOp fp64 .rne false 0 rho den.1).1
      let d' := s.axpy d alpha false p den.2
      if n = 0 then d'
      else
        let r' := s.axpy r alpha true q.1 d'.2
        let z := s.direct rows false r'.1 r'.2
        let rho' := s.inner2 r'.1 z.1 z.2
        if !divides rho then (d'.1, rho'.2)
        else
          let p' := s.axpy z.1 (divOp fp64 .rne false 0 rho'.1 rho).1 false p rho'.2
          Sched.pcg s a rows n d'.1 r'.1 p'.1 rho'.1 p'.2

/-- Aᵀ × v with the converted matrix, exact sums rounded once to FV. -/
def Sched.timesT (s : Sched) (a : List FRow) (v : List Int) (e : Ev) : List Int × Ev :=
  (List.range s.n).foldl (fun (acc : List Int × Ev) i =>
    let x := ((List.range s.n).zip a).foldl (fun t r =>
      t + toUnits ((FRow.at_ r.2 i).getD 0 * v.getD r.1 0) (s.fm.getD r.1 0 + s.fv.getD r.1 0)) 0
    let y := acc.2.fix s.w i (roundUnits x (s.fv.getD i 0))
    (acc.1 ++ [y.1], y.2)) ([], e)

/-- An IEEE square root of an inner product with itself. -/
def Sched.norm2 (s : Sched) (v : List Int) (e : Ev) : Nat × Ev :=
  let x := s.inner2 v v e
  ((sqrtOp fp64 .rne false 0 x.1).1, x.2)

/-- v scaled by the IEEE reciprocal of a number, rounded once. -/
def Sched.scaleBy (s : Sched) (v : List Int) (nrm : Nat) (e : Ev) : List Int × Ev :=
  s.axpy (List.replicate s.n 0) (divOp fp64 .rne false 0 fpOne nrm).1 false v e

/-- Modified Gram–Schmidt in basis order: w without its parts along the basis, and the coefficients. -/
def Sched.orthogonal (s : Sched) (w : List Int) (vs : List (List Int)) (e : Ev) : List Nat × List Int × Ev :=
  vs.foldl (fun (acc : List Nat × List Int × Ev) v =>
    let h := s.inner2 acc.2.1 v acc.2.2
    let x := s.axpy acc.2.1 h.1 true v h.2
    (acc.1 ++ [h.1], x.1, x.2)) ([], w, e)

/-- Arnoldi steps, right-preconditioned, from the basis and the Hessenberg columns formed so far; a norm
that may not divide ends them. Each column ends with its norm, the last one too. A symmetric matrix is its own transpose, and the
same products are formed for both (R227). -/
def Sched.arnoldi (s : Sched) (trans : Bool) (a rows : List FRow) :
    Nat → List (List Int) → List (List Nat) → Ev → List (List Int) × List (List Nat) × Ev
  | 0, vs, hs, e => (vs, hs, e)
  | n + 1, vs, hs, e =>
    let z := s.direct rows trans (vs.getLastD []) e
    let w := if trans && s.lu then s.timesT a z.1 z.2 else s.times a z.1 z.2
    let q := s.orthogonal w.1 vs w.2
    let nrm := s.norm2 q.2.1 q.2.2
    let hs := hs ++ [q.1 ++ [nrm.1]]
    if n = 0 ∨ divides nrm.1 = false then (vs, hs, nrm.2)
    else
      let v := s.scaleBy q.2.1 nrm.1 nrm.2
      Sched.arnoldi s trans a rows n (vs ++ [v.1]) hs v.2

/-! FP64 operations of the least-squares problem, each rounded by RNE. -/
def fpMul (x y : Nat) : Nat := (mulOp fp64 .rne false 0 x y).1
def fpAdd (x y : Nat) : Nat := (addOp fp64 .rne false 0 false x y).1
def fpSub (x y : Nat) : Nat := (addOp fp64 .rne false 0 true x y).1
def fpDiv (x y : Nat) : Nat := (divOp fp64 .rne false 0 x y).1

/-- A Givens rotation: cosine and sine. -/
structure Rotation where
  c : Nat
  s : Nat
  deriving DecidableEq, Repr

/-- A pair of adjacent entries under a rotation: c x + s y and c y − s x. -/
def Rotation.turn (r : Rotation) (x y : Nat) : Nat × Nat :=
  (fpAdd (fpMul r.c x) (fpMul r.s y), fpSub (fpMul r.c y) (fpMul r.s x))

/-- The earlier rotations over a Hessenberg column, first to last: the entries they leave, and what is left of the column. -/
def turnColumn : List Rotation → List Nat → List Nat × List Nat
  | r :: rs, x :: y :: l =>
    let p := r.turn x y
    let q := turnColumn rs (p.2 :: l)
    (p.1 :: q.1, q.2)
  | _, l => ([], l)

/-- The columns of the triangle, its pivot last in each, and the right-hand side, column by column; a pivot that may
not divide ends them. -/
def triangle : List (List Nat) → List Rotation → List (List Nat) → List Nat → Nat → List (List Nat) × List Nat
  | [], _, cols, g, _ => (cols, g)
  | h :: hs, rs, cols, g, top =>
    match turnColumn rs h with
    | (up, a :: b :: _) =>
      let r := (sqrtOp fp64 .rne false 0 (fpAdd (fpMul a a) (fpMul b b))).1
      if divides r then
        let rot : Rotation := ⟨fpDiv a r, fpDiv b r⟩
        let t := rot.turn top 0
        triangle hs (rs ++ [rot]) (cols ++ [up ++ [r]]) (g ++ [t.1]) t.2
      else (cols, g)
    | _ => (cols, g)

/-- Back-substitution, last column first: the coefficients. -/
def backSubstitute (cols : List (List Nat)) (g : List Nat) : List Nat :=
  (List.range cols.length).reverse.foldl (fun (ys : List Nat) i =>
    let t := ((cols.drop (i + 1)).zip ys).foldl (fun t p => fpSub t (fpMul (p.1.getD i 0) p.2)) (g.getD i 0)
    fpDiv t ((cols.getD i []).getD i 0) :: ys) []

/-- The coefficients y of the least-squares problem that the norm of rs and the Hessenberg columns pose, by Givens rotations
and back-substitution in FP64. Table 9.9 gives the method and the precision; the textbook's form of the rotations, c = a/r and
s = b/r with r = √(a² + b²), and the order of the operations are PRESUMED (log entry 25). -/
def leastSquares (beta : Nat) (hs : List (List Nat)) : List Nat :=
  let t := triangle hs [] [] [] beta
  backSubstitute t.1 t.2

/-- Σ y_j v_j, exact and rounded once; the y are FP64 codes, of which only finite ones count. -/
def Sched.combine (s : Sched) (ys : List Nat) (vs : List (List Int)) (e : Ev) : List Int × Ev :=
  let ts : List (Int × Int × List Int) := (ys.zip vs).filterMap (fun p => match fp64.decode p.1 with
    | .fin n m x => some ((if n then -(m : Int) else m), x, p.2)
    | _ => none)
  let lo : Int := ts.foldl (fun a t => min a t.2.1) 0
  (List.range s.n).foldl (fun (acc : List Int × Ev) i =>
    let x : Int := ts.foldl (fun (a : Int) t => a + t.1 * (2 ^ (t.2.1 - lo).toNat : Nat) * t.2.2.getD i 0) 0
    let y := acc.2.fix s.w i (rneQ x (2 ^ (-lo).toNat))
    (acc.1 ++ [y.1], y.2)) ([], e)

/-- One cycle of GMRES. The correction is the sum itself, as Table 9.9 writes it (DEDUCED, log entry 25). -/
def Sched.gmres (s : Sched) (m : Inner) (a rows : List FRow) (rs : List Int) (e : Ev) : List Int × Ev :=
  let beta := s.norm2 rs e
  if !divides beta.1 then (List.replicate s.n 0, beta.2)
  else
    let v := s.scaleBy rs beta.1 beta.2
    let b := s.arnoldi m.trans a rows m.iters [v.1] [] v.2
    s.combine (leastSquares beta.1 b.2.1) b.1 b.2.2

/-- The inner solve of a scaled residual. -/
def Sched.inner (s : Sched) (m : Inner) (a rows : List FRow) (rs : List Int) (e : Ev) : List Int × Ev :=
  match m.method with
  | 0 => s.direct rows m.trans rs e
  | 1 =>
    let z := s.direct rows false rs e
    let rho := s.inner2 rs z.1 z.2
    s.pcg a rows m.iters (List.replicate s.n 0) rs z.1 rho.1 rho.2
  | _ => s.gmres m a rows rs e

/-! ## Refinement (R223, R228) -/

/-- Why the loop ended. -/
inductive LoopEnd where
  | converged | maxref | deadline | nonfinite | ranged
  deriving DecidableEq, Repr

/-- The deadline's cut: correction solves completed, whether the residual of the last iterate had been formed, and how far what it
interrupted had come: rows of that residual, or events of the next correction solve. -/
structure Cut where
  iters : Nat
  residual : Bool
  done : Nat
  deriving DecidableEq, Repr

/-- What the loop works on, and what it reaches. -/
structure Loop where
  x : List Nat
  iters : Nat
  best : Option (List Nat × Nat)
  ev : Ev
  deriving DecidableEq, Repr

/-- The operands of a solve. -/
structure Solve where
  a : List (List (Nat × Nat))
  fixedA : List FRow
  rows : List FRow
  b : List Nat
  tol : Nat
  maxref : Nat
  m : Inner
  cut : Option Cut
  deriving DecidableEq, Repr

/-- x + ds × 2^(−k), element by element. -/
def Sched.correct (s : Sched) (x : List Nat) (ds : List Int) (k : Int) (e : Ev) : List Nat × Ev :=
  (List.range s.n).foldl (fun (acc : List Nat × Ev) i =>
    let d := fixedToFp (s.fv.getD i 0) k (ds.getD i 0)
    let y := addOp fp64 .rne false 0 false (x.getD i 0) d.1
    (acc.1 ++ [y.1], acc.2.flags (d.2 ||| y.2))) ([], e)

/-- r × 2^k in the rows' vector formats. -/
def Sched.scaled (s : Sched) (r : List Nat) (k : Int) (e : Ev) : List Int × Ev :=
  ((List.range s.n).zip r).foldl (fun (acc : List Int × Ev) p =>
    let y := acc.2.toFixed s.w (s.fv.getD p.1 0) p.1 k p.2
    (acc.1 ++ [y.1], y.2)) ([], e)

/-- A residual takes its flags, and is a RANGE event where it is not finite: then its row. -/
def Sched.weigh (s : Sched) (m : Nat) (r : List Nat × Fl) (e : Ev) : Option Nat × Ev :=
  let e := e.flags r.2
  match (List.range (min m s.n)).find? (fun i => !fpFinite (r.1.getD i 0)) with
  | some i => (some i, e.nonfinite i)
  | none => (none, e)

/-- One correction solve: x + inner(r × 2^k) × 2^(−k), where it is not stopped (R223). -/
def Sched.step (s : Sched) (q : Solve) (r x : List Nat) (e : Ev) : List Nat × Ev :=
  let k := s.scaleOf r
  let rs := s.scaled r k e
  let ds := s.inner q.m q.fixedA q.rows rs.1 rs.2
  if ds.2.stopped then (x, ds.2) else s.correct x ds.1 k ds.2

/-- The loop of R223. What a deadline interrupts counts as far as it had come (R228, Table 9.10). -/
def Sched.refine (s : Sched) (q : Solve) : Nat → Loop → LoopEnd × Loop
  | 0, l => (.maxref, l)
  | n + 1, l =>
    let cutNow (res : Bool) : Option Nat := match q.cut with
      | some c => if c.iters ≤ l.iters ∧ c.residual = res then some c.done else none
      | none => none
    match cutNow false with
    | some m => (.deadline, { l with ev := (s.weigh m (s.residual (min m s.n) q.a q.m.trans q.b l.x) l.ev).2 })
    | none =>
      let r := s.residual s.n q.a q.m.trans q.b l.x
      match s.weigh s.n r l.ev with
      | (some _, e) => (.nonfinite, { l with ev := e })
      | (none, e) =>
        let nrm := maxAbs r.1
        let better : Bool := match l.best with
          | none => true
          | some b => decide (nrm < b.2)
        let l : Loop := { l with ev := e, best := if better then some (l.x, nrm) else l.best }
        if nrm ≤ q.tol then (.converged, l)
        else match cutNow true with
        | some m => (.deadline, { l with ev := (s.step q r.1 l.x { l.ev with room := some m }).2 })
        | none =>
          if l.iters = q.maxref then (.maxref, l)
          else
            let x := s.step q r.1 l.x l.ev
            if x.2.stopped then (.ranged, { l with ev := x.2 })
            else Sched.refine s q n { l with x := x.1, iters := l.iters + 1, ev := x.2 }

/-! ## The gradient (R227) -/

/-- −λ_i × x_j, or that plus what GOUT holds, for the first `n` entries in pattern order. -/
def Sched.grad (s : Sched) (n : Nat) (lam x : List Nat) (old : Option (List Nat)) : List Nat × Fl :=
  let ps := (((List.range s.n).zip s.rows).flatMap (fun r => r.2.map (fun j => (r.1, j)))).take n
  (((List.range ps.length).zip ps).foldl (fun (acc : List Nat × Fl) p =>
    let l := fpNeg (lam.getD p.2.1 0)
    let y := match old with
      | none => mulOp fp64 .rne false 0 l (x.getD p.2.2 0)
      | some g => fmaOp fp64 .rne false 0 false false l (x.getD p.2.2 0) (g.getD p.1 0)
    (acc.1 ++ [y.1], acc.2 ||| y.2)) ([], 0))

end Sys2Proof.Machine
end

