-- ==== Sys2Proof/Machine/Trestle.lean ====
section
/-! DEFINITION. The Trestle engine's requests: submission, start checks, deadlines, completion, schedules (R207, R217 to R222,
R226 to R237), and the free accesses of local stores (R243), a Trestle engine's among them. A request's arithmetic is done
once its stripes have been read: until then no program may write what it reads (R232). -/

namespace Sys2Proof.Machine

/-! ## Descriptor (Table 9.6) -/

def rqOp (d : List Byte) : Nat := leAt d 0 1
def rqFlags (d : List Byte) : Nat := leAt d 1 1
def rqSched (d : List Byte) : Nat := leAt d 2 1
def rqMethod (d : List Byte) : Nat := leAt d 3 1
def rqInnerM (d : List Byte) : Nat := leAt d 4 1
def rqMaxref (d : List Byte) : Nat := leAt d 5 1
def rqDeadline (d : List Byte) : Nat := leAt d 8 4
def rqStrict (d : List Byte) : Bool := bit (rqFlags d) 0
def rqWarm (d : List Byte) : Bool := bit (rqFlags d) 1
def rqRefact (d : List Byte) : Bool := bit (rqFlags d) 2
def rqAccum (d : List Byte) : Bool := bit (rqFlags d) 3
def rqSolves (d : List Byte) : Bool := rqOp d == 2 || rqOp d == 3 || rqOp d == 4

/-! ## Operand areas (R220, Table 9.7) -/

inductive TrArea where
  | deck (pa : Nat)
  | stripe (base : Nat)
  deriving DecidableEq, Repr

def trArea (d : List Byte) (o : Nat) : TrArea :=
  let x := leAt d o 8
  if bit x 63 then .stripe (bits x 6 15 * 64) else .deck (x % 2 ^ 48)

/-- An area of a request: where, bytes, read, written. -/
structure TrUse where
  area : TrArea
  len : Nat
  rd : Bool
  wr : Bool
  deriving DecidableEq, Repr

def Sched.vlen (s : Sched) : Nat := 8 * s.n
def Sched.factLen (s : Sched) : Nat := 1024 + s.nnzf * s.w / 8

def Sched.workLen (s : Sched) (d : List Byte) : Nat :=
  match rqMethod d with
  | 0 => 2 * s.vlen
  | 1 => 5 * s.vlen + 8 * s.nnza
  | _ => (rqInnerM d + 3) * s.vlen + 8 * s.nnza

/-- The areas an operation uses. -/
def Sched.uses (s : Sched) (d : List Byte) : List TrUse :=
  let vals := trArea d 16
  let rhs := trArea d 24
  let sol := trArea d 32
  let fact := trArea d 40
  let work := trArea d 48
  let gout := trArea d 56
  match rqOp d with
  | 1 => [⟨vals, 8 * s.nnza, true, false⟩, ⟨fact, s.factLen, false, true⟩]
  | 5 => [⟨rhs, 64 + s.vlen, true, false⟩, ⟨sol, 64 + s.vlen, true, false⟩, ⟨gout, 8 * s.nnza, rqAccum d, true⟩]
  | op => [⟨vals, 8 * s.nnza, true, false⟩, ⟨rhs, s.vlen, true, false⟩, ⟨sol, 64 + s.vlen, rqWarm d, true⟩,
      ⟨fact, s.factLen, op != 4, op == 4 || rqRefact d⟩, ⟨work, s.workLen d, true, true⟩]

/-- Check 4 of Table 9.8. -/
def State.useOk (s : State) (part ring : Nat) (u : TrUse) : Bool :=
  match u.area with
  | .deck pa =>
    decide (pa % 64 = 0) && decide (pa / 2 ^ 32 = ring / 16) && decide ((pa + u.len - 1) / 2 ^ 32 = ring / 16) &&
      s.maps part pa u.len false && (!u.wr || s.maps part pa u.len true)
  | .stripe base => decide (base + 64 * ceilDiv u.len 1024 ≤ lsSize)

/-! ## Accesses (R206, R220, R235) -/

/-- Lines of a stripe that `len` bytes from an offset touch: offset of the line, logical slot, local store address. -/
def stripeLines (base off len : Nat) : List (Nat × Nat × Nat) :=
  if len = 0 then [] else
    (List.range ((off % 64 + len + 63) / 64)).map (fun k =>
      let o := (off / 64 + k) * 64
      (o, o / 64 % 16, base + 64 * (o / 1024)))

def Ring.lsCtx (r : Ring) (ring slot : Nat) : LsCtx := ⟨ring, r.wakes, r.now, slot, []⟩

/-- Read `len` bytes from offset `off` of an area. -/
def State.areaRead (s : State) (part ring : Nat) (a : TrArea) (off len : Nat) : Except EngBad (List Byte) :=
  match a with
  | .deck pa =>
    s.engineRead none part (pa + off) len
  | .stripe base =>
    let r := s.ring ring
    let ls := stripeLines base off len
    match ls.find? (fun x => (r.get x.2.1).ls.lost (r.lsCtx ring x.2.1) (lineOf x.2.2)) with
    | some x => .error (.mem (windowAt (ring * 16 + x.2.1) x.2.2))
    | none => .ok (slice (ls.flatMap (fun x => (r.get x.2.1).ls.read (r.lsCtx ring x.2.1) x.2.2 64)) (off % 64) len)

/-- The lines that some bytes of areas touch, as logical slot and line; none for an area in the deck (R220). -/
def stripeTodo (us : List (TrArea × Nat × Nat)) : List (Nat × Nat) :=
  us.flatMap (fun u => match u.1 with
    | .stripe base => (stripeLines base u.2.1 u.2.2).map (fun x => (x.2.1, lineOf x.2.2))
    | .deck _ => [])

/-- The areas of a request's operands that it reads. -/
def readUses (us : List TrUse) : List (TrArea × Nat × Nat) := (us.filter (·.rd)).map (fun u => (u.area, 0, u.len))

/-- The lines of writes to stripes, each write in its place. -/
def stripeWrites (ws : List (TrArea × Nat × List Byte)) : List TrLine :=
  ((List.range ws.length).zip ws).flatMap (fun w => match w.2.1 with
    | .deck _ => []
    | .stripe base => (stripeLines base w.2.2.1 w.2.2.2.length).map (fun x =>
      let lo := max x.1 w.2.2.1
      let hi := min (x.1 + 64) (w.2.2.1 + w.2.2.2.length)
      ⟨w.1, x.2.1, x.2.2 + lo % 64, slice w.2.2.2 (lo - w.2.2.1) (hi - lo)⟩))

/-- Writes to the deck one after another, up to the first that fails; they are journaled when the request was submitted in the
optimizer phase (R310). -/
def State.deckWrites (s : State) (part : Nat) (jr : Bool) : List (TrArea × Nat × List Byte) → Option EngBad × State
  | [] => (none, s)
  | (.stripe _, _) :: ws => State.deckWrites s part jr ws
  | (.deck pa, off, bs) :: ws =>
    match s.engineWrite none part (pa + off) jr bs with
    | (some b, s) => (some b, s)
    | (none, s) => State.deckWrites s part jr ws

/-- R235, R257, R313: an access has failed, and the request goes no further until a recovery stops it. An access that waits
has not failed. -/
def State.trestleBad (s : State) (part ring : Nat) (b : EngBad) : State :=
  match b with
  | .xlate _ => s.setRing ring (s.ring ring).trestleDenied
  | .mem pa => (s.setRing ring ((s.ring ring).trestleMemerr pa)).meetsAt part pa
  | .limit => s.setRing ring { s.ring ring with tr := (s.ring ring).tr.fails }
  | .wait => s

/-! ## Factor and solution areas (R222, R226) -/

/-- One copy of a factor area's header. -/
def factHead (s : Sched) (id nrepl pivrow : Nat) : List Byte :=
  toLe 8 s.fprint ++ [BitVec.ofNat 8 id, 1] ++ toLe 4 nrepl ++ toLe 4 pivrow ++ List.replicate 46 0

/-- Whether a factor area's first 1,024 bytes name a valid factor of a schedule. -/
def factValid (s : Sched) (id : Nat) (head : List Byte) : Bool :=
  let line (k : Nat) : List Byte := slice head (64 * k) 64
  (List.range 16).all (fun k => line k == line 0) && leAt head 9 1 == 1 && leAt head 0 8 == s.fprint && leAt head 8 1 == id

/-- STATE 0x00 in every copy of the header, as writes to the factor area. -/
def factVoid (fact : TrArea) : List (TrArea × Nat × List Byte) := (List.range 16).map (fun k => (fact, 64 * k + 9, [0]))

/-- Factor entries as bytes, and back. -/
def factBytes (s : Sched) (rows : List FRow) : List Byte :=
  rows.flatMap (fun r => r.flatMap (fun p => toLe (s.w / 8) (wrapInt s.w p.2)))

def factRows (s : Sched) (bs : List Byte) : List FRow :=
  let vs := (if s.w = 32 then words32 s.nnzf bs else words64 s.nnzf bs).map (sextInt s.w)
  (s.frows.zip (cutBy s.frows vs)).map (fun r => r.1.zip r.2)
where
  words64 : Nat → List Byte → List Nat
    | 0, _ => []
    | n + 1, b => leNat (b.take 8) :: words64 n (b.drop 8)

/-- FP64 vectors as bytes, and back. -/
def fpVec (n : Nat) (bs : List Byte) : List Nat := factRows.words64 n bs
def fpBytes (l : List Nat) : List Byte := l.flatMap (toLe 8)

def solHead (s : Sched) (resnorm iters : Nat) : List Byte :=
  toLe 8 s.fprint ++ toLe 8 resnorm ++ toLe 4 iters ++ List.replicate 44 0

/-! ## Start checks (R221, Table 9.8) -/

/-- The schedule a descriptor names, out of a store. -/
def schedIn (store : Tab (List Byte)) (d : List Byte) : Option Sched :=
  match Tab.find store (rqSched d) with
  | some b => parseSched b
  | none => none

/-- Check 1. -/
def rqForm (d : List Byte) : Bool :=
  let op := rqOp d
  let m := rqMethod d
  let tol (o : Nat) : Bool :=
    let x := leAt d o 8
    fpFinite x && (decide (x < 2 ^ 63) || decide (x = 2 ^ 63))
  decide (1 ≤ op) && decide (op ≤ 5) && decide (rqFlags d < 16) && decide (m ≤ 2) &&
    (if m = 0 then rqInnerM d == 0 else decide (1 ≤ rqInnerM d) && decide (rqInnerM d ≤ 32)) &&
    (if rqSolves d then decide (1 ≤ rqMaxref d) else rqMaxref d == 0) && decide (1 ≤ rqDeadline d) && tol 64 && tol 72 &&
    leAt d 80 48 == 0

/-- Check 3. -/
def rqClass (s : Sched) (d : List Byte) : Bool :=
  (rqSolves d || rqStrict d) && (rqMethod d != 1 || !s.lu) && (!rqWarm d || rqSolves d)

/-- Checks 1 to 4, which read no operand: the status of the one that fails, if one does. -/
def State.formChecks (s : State) (part ring : Nat) (d : List Byte) : Option Nat :=
  if !rqForm d then some stFormat
  else match schedIn (s.ring ring).tr.store d with
  | none => some stFormat
  | some sc =>
    if !rqClass sc d then some stFormat
    else if !(sc.uses d).all (s.useOk part ring) then some stBounds else none

/-- The headers that checks 5 and 6 read, and that tell a request with REFACT whether to factor. -/
def headUses (d : List Byte) : List (TrArea × Nat × Nat) :=
  match rqOp d with
  | 2 | 3 => [(trArea d 40, 0, 1024)]
  | 5 => [(trArea d 24, 0, 64), (trArea d 32, 0, 64)]
  | _ => []

/-- Checks 5 and 6, which read the factor's or the solution areas' headers. -/
def State.readChecks (s : State) (part ring : Nat) (d : List Byte) : Except EngBad (Option Nat) :=
  match schedIn (s.ring ring).tr.store d with
  | none => .ok none
  | some sc =>
    if (rqOp d = 2 ∨ rqOp d = 3) ∧ !rqRefact d then
      match s.areaRead part ring (trArea d 40) 0 1024 with
      | .error b => .error b
      | .ok h => .ok (if factValid sc (rqSched d) h then none else some stConflict)
    else if rqOp d = 5 then
      match s.areaRead part ring (trArea d 24) 0 64, s.areaRead part ring (trArea d 32) 0 64 with
      | .ok a, .ok b => .ok (if leAt a 0 8 == sc.fprint && leAt b 0 8 == sc.fprint then none else some stConflict)
      | .error b, _ => .error b
      | _, .error b => .error b
    else .ok none

/-- A schedule of the image that has not been copied yet. -/
def Trestle.awaits (x : Trestle) (d : List Byte) : Bool :=
  bit x.image (rqSched d) && (Tab.find x.store (rqSched d)).isNone

/-! ## What a request does -/

/-- The end of a request: what the status word says, and the writes it makes before that. -/
structure TrEnd where
  code : Nat
  released : Bool
  factored : Bool
  deadline : Bool
  nocon : Bool
  warmLost : Bool
  ev : Ev
  iters : Nat
  resnorm : Nat
  writes : List (TrArea × Nat × List Byte)
  deriving DecidableEq, Repr

def fpInf : Nat := 0x7FF0000000000000

/-- A request rejected at its start. -/
def TrEnd.rejected (code : Nat) (resnorm : Nat) : TrEnd :=
  ⟨code, false, false, false, false, false, Ev.new false, 0, resnorm, []⟩

def TrEnd.pick (x : TrEnd) (strict : Bool) : TrEnd :=
  { x with code :=
      if strict && !x.released && (0 < x.ev.nrange : Bool) then 0x0302
      else if strict && !x.released && (x.deadline || x.nocon) then 0x0301
      else if 0 < x.ev.nrange then 0x0302
      else if x.ev.zero then 0x0304
      else if x.ev.tiny then 0x0305
      else if x.warmLost then 0x0303 else stOk }

/-- `FACTOR`; `late` gives, where its deadline stopped it, the rows of the factor formed by then: what they met is reported
(Table 9.10). -/
def Sched.doFactor (s : Sched) (d : List Byte) (vals : List Nat) (late : Option Nat) : TrEnd :=
  let fact := trArea d 40
  let e := s.factorTo (late.getD s.n) vals (Ev.new true)
  if e.2.stopped then TrEnd.pick ⟨0, false, false, false, false, false, e.2, 0, 0, []⟩ true
  else if late.isSome then TrEnd.pick ⟨0, false, false, true, false, false, e.2, 0, 0, []⟩ true
  else
    let h := factHead s (rqSched d) e.2.nrepl (e.2.pivRow.getD 0xFFFFFFFF)
    TrEnd.pick ⟨0, false, true, false, false, false, e.2, 0, 0,
      [(fact, 1024, factBytes s e.1), (fact, 0, (List.replicate 16 h).flatten)]⟩ true

/-- `GRAD`; `late` gives, where its deadline stopped it, the entries formed by then. -/
def Sched.doGrad (s : Sched) (d : List Byte) (lam x : List Nat) (old : Option (List Nat)) (late : Option Nat) : TrEnd :=
  let g := s.grad (late.getD s.nnza) lam x old
  if late.isSome then TrEnd.pick ⟨0, false, false, true, false, false, (Ev.new true).flags g.2, 0, 0, []⟩ true
  else TrEnd.pick ⟨0, true, false, false, false, false, (Ev.new true).flags g.2, 0, 0, [(trArea d 56, 0, fpBytes g.1)]⟩ true

/-- What a solve reads: entries, right-hand side, solution area when warm, factor area. -/
structure SolveIn where
  vals : List Nat
  b : List Nat
  warm : Option (List Byte)
  head : List Byte
  fact : List Byte
  deriving DecidableEq, Repr

/-- Whether a request factors: a factoring, or a solve with REFACT that finds its factor invalid (R222). -/
def Sched.factors (s : Sched) (d head : List Byte) : Bool :=
  rqOp d == 1 || rqOp d == 4 || ((rqOp d == 2 || rqOp d == 3) && rqRefact d && !factValid s (rqSched d) head)

/-- A solve. `cut` is the deadline's; where it came before the factor was whole, `cutFactor` gives the rows formed by then. DESIGN
CHOICE (log entry 50): PCG and GMRES convert the matrix for themselves, beside the conversion that the factor makes, so a
saturating entry of a factoring request counts in both. -/
def Sched.doSolve (s : Sched) (d : List Byte) (q : SolveIn) (cut : Option Cut) (cutFactor : Option Nat) : TrEnd :=
  let strict := rqStrict d
  let factors := s.factors d q.head
  let fact := trArea d 40
  let rows := if factors then cutFactor else none
  let f : List FRow × Ev := if factors then s.factorTo (rows.getD s.n) q.vals (Ev.new strict)
    else (factRows s q.fact, Ev.new strict)
  let warmOk := match q.warm with
    | some a => leAt a 0 8 == s.fprint
    | none => false
  let warmLost := q.warm.isSome && !warmOk
  let x0 : List Nat := match q.warm with
    | some a => if warmOk then fpVec s.n (a.drop 64) else List.replicate s.n 0
    | none => List.replicate s.n 0
  let sol (x : List Nat) (norm it : Nat) : List (TrArea × Nat × List Byte) :=
    [(trArea d 32, 64, fpBytes x), (trArea d 32, 0, solHead s norm it)]
  if f.2.stopped then TrEnd.pick ⟨0, false, false, false, false, warmLost, f.2, 0, fpInf, []⟩ strict
  else if rows.isSome then
    TrEnd.pick ⟨0, !strict, false, true, false, warmLost, f.2, 0, fpInf, if strict then [] else sol x0 fpInf 0⟩ strict
  else
    let head := factHead s (rqSched d) f.2.nrepl (f.2.pivRow.getD 0xFFFFFFFF)
    let fw : List (TrArea × Nat × List Byte) := if factors then
      [(fact, 1024, factBytes s f.1), (fact, 0, (List.replicate 16 head).flatten)] else []
    let a := (s.rows.zip (cutBy s.rows q.vals)).map (fun r => r.1.zip r.2)
    let conv := if rqMethod d = 0 then ([], f.2) else s.convertA q.vals f.2
    let tol := (fmaOp fp64 .rne false 0 false false (leAt d 72 8) (maxAbs q.b) (leAt d 64 8)).1
    let y := s.refine ⟨a, conv.1, f.1, q.b, fpMag tol, rqMaxref d,
      ⟨rqMethod d, rqInnerM d, rqOp d == 3⟩, cut⟩ (rqMaxref d + 1) ⟨x0, 0, none, conv.2⟩
    let l := y.2
    let met := y.1 == .converged
    let released := if strict then met && !l.ev.stopped else true
    let best := l.best.getD (x0, fpInf)
    TrEnd.pick ⟨0, released, factors, y.1 == .deadline, y.1 == .maxref, warmLost, l.ev, l.iters, best.2,
      fw ++ (if released then sol best.1 best.2 l.iters else [])⟩ strict

/-- COND of Table 9.11. -/
def TrEnd.cond (x : TrEnd) : Nat :=
  b2n x.released + 2 * b2n x.factored + 4 * b2n x.deadline + 8 * b2n x.nocon + 16 * b2n (decide (0 < x.ev.nrange)) +
    32 * b2n x.ev.zero + 64 * b2n x.ev.tiny + 128 * b2n x.warmLost + 256 * b2n x.ev.nanin

/-- The status word (Table 9.11); CYCLES, at byte 40, follows when it is written. -/
def TrEnd.word (x : TrEnd) (d : List Byte) (fprint : Nat) : List Byte :=
  toLe 2 x.code ++ toLe 2 x.cond ++ [x.ev.fl.setWidth 8, BitVec.ofNat 8 (rqOp d), BitVec.ofNat 8 (rqSched d), 0] ++
    toLe 4 x.iters ++ toLe 4 x.ev.nrepl ++ toLe 4 (x.ev.pivRow.getD 0xFFFFFFFF) ++ toLe 4 x.ev.nrange ++
    toLe 4 (x.ev.rangeRow.getD 0xFFFFFFFF) ++ [0, 0, 0, 0] ++ toLe 8 x.resnorm ++ toLe 8 0 ++ toLe 8 fprint ++
    List.replicate 8 0

/-- Read several areas; the first that fails ends it. -/
def State.readAll (s : State) (part ring : Nat) : List (TrArea × Nat × Nat) → Except EngBad (List (List Byte))
  | [] => .ok []
  | a :: as => match s.areaRead part ring a.1 a.2.1 a.2.2 with
    | .error b => .error b
    | .ok x => match State.readAll s part ring as with
      | .error b => .error b
      | .ok xs => .ok (x :: xs)

/-- What the deadline's cut means where an iteration count does not tell: whether the last residual had been formed, and whether
the factor was whole when no solve was done, or how many of its rows were, and how far the residual or the solve that it interrupts
had come (log entry 25). -/
def cutOf (iters : Option Nat) (key n : Nat) : Option Cut × Option Nat :=
  match iters with
  | none => (none, none)
  | some c => (some ⟨c, Config.free [11, key] % 2 == 1, Config.free [14, key]⟩,
      if c = 0 ∧ Config.free [12, key] % 2 = 1 then some (Config.free [13, key] % (n + 1)) else none)

/-- Scratch bytes a solve leaves in its WORK area: not defined (Table 9.7). -/
def workBytes (key n : Nat) : List Byte := (List.range n).map (Config.workByte key)

/-- The end that a request reaches, from what its areas hold. -/
def State.trestleEnd (s : State) (part ring : Nat) (q : TrRun) (key : Nat) : Except EngBad TrEnd :=
  let d := q.desc
  match q.reject with
  | some code => .ok (TrEnd.rejected code (if rqOp d = 1 ∨ rqOp d = 5 then 0 else fpInf))
  | none =>
    match schedIn (s.ring ring).tr.store d with
    | none => .ok (TrEnd.rejected stFormat fpInf)
    | some sc =>
      let rd := s.readAll part ring
      let vals := (trArea d 16, 0, 8 * sc.nnza)
      let fact := trArea d 40
      match rqOp d with
      | 1 =>
        match rd [vals] with
        | .ok [v] => .ok (sc.doFactor d (fpVec sc.nnza v) (q.cut.map (fun _ => Config.free [13, key] % (sc.n + 1))))
        | .ok _ => .ok (TrEnd.rejected stFormat fpInf)
        | .error b => .error b
      | 5 =>
        match rd ([(trArea d 24, 64, sc.vlen), (trArea d 32, 64, sc.vlen)] ++
            (if rqAccum d then [(trArea d 56, 0, 8 * sc.nnza)] else [])) with
        | .ok (l :: x :: g) =>
          .ok (sc.doGrad d (fpVec sc.n l) (fpVec sc.n x) (g.head?.map (fpVec sc.nnza))
            (q.cut.map (fun _ => Config.free [13, key] % (sc.nnza + 1))))
        | .ok _ => .ok (TrEnd.rejected stFormat fpInf)
        | .error b => .error b
      | _ =>
        match rd ([vals, (trArea d 24, 0, sc.vlen), (fact, 0, 1024)] ++
            (if rqOp d = 4 then [] else [(fact, 1024, sc.factLen - 1024)]) ++
            (if rqWarm d then [(trArea d 32, 0, 64 + sc.vlen)] else [])) with
        | .ok (v :: b :: h :: rest) =>
          let c := cutOf q.cut key sc.n
          let warm := if rqWarm d then rest.getLast? else none
          let x := sc.doSolve d ⟨fpVec sc.nnza v, fpVec sc.n b, warm, h, if rqOp d = 4 then [] else rest.headD []⟩ c.1 c.2
          .ok { x with writes := (trArea d 48, 0, workBytes key (sc.workLen d)) :: x.writes }
        | .ok _ => .ok (TrEnd.rejected stFormat fpInf)
        | .error b => .error b

/-- The completion token: 1 is added to TSCOPE.TNAME (R229), seen by holds when Table 7.7 lets them (R194). -/
def State.trestlePost (s : State) (ring : Nat) (d : List Byte) : State :=
  let name := leAt d 7 1
  match leAt d 6 1 with
  | 1 =>
    let r := s.ring ring
    s.setRing ring { r with posts := r.posts ++ [⟨.ring, name, 1, r.now, 5, 0, false⟩] }
  | 2 => s.postLate ring .span name 1 5 (ring * 16)
  | _ => s.postLate ring .device name 1 5 (ring * 16)

/-- Deck cycles of what a request has read. -/
def State.chargeReads (s : State) (part ring : Nat) (q : TrRun) : State :=
  match schedIn (s.ring ring).tr.store q.desc with
  | none => s
  | some sc =>
    if q.reject.isSome then s
    else (sc.uses q.desc).foldl (fun s u => match u.area with
      | .deck pa => if u.rd then s.fetchPart part pa u.len else s
      | .stripe _ => s) s

/-- Whether no access of a request waits for a channel that is retraining (R260). -/
def State.trestleServed (s : State) (part ring : Nat) (q : TrRun) : Bool :=
  match schedIn (s.ring ring).tr.store q.desc with
  | none => true
  | some sc => q.reject.isSome || (sc.uses q.desc).all (fun u => match u.area with
    | .deck pa => s.rangeServes part pa u.len
    | .stripe _ => true)

/-- The ring's running request is changed. -/
def State.setRun (s : State) (ring : Nat) (q : TrRun) : State :=
  let r := s.ring ring
  s.setRing ring { r with tr := { r.tr with run := some q } }

/-- Factoring starts: STATE 0x00 goes into every copy of the factor's header (R222). -/
def State.voidFactor (s : State) (part ring : Nat) (q : TrRun) : Option EngBad × State :=
  match schedIn (s.ring ring).tr.store q.desc with
  | none => (none, s)
  | some sc =>
    let voids : Except EngBad Bool := if rqOp q.desc = 2 ∨ rqOp q.desc = 3 then
        (match s.areaRead part ring (trArea q.desc 40) 0 1024 with
         | .error b => .error b
         | .ok h => .ok (sc.factors q.desc h))
      else .ok (sc.factors q.desc [])
    match voids with
    | .error b => (some b, s)
    | .ok false => (none, s)
    | .ok true =>
      let ws := factVoid (trArea q.desc 40)
      s.setRun ring { q with lines := stripeWrites ws } |>.deckWrites part q.jr ws

/-- A running request makes checks 5 and 6 once the fixed-latency writes up to its submission have landed (R217) and the headers
in its stripes have been read: it fails one, or goes on, its factor marked when it factors. A write that finds no free journal
block is tried again (R313). -/
def State.trestleRead (s : State) (part ring : Nat) : State :=
  let r := s.ring ring
  match r.tr.run with
  | none => s
  | some q =>
    if q.failed || !q.unread || !q.heads.isEmpty || !r.covered q.issued then s
    else
      let q : TrRun := { q with unread := false }
      match s.readChecks part ring q.desc with
      | .error .wait => s
      | .error b => s.trestleBad part ring b
      | .ok (some code) => s.setRun ring { q with reject := some code, todo := [] }
      | .ok none => match (s.setRun ring q).voidFactor part ring q with
        | (some .wait, _) => s
        | (some b, x) => x.trestleBad part ring b
        | (none, x) => x

/-- A request whose operands have all been read does its arithmetic: its writes to the deck are made, those to stripes and its
status word are to be made (R229). -/
def State.trestleWork (s : State) (part ring : Nat) : State :=
  match (s.ring ring).tr.run with
  | none => s
  | some q =>
    if q.failed || q.unread || q.out.isSome || !q.lines.isEmpty || !q.todo.isEmpty || !s.trestleServed part ring q then s
    else
      let k := s.draw
      let t := k.2.chargeReads part ring q
      match k.2.trestleEnd part ring q k.1 with
      | .error .wait => s
      | .error b => t.trestleBad part ring b
      | .ok x => match t.deckWrites part q.jr x.writes with
        | (some .wait, _) => s
        | (some b, t) => t.trestleBad part ring b
        | (none, t) =>
          let fp := match schedIn (s.ring ring).tr.store q.desc with
            | some sc => sc.fprint
            | none => 0
          t.setRun ring { q with out := some (x.code, x.word q.desc fp), lines := stripeWrites x.writes }

/-- The running request ends: its status word is written, its token posted; the queue moves on (R229). -/
def State.finishRequest (s : State) (part ring : Nat) (q : TrRun) (code : Nat) (word : List Byte) (u : FreeUse) : State :=
  let d := q.desc
  let r := s.ring ring
  let c := r.get 0
  let k : LsCtx := ⟨ring, r.wakes, r.now, 16, []⟩
  let c := ({ c with ls := { c.ls with use := u } }).freeWrite k (bits (leAt d 12 4) 6 15 * 64) 0
    (patch word 40 (toLe 8 (r.now - q.start)))
  let s := s.setRing ring { r.put 0 c with tr := { r.tr with
    run := none, freeAt := r.now, lastSched := rqSched d % 16, lastOp := rqOp d % 16, lastCode := code } }
  let s := s.trestlePost ring d
  if q.reject.isSome then s.note part ring 221 code else s

/-- The status word is written once everything else has been, in a ring cycle that leaves its bank to the engine (R235). -/
def State.trestleDone (s : State) (part ring : Nat) : State :=
  match (s.ring ring).tr.run with
  | none => s
  | some q =>
    match q.out with
    | some o =>
      if q.failed || !q.lines.isEmpty then s
      else s.freeTurn (ring * 16) (bits (leAt q.desc 12 4) 6 15) (.trestle (Fin.ofNat 256 ring))
        (s.finishRequest part ring q o.1 o.2)
    | none => s

/-! ## Commands -/

/-- `TRESTLE_SUBMIT`: the write of `CL_TRSUB` by logical slot 0 (R217). -/
def execTrestleSubmit (i : Issue) (value : BitVec 32) (s : State) : Result :=
  let isSubmit (x : Instr) : Bool := match x with
    | .swrs _ _ off => off == 0x340
    | _ => false
  .next (s.atRing i.ring (fun r => r.issue i 0 isSubmit (fun t r =>
    r.put 0 ((r.get 0).due (t + 1) t 0 (.swrs 0xD00 value r.tt.bidx)))))

/-- `TRESTLE_REQUEST_START`: the head of the queue starts once the engine is free and its schedule is present (R207, R219,
R221), in the ring cycle of its submission at the earliest. -/
def execTrestleRequestStart (ring : Fin 256) (cycle : Nat) (s : State) : Result :=
  let s := s.atRing ring (fun r => r.event ring cycle (fun t r => if r.tr.queue.isEmpty then r.finish ring t else r))
  let r := s.ring ring
  match r.tr.queue, s.partOf ring.val with
  | q :: rest, some part =>
    if !r.awake || r.tr.run.isSome || r.tr.awaits q.desc then .next s
    else
      let rej := s.formChecks part ring q.desc
      let todo := match rej, schedIn r.tr.store q.desc with
        | none, some sc => stripeTodo (readUses (sc.uses q.desc))
        | _, _ => []
      let start := max q.issued r.tr.freeAt
      let run : TrRun := ⟨q.desc, start, q.jr, none, rej, q.issued, if rej.isNone then stripeTodo (headUses q.desc) else [],
        todo, rej.isNone, [], none, false⟩
      .next ((s.setRing ring { r with tr := { r.tr with queue := rest, run := some run, busy := r.tr.busy + (r.now - start) } }).trestleRead
        part ring)
  | _, _ => .next s

/-- Whether the running request issues to the FMA pipes. -/
def TrRun.kernel (q : TrRun) : Bool := q.reject.isNone && !q.unread && !q.failed && q.out.isNone && (rqSolves q.desc || rqOp q.desc == 5)

/-- Whether the kernel may issue into a pipe of a cluster in ring cycle `t`: it is not busy and the kernel has not used it in
this ring cycle. -/
def VecSt.kernelFree (v : VecSt) (p : FmaPipe) (t : Nat) : Bool :=
  match p with
  | .va => decide (v.va ≤ t) && decide (v.ka ≤ t)
  | .vb => decide (v.vb ≤ t) && decide (v.kb ≤ t)

def VecSt.kernelUse (v : VecSt) (p : FmaPipe) (t : Nat) : VecSt :=
  match p with
  | .va => { v with ka := t + 1 }
  | .vb => { v with kb := t + 1 }

/-- The commands of an FMA pipe's slot. -/
def isPipe (p : FmaPipe) (x : Instr) : Bool :=
  match x with
  | .vadd _ q _ | .vsub _ q _ | .vmul _ q _ | .vfma _ q _ | .vfms _ q _ | .vfnma _ q _ | .vwmul _ q _ | .vdot2Bf _ q _
  | .vdot4 _ q _ | .vdiv _ q _ | .vsqrt _ q _ => q == p
  | _ => false

/-- `RESIDUAL_KERNEL_ISSUE`: one issue into a pipe that the timetable's bundle leaves empty (R224). -/
def execResidualKernelIssue (cl : Fin 4096) (pipe : FmaPipe) (cycle : Nat) (s : State) : Result :=
  let ring : Fin 256 := ⟨cl.val / 16, by omega⟩
  let s := s.atRing ring (fun r => r.event ring cycle (fun _ r => r))
  let s := s.trestleRead ((s.partOf ring.val).getD 0) ring
  .next (s.atRing ring (fun r => r.event ring cycle (fun t r =>
    let c := r.get (cl.val % 16)
    match r.tr.run with
    | some q =>
      if q.kernel && c.vec.kernelFree pipe t && r.leavesFree ⟨ring, t⟩ pipe.slot t (isPipe pipe) then
        { r.put (cl.val % 16) { c with vec := c.vec.kernelUse pipe t } with
          tr := { r.tr with steal := (r.tr.steal + 1) % 2 ^ 64 } }
      else r
    | none => r)))

/-- `TRESTLE_DEADLINE`: `iters` correction solves were completed when the count ran out (R228). -/
def execTrestleDeadline (ring : Fin 256) (cycle : Nat) (iters : Nat) (s : State) : Result :=
  .next (s.atRing ring (fun r => r.event ring cycle (fun t r =>
    match r.tr.run with
    | some q =>
      if q.cut.isNone && q.reject.isNone && decide (q.start + rqDeadline q.desc ≤ t) then
        { r with tr := { r.tr with run := some { q with cut := some iters } } }
      else r
    | none => r)))

/-- `TRESTLE_COMPLETE`: a request that has only its status word left to write completes; one that has read its operands does its
arithmetic first. Its status word takes what the ring cycle's fixed-latency accesses have left. -/
def execTrestleComplete (ring : Fin 256) (cycle : Nat) (s : State) : Result :=
  let s := s.atRing ring (fun r => r.event ring cycle (fun t r => r.finish ring t))
  match s.partOf ring.val with
  | none => .next s
  | some part => .next (((s.trestleRead part ring).trestleWork part ring).trestleDone part ring)

/-- R243: a free requester's access in a ring cycle of the cluster it reaches. It takes a bank that the fixed-latency accesses of
the whole ring cycle leave unused, so the ring cycle is brought to its end first. -/
def execFreeBankAccess (cl : Fin 4096) (who : Client) (cycle wrong : Nat) (s : State) : Result :=
  let ring := cl.val / 16
  let s := s.atRing ring (fun r => r.event ring cycle (fun t r => r.finish ring t))
  let s := match who, s.partOf ring with
    | .trestle k, some part => if k.val = ring then (s.trestleRead part ring).trestleWork part ring else s
    | _, _ => s
  .next (if (s.ring ring).awake then (s.freeAccess cl.val who wrong).takeFlags ring else s)

/-- `SCHEDULE_COPY`: the image's schedules are in the ring's store (R207). -/
def execScheduleCopy (ring : Fin 256) (s : State) : Result :=
  let r := s.ring ring
  match s.partOf ring.val with
  | none => .next s
  | some part =>
    match (s.part part).image with
    | none => .next s
    | some im =>
      if !r.awake then .next s
      else .next (s.setRing ring { r with tr := { r.tr with
        store := (im.schedsOf ring).foldl (fun m x => Tab.ins x.id x.body m) [], freeAt := max r.tr.freeAt r.now } })

end Sys2Proof.Machine
end

