-- ==== Sys2Proof/Machine/VecOps.lean ====
section
/-! DEFINITION. The vector instructions in a cluster (R101 to R129, Tables 5.3 to 5.7). -/

namespace Sys2Proof.Machine

/-- Latency of Table 5.6 for a format: `a` for floating formats of 32 bits and under, `b` for FP64, `i`
for integers. -/
def fmtLat (f : Fmt) (a b i : Nat) : Nat :=
  match f with
  | .flt F => if F.width = 64 then b else a
  | .int _ _ => i

/-- Element-wise arithmetic on sources and destination of one format (R115): floating by `fl`, integer by
`it` on the exact integers. SAT mode is that of R46 and R51 for both (log entry 77). -/
def Cluster.arith (c : Cluster) (t : Nat) (p : FmaPipe) (f : VSlot) (lat n : Nat)
    (fl : FFmt → Rm → Bool → Nat → Nat → Nat → Nat → Nat × Fl)
    (it : Nat → Bool → Bool → Nat → Nat → Nat × Fl) : Cluster :=
  c.toPipe p.slot t n (fun c =>
    let w := f.sf.width
    let g := govern [w, f.df.width]
    let src (o : BitVec 6) (i : Nat) : Nat := c.r.src o w g i
    c.elementwise t p.slot lat f f.df.width (c.count g) (c.rmFor f) (c.active f)
      (fun i d => match f.sf with
        | .flt F => fl F (c.rm f.rm f.df.width) (c.sat f) d (src f.src1 i) (src f.src2 i) (src f.src3 i)
        | .int w sg => it w sg (c.sat f) (src f.src1 i) (src f.src2 i)))

def noInt : Nat → Bool → Bool → Nat → Nat → Nat × Fl := fun _ _ _ _ _ => (0, 0)

def Cluster.vadd (c : Cluster) (t : Nat) (p : FmaPipe) (f : VSlot) : Cluster :=
  c.arith t p f (fmtLat f.sf 4 5 3) 1 (fun F rm s d a b _ => addOp F rm s d false a b)
    (fun w sg s a b => intArith w sg s (intVal w sg a + intVal w sg b))

def Cluster.vsub (c : Cluster) (t : Nat) (p : FmaPipe) (f : VSlot) : Cluster :=
  c.arith t p f (fmtLat f.sf 4 5 3) 1 (fun F rm s d a b _ => addOp F rm s d true a b)
    (fun w sg s a b => intArith w sg s (intVal w sg a - intVal w sg b))

def Cluster.vmul (c : Cluster) (t : Nat) (p : FmaPipe) (f : VSlot) : Cluster :=
  c.arith t p f (fmtLat f.sf 4 5 3) 1 (fun F rm s d a b _ => mulOp F rm s d a b)
    (fun w sg s a b => intArith w sg s (intVal w sg a * intVal w sg b))

/-- The three FMA forms: `pn` and `cn` turn the sign of the product and of the addend. -/
def Cluster.vfmaForm (c : Cluster) (t : Nat) (p : FmaPipe) (f : VSlot) (pn cn : Bool) : Cluster :=
  c.arith t p f (fmtLat f.sf 4 5 3) 1 (fun F rm s d a b x => fmaOp F rm s d pn cn a b x) noInt

def Cluster.vdiv (c : Cluster) (t : Nat) (p : FmaPipe) (f : VSlot) : Cluster :=
  c.arith t p f (fmtLat f.sf 14 26 14) (fmtLat f.sf 8 16 8) (fun F rm s d a b _ => divOp F rm s d a b) noInt

def Cluster.vsqrt (c : Cluster) (t : Nat) (p : FmaPipe) (f : VSlot) : Cluster :=
  c.arith t p f (fmtLat f.sf 14 26 14) (fmtLat f.sf 8 16 8) (fun F rm s d a _ _ => sqrtOp F rm s d a) noInt

/-- `VWMUL` (R118): exact products of half-width sources. -/
def Cluster.vwmul (c : Cluster) (t : Nat) (p : FmaPipe) (f : VSlot) : Cluster :=
  c.toPipe p.slot t 1 (fun c =>
    let w := f.sf.width
    let g := govern [w, f.df.width]
    c.elementwise t p.slot 5 f f.df.width (c.count g) (c.rmFor f) (c.active f)
      (fun i d =>
        let a := c.r.src f.src1 w g i
        let b := c.r.src f.src2 w g i
        match f.sf, f.df with
        | .flt F, .flt D => mulVal D (c.rm f.rm f.df.width) (c.sat f) d (F.decode a) (F.decode b)
        | .int w sg, .int v sg' => intArith v sg' false (intVal w sg a * intVal w sg b)
        | _, _ => (0, 0)))

/-- Source of a dot instruction: both are pairs of 32-bit lanes, a broadcast supplies bits [31:0] (R105). -/
def Regs.lane (r : Regs) (op : BitVec 6) (i : Nat) : Nat := r.src op 32 32 i

/-- `VDOT2.BF` (R76, R119). -/
def Cluster.vdot2 (c : Cluster) (t : Nat) (p : FmaPipe) (f : VSlot) : Cluster :=
  c.toPipe p.slot t 1 (fun c =>
    c.elementwise t p.slot 5 f 32 (c.count 32) (c.rm f.rm 32) (c.active f)
      (fun i _ =>
        let a := c.r.lane f.src1 i
        let b := c.r.lane f.src2 i
        dot2bf (c.rm f.rm 32) (c.sat f) (bits a 0 16) (bits b 0 16) (bits a 16 16) (bits b 16 16)
          (c.r.lane f.dst i)))

/-- `VDOT4` (R76, R119): SFMT gives the signedness of SRC1, bit [8] of the slot that of SRC2. -/
def Cluster.vdot4 (c : Cluster) (t : Nat) (p : FmaPipe) (f : VSlot) : Cluster :=
  c.toPipe p.slot t 1 (fun c =>
    let sa : Bool := match f.sf with | .int _ sg => sg | _ => false
    let lanes (x : Nat) : List Nat := (List.range 4).map (fun k => bits x (8 * k) 8)
    c.elementwise t p.slot 4 f 32 (c.count 32) (c.rm f.rm 32) (c.active f)
      (fun i _ => dot4 sa (f.src3.getLsbD 0) (lanes (c.r.lane f.src1 i)) (lanes (c.r.lane f.src2 i))
        (c.r.lane f.dst i)))

/-- Element-wise work of the VC pipe on sources of one format, rounded in mode `rm`. -/
def Cluster.logic (c : Cluster) (t lat : Nat) (f : VSlot) (rm : Rm)
    (op : Nat → Nat → Nat → Nat → Nat × Fl) : Cluster :=
  c.toPipe 4 t 1 (fun c =>
    let w := f.sf.width
    let g := govern [w, f.df.width]
    c.elementwise t 4 lat f f.df.width (c.count g) rm (c.active f)
      (fun i d => op w d (c.r.src f.src1 w g i) (c.r.src f.src2 w g i)))

/-- Bit logic rounds nothing. DESIGN CHOICE (log entry 77): it uses no draw, whatever RM encodes. -/
def Cluster.vbit (c : Cluster) (t : Nat) (f : VSlot) (op : Nat → Nat → Nat) : Cluster :=
  c.logic t 1 f .rne (fun _ _ a b => (op a b, 0))

/-- Shifts: counts modulo the element width (R114). -/
def Cluster.vshift (c : Cluster) (t : Nat) (f : VSlot) (op : Nat → Nat → Nat → Nat) : Cluster :=
  c.logic t 1 f .rne (fun w _ a b => (op w a (b % max 1 w) % 2 ^ w, 0))

def shlOp : Nat → Nat → Nat → Nat := fun _ a n => a <<< n
def shrOp : Nat → Nat → Nat → Nat := fun _ a n => a >>> n
def sraOp : Nat → Nat → Nat → Nat := fun w a n => wrapInt w (floorShift (sextInt w a) (-(n : Int)))

/-- `VMIN` and `VMAX` (R115, R116). -/
def Cluster.vminmax (c : Cluster) (t : Nat) (f : VSlot) (wantMax : Bool) : Cluster :=
  c.logic t 2 f (c.rmFor f) (fun _ _ a b => match f.sf with
    | .flt F => minMaxOp F wantMax a b
    | .int w sg =>
      let aLess : Bool := decide (intVal w sg a < intVal w sg b)
      (if aLess = wantMax then b else a, 0))

/-- `VCMP` (R110): condition bits [10:8] of the slot are SRC3's low bits. -/
def Cluster.vcmp (c : Cluster) (t : Nat) (f : VSlot) : Cluster :=
  c.toPipe 4 t 1 (fun c =>
    let w := f.sf.width
    let g := govern [w]
    let n := c.count g
    let cond := f.src3.toNat % 8
    let d := c.draws (c.rmFor f) n
    let res := ((List.range n).filter (c.active f)).map (fun i =>
      let a := c.r.src f.src1 w g i
      let b := c.r.src f.src2 w g i
      (i, match f.sf with
        | .flt F => cmpOp F cond a b
        | .int w sg =>
          let x := intVal w sg a
          let y := intVal w sg b
          (cmpHolds cond (if x < y then -1 else if y < x then 1 else 0) false, (0 : Fl))))
    let mask := res.foldl (fun m p => m ||| 2 ^ p.1) 0
    let v := res.foldl (fun m p => m ||| (if p.2.1 then 2 ^ p.1 else 0)) 0
    d.2.deliver t 4 2 (if res.isEmpty then [] else
        [.mreg (f.dst.toNat % 8) (BitVec.ofNat 16 mask) (BitVec.ofNat 16 v)])
      (res.foldl (fun a p => a ||| p.2.2) 0))

/-- `VSEL` (R110): MSK selects and MEN is ignored. DESIGN CHOICE (log entry 77): it uses no draw, whatever RM encodes. -/
def Cluster.vsel (c : Cluster) (t : Nat) (f : VSlot) : Cluster :=
  c.toPipe 4 t 1 (fun c =>
    let w := f.sf.width
    let g := govern [w, f.df.width]
    c.elementwise t 4 1 f f.df.width (c.count g) .rne (fun _ => true)
      (fun i _ => (c.r.src (if (c.r.getM f.msk.toNat).getLsbD i then f.src1 else f.src2) w g i, 0)))

/-- `VCVT` (R120). -/
def Cluster.vcvt (c : Cluster) (t : Nat) (f : VSlot) : Cluster :=
  c.logic t 3 f (c.rm f.rm f.df.width) (fun _ d a _ => convert f.sf f.df (c.rm f.rm f.df.width) (c.sat f) d a)

/-- `VQBLK` (R55, R120): 32 elements into a block; the scale byte goes to the register named in SRC2. -/
def Cluster.vqblk (c : Cluster) (t : Nat) (f : VSlot) : Cluster :=
  match f.sf with
  | .int _ _ => c
  | .flt F =>
    let k := F.width / 8
    c.toPipe 4 t k (fun c =>
      let el := Elt.ofCode f.dfmt.toNat
      let rm := (rmOf f.rm.toNat c.dynRm).forWidth 8
      let d := c.draws rm 32
      let per := 256 / F.width
      let codes := (List.range 32).map (fun i =>
        if 32 ≤ f.src1.toNat then c.r.src f.src1 F.width F.width i
        else bits (c.r.pair (f.src1.toNat + 2 * (i / per))) (i % per * F.width) F.width)
      let q := quantBlock F el rm (c.sat f) d.1 codes
      let w := el.width
      d.2.deliver t 4 (k + 4)
        (vput (f.dst.toNat % 32) (((List.range 32).zip q.1).map (fun p => (p.1 * w, w, p.2))) ++
          [.sreg (f.src2.toNat % 32) (BitVec.ofNat 64 q.2.1)])
        q.2.2)

/-- `VDQBLK` (R56, R120). DESIGN CHOICE (log entry 77): under SR the stream advances by its 32 elements, as for `VQBLK`. -/
def Cluster.vdqblk (c : Cluster) (t : Nat) (f : VSlot) : Cluster :=
  match f.df with
  | .int _ _ => c
  | .flt F =>
    let k := F.width / 8
    c.toPipe 4 t k (fun c =>
      let el := Elt.ofCode f.sfmt.toNat
      let rm := c.rm f.rm F.width
      let d := c.draws rm 32
      let w := el.width
      let scale := bits (c.r.getS (f.src2.toNat % 32)).toNat 0 8
      let g := if w = 8 then 8 else 16
      let res := (List.range 32).map (fun i =>
        convVal (.flt F) rm (c.sat f) (d.1.getD i 0) (el.decode (c.r.src f.src1 w g i) scale))
      d.2.deliver t 4 (k + 3)
        (vput (f.dst.toNat % 32) (((List.range 32).zip res).map (fun p => (p.1 * F.width, F.width, p.2.1))))
        (res.foldl (fun a p => a ||| p.2) 0))

/-- `VEXP2` and `VRCP` (R117). -/
def Cluster.vfun (c : Cluster) (t : Nat) (f : VSlot) (op : FFmt → Bool → Nat → Nat × Fl) : Cluster :=
  c.logic t 8 f .rne (fun _ _ a _ => match f.sf with
    | .flt F => op F (c.sat f) a
    | _ => (0, 0))

/-- One level of the pairwise tree of R116: the addition whose right-hand subtree begins at position k
uses draw k. `step` is the distance between the operands. -/
def sumLevel (add : Nat → Nat → Nat → Nat × Fl) (step : Nat) :
    Nat → List (Option Nat) → List (Option Nat) × Fl
  | pos, x :: y :: rest =>
    let r := sumLevel add step (pos + 2 * step) rest
    match x, y with
    | some a, some b =>
      let q := add (pos + step) a b
      (some q.1 :: r.1, q.2 ||| r.2)
    | some a, none => (some a :: r.1, r.2)
    | none, b => (b :: r.1, r.2)
  | _, l => (l, 0)

def sumTree (add : Nat → Nat → Nat → Nat × Fl) : Nat → Nat → List (Option Nat) → Option Nat × Fl
  | 0, _, l => (l.headD none, 0)
  | n + 1, step, l =>
    match l with
    | [] => (none, 0)
    | [x] => (x, 0)
    | l =>
      let r := sumLevel add step 0 l
      let q := sumTree add n (2 * step) r.1
      (q.1, r.2 ||| q.2)

/-- The sum of the leaves. One that is the only one passes unchanged, but for a NaN, which is delivered canonical with its flags
(R41, R49, R116). -/
def FFmt.sum (F : FFmt) (rm : Rm) (sat : Bool) (draws : List Nat) (leaves : List (Option Nat)) : Option Nat × Fl :=
  match leaves.filterMap id with
  | [x] => match F.decode x with
    | .nan _ => let q := convert (.flt F) (.flt F) rm sat 0 x; (some q.1, q.2)
    | _ => (some x, 0)
  | _ => sumTree (fun k a b => addOp F rm sat (draws.getD k 0) false a b) 5 1 leaves

/-- `VRSUM` (R116). -/
def Cluster.vrsum (c : Cluster) (t : Nat) (f : VSlot) : Cluster :=
  match f.sf with
  | .int _ _ => c
  | .flt F => c.toPipe 4 t 1 (fun c =>
    let g := govern [F.width]
    let n := c.count g
    let rm := c.rm f.rm F.width
    let d := c.draws rm n
    let leaves := (List.range (256 / g)).map (fun i =>
      if decide (i < n) && c.active f i then some (c.r.src f.src1 F.width g i) else none)
    let s := F.sum rm (c.sat f) d.1 leaves
    match s.1 with
    | none => d.2
    | some x => d.2.deliver t 4 (if F.width = 64 then 8 else 6)
        (vput (f.dst.toNat % 32) [(0, F.width, x)]) s.2)

/-- `VMVSX` (R109, R121). DEDUCED (log entry 76): masked off where element 0 is inactive. -/
def Cluster.vmvsx (c : Cluster) (t : Nat) (f : VSlot) : Cluster :=
  c.toPipe 4 t 1 (fun c =>
    let w := f.sf.width
    let g := govern [w]
    let x := c.r.src f.src1 w g 0
    let v := match f.sf with
      | .int w true => wrapInt 64 (sextInt w x)
      | _ => x
    if c.count g = 0 || !c.active f 0 then c
    else c.due (t + 2) t 4 (.sreg (f.dst.toNat % 32) (BitVec.ofNat 64 v)))

/-- Mask logic on all 16 bits (R121). -/
def Cluster.mlogic (c : Cluster) (t : Nat) (f : VSlot) (op : BitVec 16 → BitVec 16 → BitVec 16) :
    Cluster :=
  c.toPipe 4 t 1 (fun c => c.due (t + 1) t 4 (.mreg (f.dst.toNat % 8) (BitVec.allOnes 16)
    (op (c.r.getM (f.src1.toNat % 8)) (c.r.getM (f.src2.toNat % 8)))))

/-- `MPOP` (R121). -/
def Cluster.mpop (c : Cluster) (t : Nat) (f : VSlot) : Cluster :=
  c.toPipe 4 t 1 (fun c =>
    let n := c.count (govern [f.sf.width])
    let m := c.r.getM (f.src1.toNat % 8)
    let k := ((List.range n).filter (fun i => m.getLsbD i)).length
    if n = 0 then c else c.due (t + 2) t 4 (.sreg (f.dst.toNat % 32) (BitVec.ofNat 64 k)))

/-- `VACC.RD` (R125, Table 5.7). DESIGN CHOICE (log entry 77): OPERAND is set with VL 0 too. -/
def Cluster.vaccRd (c : Cluster) (t : Nat) (f : VSlot) : Cluster :=
  c.toPipe 4 t 1 (fun c =>
    let desc := (c.r.getS (f.src1.toNat % 32)).toNat
    let pair := bit desc 28
    let bout := bits desc 20 8
    let w := f.df.width
    let dst := f.dst.toNat % 32
    match Mode.ofCode (bits desc 16 4) with
    | none => c.vfault vfOperand 2
    | some m =>
      if bout = 0xFF ∨ readPermitted m f.dfmt.toNat pair = false ∨ (pair = true ∧ f.rm ≠ 0) ∨
          (pair = true ∧ 32 < dst + 4) then c.vfault vfOperand 2
      else
        let n := c.count (govern [w])
        let rm := c.rm f.rm w
        let d := c.draws rm n
        if n = 0 then d.2
        else d.2.due (t + 1) t 4
          (.vacc ⟨m, bits desc 0 16, bit desc 29, (List.range n).filter (c.active f), f.df, rm, c.sat f,
            pair, bout, d.1⟩ dst (if pair then 4 else 3)))

/-- The local store address of a load or store (R122). -/
def lsAddr (c : Cluster) (f : VSlot) : Nat :=
  bits ((c.r.getS (f.src1.toNat % 32)) + (c.r.getS (f.src2.toNat % 32))).toNat 0 21

def lsMisaligned (c : Cluster) (f : VSlot) : Bool := lsAddr c f % max 1 (f.sf.width / 8) != 0

/-- Offset in element units of field `x` of record `i`: bytes, or nibbles for 4-bit elements. -/
def recOff (w n i x : Nat) : Nat := if w = 4 then i * n + x else (i * n + x) * (w / 8)

/-- The elements of a load of `n`-field records: field x of record i goes to element i of unit x. -/
def Cluster.ldElts (c : Cluster) (f : VSlot) (n : Nat) : List LdElt :=
  let w := f.sf.width
  let g := govern [w]
  let act := (List.range (c.count g)).filter (c.active f)
  act.flatMap (fun i => (List.range n).map (fun x =>
    ⟨recOff w n i x, f.dst.toNat % 32 + 2 * x, i * w, w⟩))

/-- Issue to the LS pipe for `n` ring cycles: with a misaligned address the instruction is not executed, and holds no pipe
(R113, R122). DESIGN CHOICE (log entry 77): ALIGN is set with VL 0 too. -/
def Cluster.toLs (c : Cluster) (t n : Nat) (f : VSlot) (op : Cluster → Cluster) : Cluster :=
  if lsMisaligned c f then c.toPipe 5 t 1 (fun c => c.vfault vfAlign 3) else c.toPipe 5 t n op

/-- Loads `VLD` (n = 1) and `VLDn` (R122, R123, R124), which read in n ring cycles (Table 10.1). DESIGN CHOICE (log entry 77):
bytes 32j to 32j + 31 are read in cycle j. -/
def Cluster.vldOp (c : Cluster) (t : Nat) (f : VSlot) (n lat : Nat) : Cluster :=
  c.toLs t n f (fun c =>
      let w := f.sf.width
      let elts := c.ldElts f n
      let byteOf (e : LdElt) : Nat := if w = 4 then e.off / 2 else e.off
      (List.range n).foldl (fun c j =>
        let part := elts.filter (fun e => byteOf e / 32 == j)
        let hi := part.foldl (fun m e => max m (byteOf e + max 1 (w / 8))) (32 * j)
        let lo := part.foldl (fun m e => min m (byteOf e)) hi
        if part.isEmpty then c
        else c.due (t + 1 + j) t 5 (.vld (lsAddr c f + lo) (hi - lo) (lat - 1 - j)
          (part.map (fun e => { e with off := if w = 4 then e.off - 2 * lo else e.off - lo })))) c)

/-- Stores `VST` (n = 1) and `VSTn` (R122, R123), which write in n ring cycles and are seen after the last (R124). DESIGN
CHOICE (log entry 77): bytes 32j to 32j + 31 are written in cycle j. -/
def Cluster.vstOp (c : Cluster) (t : Nat) (f : VSlot) (n : Nat) : Cluster :=
  c.toLs t n f (fun c =>
      let w := f.sf.width
      let g := govern [w]
      let act := (List.range (c.count g)).filter (c.active f)
      let a := lsAddr c f
      let base := f.src3.toNat % 32
      let elts := act.flatMap (fun i => (List.range n).map (fun x =>
        (i * n + x, if 32 ≤ f.src3.toNat then c.r.src f.src3 w g i
          else if w = g then bits (c.r.pair (base + 2 * x)) (i * w) w
          else bits (c.r.getV (base + 2 * x)).toNat (i * w) w)))
      (List.range n).foldl (fun c j =>
        let part := packElems a w (elts.filter (fun e => (if w = 4 then e.1 / 2 else e.1 * (w / 8)) / 32 == j))
        if part.isEmpty then c else c.due (t + 3 + j) t 5 (.lsw (t + 2 + n) part)) c)

end Sys2Proof.Machine
end

