-- ==== Sys2Proof/Machine/Vector.lean ====
section
/-! DEFINITION. The vector slots' commands (05_vector_engine.md). Each acts in every active cluster. -/

namespace Sys2Proof.Machine

/-! ## The FMA pipes VA and VB -/

def execVadd (i : Issue) (p : FmaPipe) (f : VSlot) (s : State) : Result := s.eachOp i p.slot (.vadd i p f) (fun t c => c.vadd t p f)
def execVsub (i : Issue) (p : FmaPipe) (f : VSlot) (s : State) : Result := s.eachOp i p.slot (.vsub i p f) (fun t c => c.vsub t p f)
def execVmul (i : Issue) (p : FmaPipe) (f : VSlot) (s : State) : Result := s.eachOp i p.slot (.vmul i p f) (fun t c => c.vmul t p f)

def execVfma (i : Issue) (p : FmaPipe) (f : VSlot) (s : State) : Result :=
  s.eachOp i p.slot (.vfma i p f) (fun t c => c.vfmaForm t p f false false)

def execVfms (i : Issue) (p : FmaPipe) (f : VSlot) (s : State) : Result :=
  s.eachOp i p.slot (.vfms i p f) (fun t c => c.vfmaForm t p f false true)

def execVfnma (i : Issue) (p : FmaPipe) (f : VSlot) (s : State) : Result :=
  s.eachOp i p.slot (.vfnma i p f) (fun t c => c.vfmaForm t p f true false)

def execVdiv (i : Issue) (p : FmaPipe) (f : VSlot) (s : State) : Result := s.eachOp i p.slot (.vdiv i p f) (fun t c => c.vdiv t p f)
def execVsqrt (i : Issue) (p : FmaPipe) (f : VSlot) (s : State) : Result := s.eachOp i p.slot (.vsqrt i p f) (fun t c => c.vsqrt t p f)
def execVwmul (i : Issue) (p : FmaPipe) (f : VSlot) (s : State) : Result := s.eachOp i p.slot (.vwmul i p f) (fun t c => c.vwmul t p f)
def execVdot2Bf (i : Issue) (p : FmaPipe) (f : VSlot) (s : State) : Result := s.eachOp i p.slot (.vdot2Bf i p f) (fun t c => c.vdot2 t p f)
def execVdot4 (i : Issue) (p : FmaPipe) (f : VSlot) (s : State) : Result := s.eachOp i p.slot (.vdot4 i p f) (fun t c => c.vdot4 t p f)

/-! ## The VC pipe -/

def execVand (i : Issue) (f : VSlot) (s : State) : Result :=
  s.eachOp i 4 (.vand i f) (fun t c => c.vbit t f (fun a b => a &&& b))

def execVor (i : Issue) (f : VSlot) (s : State) : Result :=
  s.eachOp i 4 (.vor i f) (fun t c => c.vbit t f (fun a b => a ||| b))

def execVxor (i : Issue) (f : VSlot) (s : State) : Result :=
  s.eachOp i 4 (.vxor i f) (fun t c => c.vbit t f (fun a b => a ^^^ b))

/-- `VNOT`: every bit of SRC1 inverted, at the width of the element. -/
def execVnot (i : Issue) (f : VSlot) (s : State) : Result :=
  s.eachOp i 4 (.vnot i f) (fun t c => c.vbit t f (fun a _ => 2 ^ f.sf.width - 1 - a))

def execVshl (i : Issue) (f : VSlot) (s : State) : Result := s.eachOp i 4 (.vshl i f) (fun t c => c.vshift t f shlOp)
def execVshr (i : Issue) (f : VSlot) (s : State) : Result := s.eachOp i 4 (.vshr i f) (fun t c => c.vshift t f shrOp)
def execVsra (i : Issue) (f : VSlot) (s : State) : Result := s.eachOp i 4 (.vsra i f) (fun t c => c.vshift t f sraOp)
def execVmin (i : Issue) (f : VSlot) (s : State) : Result := s.eachOp i 4 (.vmin i f) (fun t c => c.vminmax t f false)
def execVmax (i : Issue) (f : VSlot) (s : State) : Result := s.eachOp i 4 (.vmax i f) (fun t c => c.vminmax t f true)
def execVcmp (i : Issue) (f : VSlot) (s : State) : Result := s.eachOp i 4 (.vcmp i f) (fun t c => c.vcmp t f)
def execVsel (i : Issue) (f : VSlot) (s : State) : Result := s.eachOp i 4 (.vsel i f) (fun t c => c.vsel t f)
def execVcvt (i : Issue) (f : VSlot) (s : State) : Result := s.eachOp i 4 (.vcvt i f) (fun t c => c.vcvt t f)
def execVqblk (i : Issue) (f : VSlot) (s : State) : Result := s.eachOp i 4 (.vqblk i f) (fun t c => c.vqblk t f)
def execVdqblk (i : Issue) (f : VSlot) (s : State) : Result := s.eachOp i 4 (.vdqblk i f) (fun t c => c.vdqblk t f)
def execVexp2 (i : Issue) (f : VSlot) (s : State) : Result := s.eachOp i 4 (.vexp2 i f) (fun t c => c.vfun t f exp2Op)
def execVrcp (i : Issue) (f : VSlot) (s : State) : Result := s.eachOp i 4 (.vrcp i f) (fun t c => c.vfun t f rcpOp)
def execVrsum (i : Issue) (f : VSlot) (s : State) : Result := s.eachOp i 4 (.vrsum i f) (fun t c => c.vrsum t f)
def execVmvsx (i : Issue) (f : VSlot) (s : State) : Result := s.eachOp i 4 (.vmvsx i f) (fun t c => c.vmvsx t f)

def execMand (i : Issue) (f : VSlot) (s : State) : Result :=
  s.eachOp i 4 (.mand i f) (fun t c => c.mlogic t f (fun a b => a &&& b))

def execMor (i : Issue) (f : VSlot) (s : State) : Result :=
  s.eachOp i 4 (.mor i f) (fun t c => c.mlogic t f (fun a b => a ||| b))

def execMxor (i : Issue) (f : VSlot) (s : State) : Result :=
  s.eachOp i 4 (.mxor i f) (fun t c => c.mlogic t f (fun a b => a ^^^ b))

def execMnot (i : Issue) (f : VSlot) (s : State) : Result :=
  s.eachOp i 4 (.mnot i f) (fun t c => c.mlogic t f (fun a _ => ~~~a))

def execMpop (i : Issue) (f : VSlot) (s : State) : Result := s.eachOp i 4 (.mpop i f) (fun t c => c.mpop t f)
def execVaccRd (i : Issue) (f : VSlot) (s : State) : Result := s.eachOp i 4 (.vaccRd i f) (fun t c => c.vaccRd t f)

/-! ## The LS pipe -/

def execVld (i : Issue) (f : VSlot) (s : State) : Result := s.eachOp i 5 (.vld i f) (fun t c => c.vldOp t f 1 6)
def execVst (i : Issue) (f : VSlot) (s : State) : Result := s.eachOp i 5 (.vst i f) (fun t c => c.vstOp t f 1)
def execVld2 (i : Issue) (f : VSlot) (s : State) : Result := s.eachOp i 5 (.vld2 i f) (fun t c => c.vldOp t f 2 7)
def execVld3 (i : Issue) (f : VSlot) (s : State) : Result := s.eachOp i 5 (.vld3 i f) (fun t c => c.vldOp t f 3 8)
def execVld4 (i : Issue) (f : VSlot) (s : State) : Result := s.eachOp i 5 (.vld4 i f) (fun t c => c.vldOp t f 4 9)
def execVst2 (i : Issue) (f : VSlot) (s : State) : Result := s.eachOp i 5 (.vst2 i f) (fun t c => c.vstOp t f 2)
def execVst3 (i : Issue) (f : VSlot) (s : State) : Result := s.eachOp i 5 (.vst3 i f) (fun t c => c.vstOp t f 3)
def execVst4 (i : Issue) (f : VSlot) (s : State) : Result := s.eachOp i 5 (.vst4 i f) (fun t c => c.vstOp t f 4)

/-- R111: the results due by the start of the given ring cycle land. -/
def execVectorResultWrite (i : Issue) (s : State) : Result := s.ringEvent i (fun _ r => r)

end Sys2Proof.Machine
end

