-- ==== Sys2Proof/Machine/Dispatch.lean ====
section
/-! DEFINITION. What each command does: one arm per constructor, one call per arm. -/

namespace Sys2Proof.Machine

def exec (i : Instr) (s : State) : Host.Outcome State Fault Refusal :=
  match i with
  | .orderPost fn slot op tag args => Sys2Proof.Machine.execOrderPost fn slot op tag args s
  | .orderBookScan wrong => Sys2Proof.Machine.execOrderBookScan s wrong
  | .slotWriteWhileTaken fn slot offset value => Sys2Proof.Machine.execSlotWriteWhileTaken fn slot offset value s
  | .imageKey fn slot addr idereq wrong => Sys2Proof.Machine.execImageKey fn slot addr idereq s wrong
  | .imageLoad fn slot addr len => Sys2Proof.Machine.execImageLoad fn slot addr len s
  | .step fn slot ckpt => Sys2Proof.Machine.execStep fn slot ckpt s
  | .restore fn slot src roff rstate => Sys2Proof.Machine.execRestore fn slot src roff rstate s
  | .halt org part => Sys2Proof.Machine.execHalt org part s
  | .certificate fn slot dest space nonceLen selector nonceAddr wrong => Sys2Proof.Machine.execCertificate fn slot dest space nonceLen selector nonceAddr s wrong
  | .seal fn slot src dst len wrong => Sys2Proof.Machine.execSeal fn slot src dst len s wrong
  | .unseal fn slot src dst len wrong => Sys2Proof.Machine.execUnseal fn slot src dst len s wrong
  | .registerRead org addr width => Sys2Proof.Machine.execRegisterRead org addr width s
  | .registerWrite org addr width value => Sys2Proof.Machine.execRegisterWrite org addr width value s
  | .bind slot vf part => Sys2Proof.Machine.execBind slot vf part s
  | .unbind slot vf => Sys2Proof.Machine.execUnbind slot vf s
  | .partitionList slot => Sys2Proof.Machine.execPartitionList slot s
  | .setNumvfs n => Sys2Proof.Machine.execSetNumvfs n s
  | .vfEnableClear => Sys2Proof.Machine.execVfEnableClear s
  | .vfFlr fn => Sys2Proof.Machine.execVfFlr fn s
  | .pfFlr => Sys2Proof.Machine.execPfFlr s
  | .bar2Read fn addr len wrong => Sys2Proof.Machine.execBar2Read fn addr len wrong s
  | .bar2Write fn addr data fault inStream wrong => Sys2Proof.Machine.execBar2Write fn addr data fault inStream wrong s
  | .msixUnmask fn act => Sys2Proof.Machine.execMsixUnmask fn act s
  | .ideKm fn km => Sys2Proof.Machine.execIdeKm fn km s
  | .create h part rings regions => Sys2Proof.Machine.execCreate h part rings regions s
  | .teardown h part => Sys2Proof.Machine.execTeardown h part s
  | .teardownHaltTimeout part => Sys2Proof.Machine.execTeardownHaltTimeout part s
  | .partitions h => Sys2Proof.Machine.execPartitions h s
  | .hello sess tick => Sys2Proof.Machine.execHello sess tick s
  | .certs sess chain => Sys2Proof.Machine.execCerts sess chain s
  | .keyshare sess share => Sys2Proof.Machine.execKeyshare sess share s
  | .finish sess transcript tick => Sys2Proof.Machine.execFinish sess transcript tick s
  | .sessionTimeout sess tick => Sys2Proof.Machine.execSessionTimeout sess tick s
  | .fwChunk h offset data last image cut => Sys2Proof.Machine.execFwChunk h offset data last image s cut
  | .svnCommit h => Sys2Proof.Machine.execSvnCommit h s
  | .reset h => Sys2Proof.Machine.execReset h s
  | .lifecycle h target ecdsaOk hssOk serialOk token => Sys2Proof.Machine.execLifecycle h target ecdsaOk hssOk serialOk s token
  | .anchor h cert signedByCurrent => Sys2Proof.Machine.execAnchor h cert signedByCurrent s
  | .scrub h regions => Sys2Proof.Machine.execScrub h regions s
  | .telemetry h page => Sys2Proof.Machine.execTelemetry h page s
  | .eventlog h first => Sys2Proof.Machine.execEventlog h first s
  | .meterRecord h seq => Sys2Proof.Machine.execMeterRecord h seq s
  | .meterReg h offset => Sys2Proof.Machine.execMeterReg h offset s
  | .dkRpcmdRemapRow h span ch bank row => Sys2Proof.Machine.execDkRpcmdRemapRow h span ch bank row s
  | .dkRpcmdReturnChannel h span ch => Sys2Proof.Machine.execDkRpcmdReturnChannel h span ch s
  | .dkRpcmdReinstateRegion h span region => Sys2Proof.Machine.execDkRpcmdReinstateRegion h span region s
  | .bdcapWrite offset bytes => Sys2Proof.Machine.execBdcapWrite offset s bytes
  | .i3cDynamicAddress setdasa staticAddr addr => Sys2Proof.Machine.execI3cDynamicAddress setdasa staticAddr addr s
  | .sadd iss rd ra rb => Sys2Proof.Machine.execSadd iss rd ra rb s
  | .ssub iss rd ra rb => Sys2Proof.Machine.execSsub iss rd ra rb s
  | .sand iss rd ra rb => Sys2Proof.Machine.execSand iss rd ra rb s
  | .sor iss rd ra rb => Sys2Proof.Machine.execSor iss rd ra rb s
  | .sxor iss rd ra rb => Sys2Proof.Machine.execSxor iss rd ra rb s
  | .sshl iss rd ra rb => Sys2Proof.Machine.execSshl iss rd ra rb s
  | .sshr iss rd ra rb => Sys2Proof.Machine.execSshr iss rd ra rb s
  | .ssra iss rd ra rb => Sys2Proof.Machine.execSsra iss rd ra rb s
  | .smul iss rd ra rb => Sys2Proof.Machine.execSmul iss rd ra rb s
  | .smin iss rd ra rb => Sys2Proof.Machine.execSmin iss rd ra rb s
  | .smax iss rd ra rb => Sys2Proof.Machine.execSmax iss rd ra rb s
  | .sslt iss rd ra rb => Sys2Proof.Machine.execSslt iss rd ra rb s
  | .saddi iss rd ra imm => Sys2Proof.Machine.execSaddi iss rd ra imm s
  | .sli iss rd imm => Sys2Proof.Machine.execSli iss rd imm s
  | .slih iss rd imm => Sys2Proof.Machine.execSlih iss rd imm s
  | .sld iss rd ra imm => Sys2Proof.Machine.execSld iss rd ra imm s
  | .sst iss rb ra imm => Sys2Proof.Machine.execSst iss rb ra imm s
  | .srds iss rd off => Sys2Proof.Machine.execSrds iss rd off s
  | .swrs iss ra off => Sys2Proof.Machine.execSwrs iss ra off s
  | .br iss target => Sys2Proof.Machine.execBr iss target s
  | .beq iss ra rb target => Sys2Proof.Machine.execBeq iss ra rb target s
  | .bne iss ra rb target => Sys2Proof.Machine.execBne iss ra rb target s
  | .blt iss ra rb target => Sys2Proof.Machine.execBlt iss ra rb target s
  | .bnzd iss ra target => Sys2Proof.Machine.execBnzd iss ra target s
  | .vsetvl iss rd ra w => Sys2Proof.Machine.execVsetvl iss rd ra w s
  | .lpre iss leg => Sys2Proof.Machine.execLpre iss leg s
  | .legStaged ring cycle => Sys2Proof.Machine.execLegStaged ring cycle s
  | .vadd iss p f => Sys2Proof.Machine.execVadd iss p f s
  | .vsub iss p f => Sys2Proof.Machine.execVsub iss p f s
  | .vmul iss p f => Sys2Proof.Machine.execVmul iss p f s
  | .vfma iss p f => Sys2Proof.Machine.execVfma iss p f s
  | .vfms iss p f => Sys2Proof.Machine.execVfms iss p f s
  | .vfnma iss p f => Sys2Proof.Machine.execVfnma iss p f s
  | .vdiv iss p f => Sys2Proof.Machine.execVdiv iss p f s
  | .vsqrt iss p f => Sys2Proof.Machine.execVsqrt iss p f s
  | .vwmul iss p f => Sys2Proof.Machine.execVwmul iss p f s
  | .vdot2Bf iss p f => Sys2Proof.Machine.execVdot2Bf iss p f s
  | .vdot4 iss p f => Sys2Proof.Machine.execVdot4 iss p f s
  | .vand iss f => Sys2Proof.Machine.execVand iss f s
  | .vor iss f => Sys2Proof.Machine.execVor iss f s
  | .vxor iss f => Sys2Proof.Machine.execVxor iss f s
  | .vnot iss f => Sys2Proof.Machine.execVnot iss f s
  | .vshl iss f => Sys2Proof.Machine.execVshl iss f s
  | .vshr iss f => Sys2Proof.Machine.execVshr iss f s
  | .vsra iss f => Sys2Proof.Machine.execVsra iss f s
  | .vmin iss f => Sys2Proof.Machine.execVmin iss f s
  | .vmax iss f => Sys2Proof.Machine.execVmax iss f s
  | .vcmp iss f => Sys2Proof.Machine.execVcmp iss f s
  | .vsel iss f => Sys2Proof.Machine.execVsel iss f s
  | .vcvt iss f => Sys2Proof.Machine.execVcvt iss f s
  | .vqblk iss f => Sys2Proof.Machine.execVqblk iss f s
  | .vdqblk iss f => Sys2Proof.Machine.execVdqblk iss f s
  | .vexp2 iss f => Sys2Proof.Machine.execVexp2 iss f s
  | .vrcp iss f => Sys2Proof.Machine.execVrcp iss f s
  | .vrsum iss f => Sys2Proof.Machine.execVrsum iss f s
  | .vmvsx iss f => Sys2Proof.Machine.execVmvsx iss f s
  | .mand iss f => Sys2Proof.Machine.execMand iss f s
  | .mor iss f => Sys2Proof.Machine.execMor iss f s
  | .mxor iss f => Sys2Proof.Machine.execMxor iss f s
  | .mnot iss f => Sys2Proof.Machine.execMnot iss f s
  | .mpop iss f => Sys2Proof.Machine.execMpop iss f s
  | .vaccRd iss f => Sys2Proof.Machine.execVaccRd iss f s
  | .vld iss f => Sys2Proof.Machine.execVld iss f s
  | .vst iss f => Sys2Proof.Machine.execVst iss f s
  | .vld2 iss f => Sys2Proof.Machine.execVld2 iss f s
  | .vld3 iss f => Sys2Proof.Machine.execVld3 iss f s
  | .vld4 iss f => Sys2Proof.Machine.execVld4 iss f s
  | .vst2 iss f => Sys2Proof.Machine.execVst2 iss f s
  | .vst3 iss f => Sys2Proof.Machine.execVst3 iss f s
  | .vst4 iss f => Sys2Proof.Machine.execVst4 iss f s
  | .vectorResultWrite iss => Sys2Proof.Machine.execVectorResultWrite iss s
  | .freeBankAccess cl who cycle wrong => Sys2Proof.Machine.execFreeBankAccess cl who cycle wrong s
  | .mmul iss f => Sys2Proof.Machine.execMmul iss f s
  | .accumulatorJoin iss => Sys2Proof.Machine.execAccumulatorJoin iss s
  | .mstart iss => Sys2Proof.Machine.execMstart iss s
  | .mstop iss => Sys2Proof.Machine.execMstop iss s
  | .rampStep iss => Sys2Proof.Machine.execRampStep iss s
  | .mldw iss sd => Sys2Proof.Machine.execMldw iss sd s
  | .mldwComplete iss => Sys2Proof.Machine.execMldwComplete iss s
  | .mswap iss => Sys2Proof.Machine.execMswap iss s
  | .mwr iss f => Sys2Proof.Machine.execMwr iss f s
  | .columnCheckMismatch cl cycle col => Sys2Proof.Machine.execColumnCheckMismatch cl cycle col s
  | .mbr iss ra rb flush => Sys2Proof.Machine.execMbr iss ra rb flush s
  | .batchLimitExpiry iss => Sys2Proof.Machine.execBatchLimitExpiry iss s
  | .batchComplete iss => Sys2Proof.Machine.execBatchComplete iss s
  | .coast iss count => Sys2Proof.Machine.execCoast iss count s
  | .coastEnd iss => Sys2Proof.Machine.execCoastEnd iss s
  | .tpost iss scope name count => Sys2Proof.Machine.execTpost iss scope name count s
  | .tokenPostApplied iss => Sys2Proof.Machine.execTokenPostApplied iss s
  | .twait iss scope name count => Sys2Proof.Machine.execTwait iss scope name count s
  | .swait iss mask => Sys2Proof.Machine.execSwait iss mask s
  | .leg iss target => Sys2Proof.Machine.execLeg iss target s
  | .endHold iss => Sys2Proof.Machine.execEndHold iss s
  | .holdRelease iss => Sys2Proof.Machine.execHoldRelease iss s
  | .holdLimitExpiry iss => Sys2Proof.Machine.execHoldLimitExpiry iss s
  | .startHold iss => Sys2Proof.Machine.execStartHold iss s
  | .ringHalted iss => Sys2Proof.Machine.execRingHalted iss s
  | .stgo iss eng pslot sr => Sys2Proof.Machine.execStgo iss eng pslot sr s
  | .strel iss eng => Sys2Proof.Machine.execStrel iss eng s
  | .sthalt iss eng => Sys2Proof.Machine.execSthalt iss eng s
  | .sCfg e dir half base => Sys2Proof.Machine.execSCfg e dir half base s
  | .sPar e da => Sys2Proof.Machine.execSPar e da s
  | .sLi e da imm => Sys2Proof.Machine.execSLi e da imm s
  | .sAddi e da sa imm => Sys2Proof.Machine.execSAddi e da sa imm s
  | .sAdd e da sa => Sys2Proof.Machine.execSAdd e da sa s
  | .sLoop e count n => Sys2Proof.Machine.execSLoop e count n s
  | .sGet e sa len inc => Sys2Proof.Machine.execSGet e sa len inc s
  | .sPut e sa len inc => Sys2Proof.Machine.execSPut e sa len inc s
  | .sFlip e => Sys2Proof.Machine.execSFlip e s
  | .sPost e scope name => Sys2Proof.Machine.execSPost e scope name s
  | .sEnd e => Sys2Proof.Machine.execSEnd e s
  | .streamHalfFull e half => Sys2Proof.Machine.execStreamHalfFull e half s
  | .xget iss sd tscope tname => Sys2Proof.Machine.execXget iss sd tscope tname s
  | .xput iss sd tscope tname => Sys2Proof.Machine.execXput iss sd tscope tname s
  | .xmove iss sd tscope tname => Sys2Proof.Machine.execXmove iss sd tscope tname s
  | .transferComplete cl idx cycle => Sys2Proof.Machine.execTransferComplete cl idx cycle s
  | .trestleSubmit iss value => Sys2Proof.Machine.execTrestleSubmit iss value s
  | .trestleRequestStart ring cycle => Sys2Proof.Machine.execTrestleRequestStart ring cycle s
  | .residualKernelIssue cl pipe cycle => Sys2Proof.Machine.execResidualKernelIssue cl pipe cycle s
  | .trestleDeadline ring cycle iters => Sys2Proof.Machine.execTrestleDeadline ring cycle iters s
  | .trestleComplete ring cycle => Sys2Proof.Machine.execTrestleComplete ring cycle s
  | .scheduleCopy ring => Sys2Proof.Machine.execScheduleCopy ring s
  | .faultReport ring cycle => Sys2Proof.Machine.execFaultReport ring cycle s
  | .recovery part tests badEntries => Sys2Proof.Machine.execRecovery part tests badEntries s
  | .commit part => Sys2Proof.Machine.execCommit part s
  | .journaledWrite acc data mask => Sys2Proof.Machine.execJournaledWrite acc data mask s
  | .journalEntryStored siding => Sys2Proof.Machine.execJournalEntryStored siding s
  | .checkpointStopEnd part badExtent => Sys2Proof.Machine.execCheckpointStopEnd part badExtent s
  | .checkpointAck part dest => Sys2Proof.Machine.execCheckpointAck part dest s
  | .destinationTimeout part dest => Sys2Proof.Machine.execDestinationTimeout part dest s
  | .bulkFrameReceive port half f => Sys2Proof.Machine.execBulkFrameReceive port half f s
  | .deckRead acc wrong => Sys2Proof.Machine.execDeckRead acc wrong s
  | .deckWrite acc data mask cycle wrong => Sys2Proof.Machine.execDeckWrite acc data mask cycle wrong s
  | .writeBufferDrain span ch cycle => Sys2Proof.Machine.execWriteBufferDrain span ch cycle s
  | .refresh span ch temp waiting => Sys2Proof.Machine.execRefresh span ch temp waiting s
  | .scrubWrite span addr => Sys2Proof.Machine.execScrubWrite span addr s
  | .scrubComplete span => Sys2Proof.Machine.execScrubComplete span s
  | .calibrationStep span at_ checkOk => Sys2Proof.Machine.execCalibrationStep span at_ checkOk s
  | .channelRetrain span ch errors => Sys2Proof.Machine.execChannelRetrain span ch errors s
  | .channelRetrainDone span => Sys2Proof.Machine.execChannelRetrainDone span s
  | .channelOffline span => Sys2Proof.Machine.execChannelOffline span s
  | .flitReceive at_ inEdge f => Sys2Proof.Machine.execFlitReceive at_ inEdge f s
  | .flitReplay edge n fc => Sys2Proof.Machine.execFlitReplay edge n fc s
  | .edgeRetrain edge fc => Sys2Proof.Machine.execEdgeRetrain edge fc s
  | .edgeRetrainDone die side failing => Sys2Proof.Machine.execEdgeRetrainDone die side failing s
  | .naridFrameReceive port half f fec tag fc => Sys2Proof.Machine.execNaridFrameReceive port half f fec tag fc s
  | .naridNak port half seq => Sys2Proof.Machine.execNaridNak port half seq s
  | .farEndDetected port half => Sys2Proof.Machine.execFarEndDetected port half s
  | .cableDetached port half => Sys2Proof.Machine.execCableDetached port half s
  | .trainingDone port half ok => Sys2Proof.Machine.execTrainingDone port half ok s
  | .naridHandshake port half certsOk lifecycleField agreed => Sys2Proof.Machine.execNaridHandshake port half certsOk lifecycleField agreed s
  | .naridRekey link agreed certsOk lifecycleField => Sys2Proof.Machine.execNaridRekey link agreed s certsOk lifecycleField
  | .linkIdle port half => Sys2Proof.Machine.execLinkIdle port half s
  | .linkSleep port half => Sys2Proof.Machine.execLinkSleep port half s
  | .linkFrameReady port half => Sys2Proof.Machine.execLinkFrameReady port half s
  | .linkRetrain link seen => Sys2Proof.Machine.execLinkRetrain link seen s
  | .linkRetrainDone port half ok => Sys2Proof.Machine.execLinkRetrainDone port half ok s
  | .invocationStart group bucket fc => Sys2Proof.Machine.execInvocationStart group bucket fc s
  | .rootJoin group bucket chunk => Sys2Proof.Machine.execRootJoin group bucket chunk s
  | .resultReceive group bucket chunk => Sys2Proof.Machine.execResultReceive group bucket chunk s
  | .digestCheck group bucket chunk => Sys2Proof.Machine.execDigestCheck group bucket chunk s
  | .memberVerdict group bucket => Sys2Proof.Machine.execMemberVerdict group bucket s
  | .groupVerdictSend group bucket => Sys2Proof.Machine.execGroupVerdictSend group bucket s
  | .groupVerdict group bucket v => Sys2Proof.Machine.execGroupVerdict group bucket v s
  | .collectiveTimeout group bucket fc => Sys2Proof.Machine.execCollectiveTimeout group bucket fc s
  | .capEvaluation milliwatts dieTemps deckTemps => Sys2Proof.Machine.execCapEvaluation milliwatts dieTemps deckTemps s
  | .ringClockStep ring => Sys2Proof.Machine.execRingClockStep ring s
  | .thermalTrip span => Sys2Proof.Machine.execThermalTrip span s
  | .ringSleep ring => Sys2Proof.Machine.execRingSleep ring s
  | .ringWake ring tests => Sys2Proof.Machine.execRingWake ring tests s
  | .uncoreOff => Sys2Proof.Machine.execUncoreOff s
  | .uncoreOn => Sys2Proof.Machine.execUncoreOn s
  | .coresSleep => Sys2Proof.Machine.execCoresSleep s
  | .coresWake cause => Sys2Proof.Machine.execCoresWake cause s
  | .pwrok => Sys2Proof.Machine.execPwrok s
  | .powerOnReset => Sys2Proof.Machine.execPowerOnReset s
  | .perst => Sys2Proof.Machine.execPerst s
  | .sysRstN low => Sys2Proof.Machine.execSysRstN low s
  | .deviceReset cause => Sys2Proof.Machine.execDeviceReset cause s
  | .referenceLoss => Sys2Proof.Machine.execReferenceLoss s
  | .referenceReturn => Sys2Proof.Machine.execReferenceReturn s
  | .boot slotA slotB idCertOk repairOk => Sys2Proof.Machine.execBoot slotA slotB idCertOk repairOk s
  | .lockstepMismatch => Sys2Proof.Machine.execLockstepMismatch s
  | .lmsTreeGenerated => Sys2Proof.Machine.execLmsTreeGenerated s
  | .workFrameSend span => Sys2Proof.Machine.execWorkFrameSend span s
  | .workFrameReceive f => Sys2Proof.Machine.execWorkFrameReceive f s
  | .worklossTimeout span => Sys2Proof.Machine.execWorklossTimeout span s
  | .partitionEventFrame ev part rings seq ms => Sys2Proof.Machine.execPartitionEventFrame ev part rings seq ms s
  | .snapshotFrame comes formed crcOk ms => Sys2Proof.Machine.execSnapshotFrame comes formed crcOk ms s
  | .intervalBoundary ms => Sys2Proof.Machine.execIntervalBoundary ms s
  | .hourRecord ms => Sys2Proof.Machine.execHourRecord ms s
  | .sealBreakAssert ms => Sys2Proof.Machine.execSealBreakAssert ms s
  | .sealBreakRelease ms => Sys2Proof.Machine.execSealBreakRelease ms s
  | .meterSupplyFail => Sys2Proof.Machine.execMeterSupplyFail s
  | .meterStart start => Sys2Proof.Machine.execMeterStart start s
  | .crystalFail => Sys2Proof.Machine.execCrystalFail s
  | .crystalReturn => Sys2Proof.Machine.execCrystalReturn s
  | .mailboxOutput => Sys2Proof.Machine.execMailboxOutput s
  | .meterMailboxReceive => Sys2Proof.Machine.execMeterMailboxReceive s
  | .getReg offset => Sys2Proof.Machine.execGetReg offset s
  | .getRecord seq => Sys2Proof.Machine.execGetRecord seq s
  | .getCert => Sys2Proof.Machine.execGetCert s
  | .getNonce => Sys2Proof.Machine.execGetNonce s
  | .change o => Sys2Proof.Machine.execChange o s
  | .extest cells => Sys2Proof.Machine.execExtest s cells
  | .idcode => Sys2Proof.Machine.execIdcode s
  | .samplePreload preload => Sys2Proof.Machine.execSamplePreload preload s
  | .clamp => Sys2Proof.Machine.execClamp s
  | .highz => Sys2Proof.Machine.execHighz s
  | .extestPulse cells => Sys2Proof.Machine.execExtestPulse s cells
  | .extestTrain cells => Sys2Proof.Machine.execExtestTrain s cells
  | .bypass => Sys2Proof.Machine.execBypass s
  | .testLogicReset by_ => Sys2Proof.Machine.execTestLogicReset s by_
  | .imageValidationEnd part hwFault wrong => Sys2Proof.Machine.execImageValidationEnd part hwFault wrong s
  | .restoreComplete part exts data hwFault => Sys2Proof.Machine.execRestoreComplete part exts data hwFault s
  | .naridPortConfiguration h port value => Sys2Proof.Machine.execNaridPortConfiguration h port value s
  | .spdmKeyExchange fn ok => Sys2Proof.Machine.execSpdmKeyExchange fn ok s
  | .energySample samples => Sys2Proof.Machine.execEnergySample samples s

end Sys2Proof.Machine
end

