-- ==== Sys2Proof/Safety.lean ====
section
/-! DEFINITION. What claims speak of: a run that goes on, a bundle that issues, and the device after a slot of it. -/

namespace Sys2Proof.Machine

/-! ## Runs -/

/-- An outcome that is a next state. -/
def completes (o : Host.Outcome State Fault Refusal) : Prop := ∃ t, o = .next t

/-- Running the commands that wait, one after another, never stops and keeps the memory's canonical form. -/
def runsSafely : Nat → State → Prop
  | 0, s => s.memWf = true
  | n + 1, s => s.memWf = true ∧ ∃ t, step s = .next t ∧ runsSafely n t

/-! ## Bundles -/

/-- The ring cycle in which a bundle's command acts: the one it names, or the ring's present one if that is later. -/
def cycleAt (s : State) (i : Issue) : Nat := max i.cycle (s.ring i.ring.val).now

/-- The ring at the start of that ring cycle. -/
def settledRing (s : State) (i : Issue) : Ring := (s.ring i.ring.val).settle i.ring.val (cycleAt s i)

/-- The ring at the start of that ring cycle, slot `k` of its bundle entered. -/
def ringAt (s : State) (i : Issue) (k : Nat) : Ring :=
  let r := settledRing s i
  match (r.tt.indexAt (cycleAt s i)).bind (fun b => r.tt.enter (cycleAt s i) b k) with
  | some x => { r with tt := x }
  | none => r

/-- Slot `k` of the bundle issues and holds command `c`: the ring is awake and issuing at the start of the ring cycle, its
current leg holds the bundle, and no slot that has issued bars this one. -/
def Issues (s : State) (i : Issue) (k : Nat) (c : Instr) : Prop :=
  (s.ring i.ring.val).awake = true ∧ (settledRing s i).entered i k (fun x => x == c) (cycleAt s i) = some (ringAt s i k)

/-- The device once a ring has become `r`, with what the rest of it takes from the ring. -/
def afterRing (s : State) (k : Nat) (r : Ring) : State :=
  (((((s.setRing k r).takeXfers k).takeWork k).takePhase k).takePosts k).takeFlags k

/-- The device after slot `k` that does `f`, given the ring cycle, in each of the ring's clusters. -/
def slotNext (s : State) (i : Issue) (k : Nat) (f : Nat → Cluster → Cluster) : State :=
  afterRing s i.ring.val ((ringAt s i k).each (fun _ c => f (cycleAt s i) c))

/-- The device once ring `k` has been brought to ring cycle `c`, with what the rest of it takes from the ring. -/
def settled (s : State) (k c : Nat) : State := s.atRing k (fun r => r.event k c (fun _ r => r))

/-- A command completes, wherever it issues as slot `k` of a bundle, by doing `f` in every cluster. -/
def SlotDoes (c : Instr) (i : Issue) (k : Nat) (f : Nat → Cluster → Cluster) : Prop :=
  ∀ s, Issues s i k c → exec c s = .next (slotNext s i k f)

/-- A vector command completes, wherever it issues, by doing `f` in every cluster whose pipe is free; one whose pipe is still busy
sets BUSY of that pipe and does nothing else (R113). -/
def PipeDoes (c : Instr) (i : Issue) (slot : Nat) (f : Nat → Cluster → Cluster) : Prop :=
  ∀ s, Issues s i slot c → exec c s = .next (slotNext s i slot (fun t x =>
    if t < x.vec.until_ slot then x.vfault vfBusy (slot - 2) else f t x))

/-- A cluster command completes, wherever it issues as slot `k` and `ok` holds in each cluster, by doing `f` in each. -/
def ClusterDoes (c : Instr) (i : Issue) (k : Nat) (ok : Nat → Cluster → Prop) (f : Nat → Cluster → Cluster) : Prop :=
  ∀ s, Issues s i k c → (∀ x ∈ (ringAt s i k).cl, ok (cycleAt s i) x) → exec c s = .next (slotNext s i k f)

/-- The device at the start of the ring cycle of a stream instruction. -/
def engState (s : State) (e : EngAt) : State := settled s (e.cl.val / 16) e.cycle

/-- The ring of a stream instruction, then. -/
def engRing (s : State) (e : EngAt) : Ring := (engState s e).ring (e.cl.val / 16)

/-- The engine executes instruction `i` for partition `part`: its ring is awake and belongs to the partition, it runs or
waits, its program has come to the instruction, and it has executed none in this ring cycle. -/
def Executes (s : State) (e : EngAt) (i : Instr) (part : Nat) : Prop :=
  (engRing s e).awake = true ∧ (engState s e).partOf (e.cl.val / 16) = some part ∧
    (((engState s e).cluster e.cl.val).engine e.eng.val).steps e i (engRing s e).now = true

/-- The device once the engine's cluster has become `c`; an engine that does not wait has executed its instruction of the
ring cycle, and the cluster's flags show in the blocks of its units (R24). -/
def streamNext (s : State) (e : EngAt) (c : Cluster) : State :=
  ((engState s e).setCluster e.cl.val
    (c.setEngine e.eng.val ((c.engine e.eng.val).stepped (engRing s e).now))).takeFlags (e.cl.val / 16)

/-- The ring of a command that is a slot of a bundle. -/
def slotRing : Instr → Option Issue
  | .sadd i _ _ _ | .ssub i _ _ _ | .sand i _ _ _ | .sor i _ _ _ | .sxor i _ _ _ | .sshl i _ _ _ | .sshr i _ _ _
  | .ssra i _ _ _ | .smul i _ _ _ | .smin i _ _ _ | .smax i _ _ _ | .sslt i _ _ _ | .saddi i _ _ _ | .sli i _ _
  | .slih i _ _ | .sld i _ _ _ | .sst i _ _ _ | .srds i _ _ | .swrs i _ _ | .br i _ | .beq i _ _ _ | .bne i _ _ _
  | .blt i _ _ _ | .bnzd i _ _ | .vsetvl i _ _ _ | .lpre i _ | .vadd i _ _ | .vsub i _ _ | .vmul i _ _ | .vfma i _ _
  | .vfms i _ _ | .vfnma i _ _ | .vdiv i _ _ | .vsqrt i _ _ | .vwmul i _ _ | .vdot2Bf i _ _ | .vdot4 i _ _
  | .vand i _ | .vor i _ | .vxor i _ | .vnot i _ | .vshl i _ | .vshr i _ | .vsra i _ | .vmin i _ | .vmax i _
  | .vcmp i _ | .vsel i _ | .vcvt i _ | .vqblk i _ | .vdqblk i _ | .vexp2 i _ | .vrcp i _ | .vrsum i _ | .vmvsx i _
  | .mand i _ | .mor i _ | .mxor i _ | .mnot i _ | .mpop i _ | .vaccRd i _ | .vld i _ | .vst i _ | .vld2 i _
  | .vld3 i _ | .vld4 i _ | .vst2 i _ | .vst3 i _ | .vst4 i _ | .mmul i _ | .mstart i | .mstop i | .mldw i _
  | .mswap i | .mwr i _ | .mbr i _ _ _ | .coast i _ | .tpost i _ _ _ | .twait i _ _ _ | .swait i _ | .leg i _
  | .endHold i | .stgo i _ _ _ | .strel i _ | .sthalt i _ => some i
  | _ => none

/-! ## Orders and messages -/

/-- An order of a tenant is taken and nothing forbids it: the signal box has booted, the slot holds no order in
progress, the function is a VF in a tenancy, the device is not locked, and a required IDE stream is active. -/
def TenantOrder (s : State) (f slot part : Nat) : Prop :=
  s.takes f slot = true ∧ f ≠ 0 ∧ s.tenant f = some part ∧ s.il.locked = false ∧ s.ideBars f part = false

/-- An order of the PF is taken and nothing forbids it. -/
def HostOrder (s : State) (slot : Nat) : Prop := s.takes 0 slot = true ∧ s.il.locked = false

/-- A management message is admitted on its session: it is open and fresh, the tag verifies, the sequence number rises,
the session's last message is not yet reached, and the device is not locked or in recovery where that matters. -/
def Admitted (s : State) (h : Mgmt) (lockedOk recoveryOk : Bool) (x : Session) : Prop :=
  s.il.boot ≠ .none_ ∧ s.session h.sess.val = some x ∧ x.stage = .open_ ∧ h.tick < x.last + sessLimit ∧
    h.tagOk = true ∧ (∀ r, x.rx = some r → r < h.seq) ∧ (s.il.locked = true → lockedOk = true) ∧
    (s.il.boot = .recovery → recoveryOk = true) ∧ x.count + 1 < 2 ^ 32

/-- The device once a message has been admitted: its session has moved on, CORES is awake, and the standing clock is at least at
the message's tick. -/
def heard (s : State) (h : Mgmt) (x : Session) : State :=
  { s.setSession h.sess.val (some { x with rx := some h.seq, count := x.count + 1, last := max x.last h.tick }) with
    power := { s.power with cores := true, tick := max s.power.tick h.tick } }

/-- The header of the management message that a command stands for, on an open session (R421). -/
def mgmtHeader : Instr → Option Mgmt
  | .create h _ _ _ | .teardown h _ | .halt (.mgmt h) _ | .partitions h | .registerRead (.mgmt h) _ _
  | .registerWrite (.mgmt h) _ _ _ | .dkRpcmdRemapRow h _ _ _ _ | .dkRpcmdReturnChannel h _ _
  | .dkRpcmdReinstateRegion h _ _ | .naridPortConfiguration h _ _ | .fwChunk h _ _ _ _ _ | .svnCommit h | .reset h
  | .lifecycle h _ _ _ _ _ | .anchor h _ _ | .scrub h _ | .telemetry h _ | .eventlog h _ | .meterRecord h _
  | .meterReg h _ => some h
  | _ => none

/-! ## The meter -/

/-- The commands that stand for the meter's own inputs: work and event frames, its samples, clock, supply and seal, and
the serial port and mailbox land (Table 15.6). -/
def meterCommand : Instr → Bool
  | .workFrameReceive _ | .worklossTimeout _ | .partitionEventFrame _ _ _ _ _ | .snapshotFrame _ _ _ _
  | .intervalBoundary _ | .hourRecord _ | .energySample _ | .sealBreakAssert _ | .sealBreakRelease _ | .meterSupplyFail
  | .meterStart _ | .crystalFail | .crystalReturn | .mailboxOutput | .getNonce | .change _ => true
  | _ => false

/-- The meter runs. -/
def MeterRuns (s : State) : Prop := s.meter.st ≠ .starting

end Sys2Proof.Machine
end

