-- ==== Sys2Proof/WellFormed.lean ====
section
/-! DEFINITION. Which terms are commands that can occur: the field checks of bundles and stream programs
that an image must pass (R44, R99, R103 to R123, R162 to R165, R182), and the lengths and ranges of the lists that
messages, frames and samples carry. A command outside this form still has its meaning in the machine. -/

namespace Sys2Proof

open Sys2Proof.Machine

/-- Device ring indices (R20). -/
def ringsOk (l : List Nat) : Bool := l.all (fun r => decide (r < 256))

/-- Regions as span and region (R248). -/
def regionsOk (l : List (Nat × Nat)) : Bool := l.all (fun p => decide (p.1 < 16) && decide (p.2 < 256))

/-- The cells that a command shifts in fill the boundary register (R432). -/
def cellsOk (l : Option (List Bool)) : Bool :=
  match l with
  | none => true
  | some c => decide (c.length = 631)

/-- Key material of a stream: AES-256 keys (R364). -/
def keysOk (km : IdeKm) : Bool :=
  match km with
  | .keyProg _ keys => decide (32 ≤ keys.length ∧ keys.length % 32 = 0)
  | _ => true

/-- The form of a command. -/
def Instr.wf : Instr → Bool
  | .orderPost _ _ _ _ args => decide (args.body.length ≤ 48)
  | .orderBookScan _ => true
  | .slotWriteWhileTaken _ _ _ _ => true
  | .imageKey _ _ _ _ _ => true
  | .imageLoad _ _ _ _ => true
  | .step _ _ _ => true
  | .restore _ _ _ _ _ => true
  | .halt _ _ => true
  | .certificate _ _ _ _ _ _ _ _ => true
  | .seal _ _ _ _ _ _ => true
  | .unseal _ _ _ _ _ _ => true
  | .registerRead _ _ _ => true
  | .registerWrite _ _ _ _ => true
  | .bind _ _ _ => true
  | .unbind _ _ => true
  | .partitionList _ => true
  | .setNumvfs _ => true
  | .vfEnableClear => true
  | .vfFlr _ => true
  | .pfFlr => true
  | .bar2Read _ _ len _ => decide (1 ≤ len)
  | .bar2Write _ _ data _ _ _ => decide (1 ≤ data.length)
  | .msixUnmask _ _ => true
  | .ideKm _ km => keysOk km
  | .create _ _ rings regions => ringsOk rings && regionsOk regions
  | .teardown _ _ => true
  | .teardownHaltTimeout _ => true
  | .partitions _ => true
  | .hello _ _ => true
  | .certs _ _ => true
  | .keyshare _ _ => true
  | .finish _ _ _ => true
  | .sessionTimeout _ _ => true
  | .fwChunk _ _ _ _ _ _ => true
  | .svnCommit _ => true
  | .reset _ => true
  | .lifecycle _ _ _ _ _ _ => true
  | .anchor _ _ _ => true
  | .scrub _ regions => regionsOk regions
  | .telemetry _ _ => true
  | .eventlog _ _ => true
  | .meterRecord _ _ => true
  | .meterReg _ _ => true
  | .dkRpcmdRemapRow _ _ _ _ _ => true
  | .dkRpcmdReturnChannel _ _ _ => true
  | .dkRpcmdReinstateRegion _ _ _ => true
  | .bdcapWrite _ _ => true
  | .i3cDynamicAddress _ _ _ => true
  | .sadd _ _ _ _ => true
  | .ssub _ _ _ _ => true
  | .sand _ _ _ _ => true
  | .sor _ _ _ _ => true
  | .sxor _ _ _ _ => true
  | .sshl _ _ _ _ => true
  | .sshr _ _ _ _ => true
  | .ssra _ _ _ _ => true
  | .smul _ _ _ _ => true
  | .smin _ _ _ _ => true
  | .smax _ _ _ _ => true
  | .sslt _ _ _ _ => true
  | .saddi _ _ _ _ => true
  | .sli _ _ _ => true
  | .slih _ _ _ => true
  | .sld _ _ _ _ => true
  | .sst _ _ _ _ => true
  | .srds _ _ _ => true
  | .swrs _ _ _ => true
  | .br _ _ => true
  | .beq _ _ _ _ => true
  | .bne _ _ _ _ => true
  | .blt _ _ _ _ => true
  | .bnzd _ _ _ => true
  | .vsetvl _ _ _ _ => true
  | .lpre _ _ => true
  | .legStaged _ _ => true
  | .vadd _ _ f => vfieldsOk 0x01 f
  | .vsub _ _ f => vfieldsOk 0x02 f
  | .vmul _ _ f => vfieldsOk 0x03 f
  | .vfma _ _ f => vfieldsOk 0x04 f
  | .vfms _ _ f => vfieldsOk 0x05 f
  | .vfnma _ _ f => vfieldsOk 0x06 f
  | .vdiv _ _ f => vfieldsOk 0x07 f
  | .vsqrt _ _ f => vfieldsOk 0x08 f
  | .vwmul _ _ f => vfieldsOk 0x09 f
  | .vdot2Bf _ _ f => vfieldsOk 0x0A f
  | .vdot4 _ _ f => vfieldsOk 0x0B f
  | .vand _ f => vfieldsOk 0x20 f
  | .vor _ f => vfieldsOk 0x21 f
  | .vxor _ f => vfieldsOk 0x22 f
  | .vnot _ f => vfieldsOk 0x23 f
  | .vshl _ f => vfieldsOk 0x24 f
  | .vshr _ f => vfieldsOk 0x25 f
  | .vsra _ f => vfieldsOk 0x26 f
  | .vmin _ f => vfieldsOk 0x27 f
  | .vmax _ f => vfieldsOk 0x28 f
  | .vcmp _ f => vfieldsOk 0x29 f
  | .vsel _ f => vfieldsOk 0x2A f
  | .vcvt _ f => vfieldsOk 0x2B f
  | .vqblk _ f => vfieldsOk 0x2C f
  | .vdqblk _ f => vfieldsOk 0x2D f
  | .vexp2 _ f => vfieldsOk 0x2E f
  | .vrcp _ f => vfieldsOk 0x2F f
  | .vrsum _ f => vfieldsOk 0x30 f
  | .vmvsx _ f => vfieldsOk 0x31 f
  | .mand _ f => vfieldsOk 0x32 f
  | .mor _ f => vfieldsOk 0x33 f
  | .mxor _ f => vfieldsOk 0x34 f
  | .mnot _ f => vfieldsOk 0x35 f
  | .mpop _ f => vfieldsOk 0x36 f
  | .vaccRd _ f => vfieldsOk 0x37 f
  | .vld _ f => vfieldsOk 0x40 f
  | .vst _ f => vfieldsOk 0x41 f
  | .vld2 _ f => vfieldsOk 0x42 f
  | .vld3 _ f => vfieldsOk 0x43 f
  | .vld4 _ f => vfieldsOk 0x44 f
  | .vst2 _ f => vfieldsOk 0x45 f
  | .vst3 _ f => vfieldsOk 0x46 f
  | .vst4 _ f => vfieldsOk 0x47 f
  | .vectorResultWrite _ => true
  | .freeBankAccess _ _ _ _ => true
  | .mmul _ _ => true
  | .accumulatorJoin _ => true
  | .mstart _ => true
  | .mstop _ => true
  | .rampStep _ => true
  | .mldw _ _ => true
  | .mldwComplete _ => true
  | .mswap _ => true
  | .mwr _ f => mwrOk f.mode.toNat f.ofmt.toNat f.rm.toNat f.pair f.bout.toNat
  | .columnCheckMismatch _ _ _ => true
  | .mbr _ _ _ _ => true
  | .batchLimitExpiry _ => true
  | .batchComplete _ => true
  | .coast _ count => decide (count ≠ 0)
  | .coastEnd _ => true
  | .tpost _ _ _ count => decide (count ≠ 0)
  | .tokenPostApplied _ => true
  | .twait _ _ _ count => decide (count ≠ 0)
  | .swait _ mask => decide (mask ≠ 0)
  | .leg _ _ => true
  | .endHold _ => true
  | .holdRelease _ => true
  | .holdLimitExpiry _ => true
  | .startHold _ => true
  | .ringHalted _ => true
  | .stgo _ _ _ _ => true
  | .strel _ _ => true
  | .sthalt _ _ => true
  | .sCfg _ _ half base => decide (1 ≤ half.toNat) && decide (half.toNat ≤ 16384) && decide (base.toNat % 64 = 0)
  | .sPar _ _ => true
  | .sLi _ _ _ => true
  | .sAddi _ _ _ _ => true
  | .sAdd _ _ _ => true
  | .sLoop _ count n => decide (1 ≤ count.toNat) && decide (1 ≤ n.toNat)
  | .sGet _ _ len _ => sLenOk len.toNat
  | .sPut _ _ len _ => sLenOk len.toNat
  | .sFlip _ => true
  | .sPost _ _ _ => true
  | .sEnd _ => true
  | .streamHalfFull _ _ => true
  | .xget _ _ _ _ => true
  | .xput _ _ _ _ => true
  | .xmove _ _ _ _ => true
  | .transferComplete _ _ _ => true
  | .trestleSubmit _ _ => true
  | .trestleRequestStart _ _ => true
  | .residualKernelIssue _ _ _ => true
  | .trestleDeadline _ _ _ => true
  | .trestleComplete _ _ => true
  | .scheduleCopy _ => true
  | .faultReport _ _ => true
  | .recovery _ _ _ => true
  | .commit _ => true
  | .journaledWrite _ data mask => decide (data.length = mask.length)
  | .journalEntryStored _ => true
  | .checkpointStopEnd _ _ => true
  | .checkpointAck _ _ => true
  | .destinationTimeout _ _ => true
  | .bulkFrameReceive _ _ _ => true
  | .deckRead _ _ => true
  | .deckWrite _ data mask _ _ => decide (data.length = mask.length)
  | .writeBufferDrain _ _ _ => true
  | .refresh _ _ _ _ => true
  | .scrubWrite _ _ => true
  | .scrubComplete _ => true
  | .calibrationStep _ _ _ => true
  | .channelRetrain _ _ _ => true
  | .channelRetrainDone _ => true
  | .channelOffline _ => true
  | .flitReceive _ _ f => decide (f.payload.length = 64)
  | .flitReplay _ _ _ => true
  | .edgeRetrain _ _ => true
  | .edgeRetrainDone _ _ _ => true
  | .naridFrameReceive _ _ _ _ tag _ => decide (tag.length = 16)
  | .naridNak _ _ _ => true
  | .farEndDetected _ _ => true
  | .cableDetached _ _ => true
  | .trainingDone _ _ _ => true
  | .naridHandshake _ _ _ _ _ => true
  | .naridRekey _ _ _ _ => true
  | .linkIdle _ _ => true
  | .linkSleep _ _ => true
  | .linkFrameReady _ _ => true
  | .linkRetrain _ _ => true
  | .linkRetrainDone _ _ _ => true
  | .invocationStart _ _ _ => true
  | .rootJoin _ _ _ => true
  | .resultReceive _ _ _ => true
  | .digestCheck _ _ _ => true
  | .memberVerdict _ _ => true
  | .groupVerdictSend _ _ => true
  | .groupVerdict _ _ _ => true
  | .collectiveTimeout _ _ _ => true
  | .capEvaluation _ dieTemps deckTemps => decide (dieTemps.length = 23) && decide (deckTemps.length = 16)
  | .ringClockStep _ => true
  | .thermalTrip _ => true
  | .ringSleep _ => true
  | .ringWake _ _ => true
  | .uncoreOff => true
  | .uncoreOn => true
  | .coresSleep => true
  | .coresWake _ => true
  | .pwrok => true
  | .powerOnReset => true
  | .perst => true
  | .sysRstN _ => true
  | .deviceReset _ => true
  | .referenceLoss => true
  | .referenceReturn => true
  | .boot _ _ _ _ => true
  | .lockstepMismatch => true
  | .lmsTreeGenerated => true
  | .workFrameSend _ => true
  | .workFrameReceive f => decide (f.part.toNat < 64) || decide (f.part.toNat = 255)
  | .worklossTimeout _ => true
  | .partitionEventFrame _ _ rings _ _ => ringsOk rings
  | .snapshotFrame _ _ _ _ => true
  | .intervalBoundary ms => decide (ms % 1000 = 0)
  | .hourRecord ms => decide (ms % 3600000 = 0)
  | .sealBreakAssert _ => true
  | .sealBreakRelease _ => true
  | .meterSupplyFail => true
  | .meterStart _ => true
  | .crystalFail => true
  | .crystalReturn => true
  | .mailboxOutput => true
  | .meterMailboxReceive => true
  | .getReg _ => true
  | .getRecord _ => true
  | .getCert => true
  | .getNonce => true
  | .change o => o.body.values.all (fun p => decide (p.1 % 4 = 0))
  | .extest cells => cellsOk cells
  | .idcode => true
  | .samplePreload preload => cellsOk preload
  | .clamp => true
  | .highz => true
  | .extestPulse cells => cellsOk cells
  | .extestTrain cells => cellsOk cells
  | .bypass => true
  | .testLogicReset _ => true
  | .imageValidationEnd _ _ _ => true
  | .restoreComplete _ _ _ _ => true
  | .naridPortConfiguration _ _ _ => true
  | .spdmKeyExchange _ _ => true
  | .energySample samples => decide (samples.length = 8)

end Sys2Proof
end

