-- ==== Sys2Proof/Certificates/Slice0/Obligations.lean ====
section
/-! DEFINITION. What is claimed of the device, one proposition per obligation; each comment names the rules. -/

open Sys2Proof Sys2Proof.Machine

/-- A step carries out the command at the front of the queue (95_what_each_step_holds.md, log entry 2). For every
command c and state s, the step of s with c at the front of its queue is exec of c on s with the rest of the
queue. -/
def Obligations.StepTakesFront : Prop :=
  ∀ (c : Instr) (rest : List Instr) (s : State),
    step { s with pending := c :: rest } = exec c { s with pending := rest }

/-- No command stops the device (R9, log entry 1). For every command and every state exec answers a next state: a
command that is not permitted completes with a status code, and an event whose condition does not hold changes
nothing (the model's choice, log entry 1). -/
def Obligations.EveryCommandCompletes : Prop :=
  ∀ (c : Instr) (s : State), completes (exec c s)

/-- Sequencer arithmetic, VSETVL and LPRE (R108, R156, R157, R166, Table 7.3 of 07_timetables.md). Wherever its
bundle issues, each two-source sequencer command completes by making its result due in register rd of every
cluster: one ring cycle after issue, three for SMUL. The results wrap at 64 bits, shifts take the low six bits
of rb, and SMIN, SMAX and SSLT compare as signed. SADDI adds the sign-extended immediate, SLI loads it, SLIH
replaces bits 63 to 32 and keeps the rest, VSETVL sets VL and rd to the smaller of ra and 256 over the width;
LPRE tells the ring to stage a leg; a leg that is being staged is whole once it has arrived, with its bundles as
the stored timetable of the ring's class holds them. -/
def Obligations.SequencerArithmetic : Prop :=
  ∀ (i : Issue) (rd ra rb : Fin 32) (imm : BitVec 32) (w : VWidth) (leg : BitVec 11) (s : State),
    let due (lat : Nat) (v : Regs → BitVec 64) : Nat → Cluster → Cluster :=
      fun t c => c.due (t + lat) t 0 (.sreg rd.val (v c.r))
    let res (lat : Nat) (op : BitVec 64 → BitVec 64 → BitVec 64) : Nat → Cluster → Cluster :=
      due lat (fun r => op (r.getS ra.val) (r.getS rb.val))
    SlotDoes (.sadd i rd ra rb) i 0 (res 1 (fun a b => a + b)) ∧
    SlotDoes (.ssub i rd ra rb) i 0 (res 1 (fun a b => a - b)) ∧
    SlotDoes (.sand i rd ra rb) i 0 (res 1 (fun a b => a &&& b)) ∧
    SlotDoes (.sor i rd ra rb) i 0 (res 1 (fun a b => a ||| b)) ∧
    SlotDoes (.sxor i rd ra rb) i 0 (res 1 (fun a b => a ^^^ b)) ∧
    SlotDoes (.sshl i rd ra rb) i 0 (res 1 (fun a b => a <<< (b.toNat % 64))) ∧
    SlotDoes (.sshr i rd ra rb) i 0 (res 1 (fun a b => a >>> (b.toNat % 64))) ∧
    SlotDoes (.ssra i rd ra rb) i 0 (res 1 (fun a b => a.sshiftRight (b.toNat % 64))) ∧
    SlotDoes (.smul i rd ra rb) i 0 (res 3 (fun a b => a * b)) ∧
    SlotDoes (.smin i rd ra rb) i 0 (res 1 (fun a b => if b.slt a then b else a)) ∧
    SlotDoes (.smax i rd ra rb) i 0 (res 1 (fun a b => if a.slt b then b else a)) ∧
    SlotDoes (.sslt i rd ra rb) i 0 (res 1 (fun a b => if a.slt b then 1 else 0)) ∧
    SlotDoes (.saddi i rd ra imm) i 0 (due 1 (fun r => r.getS ra.val + imm.signExtend 64)) ∧
    SlotDoes (.sli i rd imm) i 0 (due 1 (fun _ => imm.signExtend 64)) ∧
    SlotDoes (.slih i rd imm) i 0 (due 1 (fun r => imm ++ (r.getS rd.val).setWidth 32)) ∧
    SlotDoes (.vsetvl i rd ra w) i 0 (fun t c =>
      let n := min (c.r.getS ra.val).toNat (256 / w.bits)
      (c.due (t + 1) t 0 (.vl n)).due (t + 1) t 0 (.sreg rd.val (BitVec.ofNat 64 n))) ∧
    (Issues s i 0 (.lpre i leg) → exec (.lpre i leg) s =
      .next (afterRing s i.ring.val { ringAt s i 0 with tt := (ringAt s i 0).tt.stage leg.toNat })) ∧
    ((s.ring i.ring.val).awake = true → ∀ im t,
      (s.partOf i.ring.val).bind (fun part => (s.part part).image) = some im →
      im.timetable (im.targetOf i.ring.val) (s.ring i.ring.val).tt.c77 = some t →
      let r := settledRing s i
      exec (.legStaged i.ring i.cycle) s = .next (afterRing s i.ring.val
        { r with tt := r.tt.staged ((t.bundles.drop (r.tt.other.leg * 8192)).take 8192) }))

/-- Results, loads, stores and joins land (R84, R111, R112, R121, R124, R238). Where the only thing due by ring
cycle t in a cluster is one sequencer, vector or mask result, a new VL or vector flags, landing puts it there
and leaves every other register, VL, the flags, the Local Store, the accumulators, the tokens and the engine as
they were; a result for s0 is discarded. Of two vector results due in one ring cycle for one vector or mask
register, the later issued one is kept where they meet, and from one bundle that of the later slot; the flags of
both are raised. In the ring cycle of its access, with no bank in conflict and no line in error, a sequencer
load makes its eight bytes due in its register six ring cycles after issue, a vector load its elements, from
what that cycle reads; a store of bytes at different addresses merges them under their masks into the Local
Store, to be read after the cycle it names and not before, and changes no other byte, no register and no
accumulator; a join writes to each entry of its output vector the sum of what the entry held, or of zero where
it overwrites, and the vector's sum, and changes no other accumulator word. -/
def Obligations.ResultsLand : Prop :=
  (∀ (c : Cluster) (t at_ issued slot : Nat) (a : Act),
    (c.agenda.filter (fun d => decide (d.at_ ≤ t) && d.act.phase == 0)) = [⟨at_, issued, slot, a⟩] →
    let c' := c.landAll t
    let rest := c'.ls = c.ls ∧ c'.acc = c.acc ∧ c'.tok = c.tok ∧ c'.eng = c.eng
    (∀ r v, a = .sreg r v →
      (∀ k, k < 32 → c'.r.getS k = if k = r ∧ k ≠ 0 then v else c.r.getS k) ∧ c'.r.v = c.r.v ∧ c'.r.m = c.r.m ∧
        c'.r.vl = c.r.vl ∧ c'.vflags = c.vflags ∧ rest) ∧
    (∀ r m v, a = .vreg r m v →
      (∀ k, k < 32 → c'.r.getV k = if k = r then (c.r.getV k &&& ~~~m) ||| (v &&& m) else c.r.getV k) ∧
        c'.r.s = c.r.s ∧ c'.r.m = c.r.m ∧ c'.r.vl = c.r.vl ∧ c'.vflags = c.vflags ∧ rest) ∧
    (∀ r m v, a = .mreg r m v →
      (∀ k, k < 8 → c'.r.getM k = if k = r then (c.r.getM k &&& ~~~m) ||| (v &&& m) else c.r.getM k) ∧
        c'.r.s = c.r.s ∧ c'.r.v = c.r.v ∧ c'.r.vl = c.r.vl ∧ c'.vflags = c.vflags ∧ rest) ∧
    (∀ n, a = .vl n → c'.r = { c.r with vl := n } ∧ c'.vflags = c.vflags ∧ rest) ∧
    (∀ f, a = .vfl f → c'.r = c.r ∧ c'.vflags = c.vflags ||| f ∧ rest)) ∧
  (∀ (c : Cluster) (t at_ i1 i2 s1 s2 : Nat), at_ ≤ t → 2 ≤ s1 → 2 ≤ s2 → (i1 < i2 ∨ (i1 = i2 ∧ s1 < s2)) →
    (∀ d ∈ c.agenda, d.at_ ≤ t → d.act.phase ≠ 0) →
    let both (a b : Act) (after : Cluster → Prop) : Prop :=
      after (((c.due at_ i1 s1 a).due at_ i2 s2 b).landAll t) ∧ after (((c.due at_ i2 s2 b).due at_ i1 s1 a).landAll t)
    (∀ r m1 m2 v1 v2, r < 32 → both (.vreg r m1 v1) (.vreg r m2 v2) (fun c' =>
      c'.r.getV r = (((c.r.getV r &&& ~~~m1) ||| (v1 &&& m1)) &&& ~~~m2) ||| (v2 &&& m2))) ∧
    (∀ r m1 m2 v1 v2, r < 8 → both (.mreg r m1 v1) (.mreg r m2 v2) (fun c' =>
      c'.r.getM r = (((c.r.getM r &&& ~~~m1) ||| (v1 &&& m1)) &&& ~~~m2) ||| (v2 &&& m2))) ∧
    (∀ f1 f2, both (.vfl f1) (.vfl f2) (fun c' => c'.vflags = c.vflags ||| f1 ||| f2))) ∧
  (∀ (c : Cluster) (k : LsCtx) (t : Nat) (port : Bool) (d : Due),
    k.bad = [] → c.ls.upset = [] → Tab.wf 0 c.ls.bytes = true → Tab.wf 0 c.acc = true →
    let c' := c.access k t port d
    let rd (x : Nat) : Byte := c.ls.raw k.cycle (x % 2 ^ 21)
    (∀ r a, d.act = .sld r a → c' = c.due (d.issued + 6) d.issued d.slot
      (.sreg r (BitVec.ofNat 64 (leNat ((List.range 8).map (fun j => rd (a + j))))))) ∧
    (∀ a n lat es, d.act = .vld a n lat es → c' = c.dues (t + lat) d.issued d.slot (vput 0 (es.map (fun e =>
      (128 * e.reg + e.lo, e.width, if e.width = 4 then bits (rd (a + e.off / 2)).toNat (4 * (e.off % 2)) 4
        else leNat ((List.range (e.width / 8)).map (fun j => rd (a + e.off + j)))))))) ∧
    (∀ vis l, d.act = .lsw vis l → (l.map (fun p => p.1)).Nodup → (∀ p ∈ l, p.1 < 2 ^ 21) →
      c'.r = c.r ∧ c'.acc = c.acc ∧ c'.vflags = c.vflags ∧ c'.agenda = c.agenda ∧
      (∀ p ∈ l, Tab.get 0 c'.ls.bytes p.1 = (Tab.get 0 c.ls.bytes p.1 &&& ~~~p.2.2) ||| (p.2.1 &&& p.2.2) ∧
        c'.ls.raw (max k.cycle vis) p.1 = rd p.1 ∧
        c'.ls.raw (max k.cycle vis + 1) p.1 = Tab.get 0 c'.ls.bytes p.1) ∧
      (∀ x, (∀ p ∈ l, p.1 ≠ x) → Tab.get 0 c'.ls.bytes x = Tab.get 0 c.ls.bytes x)) ∧
    (∀ m word ovw sums f, d.act = .join m word ovw sums f → sums.length * m.entryWords ≤ 65536 →
      c'.ls = c.ls ∧ c'.r = c.r ∧ c'.agenda = c.agenda ∧
      (∀ j, j < sums.length →
        let old : Sum := if ovw then Sum.zero else m.entry (accRead c.acc m (accWord m word j))
        accRead c'.acc m (accWord m word j) =
          m.entryBits (m.join old (sums.getD j Sum.zero)).1 % 2 ^ (64 * m.entryWords)) ∧
      (∀ w, w < 65536 → (∀ j, j < sums.length → ∀ x, x < m.entryWords → (accWord m word j + x) % 65536 ≠ w) →
        Tab.get 0 c'.acc w = Tab.get 0 c.acc w)))

/-- Two results for one sequencer register (R157). When two sequencer results land in the same register in the same
ring cycle, the one issued later is kept, and a vector result is kept before a sequencer result, whichever was
issued first and in whichever order they became due; no other sequencer register changes. -/
def Obligations.LaterResultKept : Prop :=
  ∀ (c : Cluster) (t at_ i1 i2 s1 s2 r : Nat) (v1 v2 : BitVec 64), at_ ≤ t → 0 < r → r < 32 →
    ((s1 = 0 ∧ s2 = 0 ∧ i1 < i2) ∨ (s1 = 0 ∧ 2 ≤ s2)) → (∀ d ∈ c.agenda, d.at_ ≤ t → d.act.phase ≠ 0) →
    let kept (c' : Cluster) : Prop := ∀ k, k < 32 → c'.r.getS k = if k = r then v2 else c.r.getS k
    kept (((c.due at_ i1 s1 (.sreg r v1)).due at_ i2 s2 (.sreg r v2)).landAll t) ∧
    kept (((c.due at_ i2 s2 (.sreg r v2)).due at_ i1 s1 (.sreg r v1)).landAll t)

/-- Sequencer loads, stores and cluster registers (R158, R159, R179, R217). Where the address, bits 20 to 0 of ra
plus the sign-extended immediate, is a multiple of 8 in every cluster, SLD makes its read due one ring cycle
after issue and SST its eight bytes, least significant first, three ring cycles after issue. Where it is not in
some cluster the ring sets SALIGN, that cluster accesses nothing, and the other clusters go on. Wherever its
bundle issues, SRDS makes the value that the cluster register at four times the offset has in the issue cycle
due in rd two ring cycles later, and SWRS makes its write of the low word of ra take effect one ring cycle
later; a write of CL_TRSUB by a logical slot other than 0 is ignored. -/
def Obligations.SequencerLoadsAndStores : Prop :=
  ∀ (i : Issue) (rd ra rb : Fin 32) (imm : BitVec 32) (off : BitVec 12) (s : State),
    let r := ringAt s i 0
    let runs (c : Instr) (q : Ring) : Prop := Issues s i 0 c → exec c s = .next (afterRing s i.ring.val q)
    let addr (c : Cluster) : Nat := (c.r.getS ra.val + imm.signExtend 64).toNat % 2 ^ 21
    let bad (c : Cluster) : Bool := addr c % 8 != 0
    let t := cycleAt s i
    let ld (c : Cluster) : Cluster := if bad c then c else c.due (t + 1) t 0 (.sld rd.val (addr c))
    let st (c : Cluster) : Cluster := if bad c then c else c.due (t + 3) t 0 (.lsw (t + 3) ((List.range 8).map (fun k =>
      (addr c + k, BitVec.ofNat 8 ((c.r.getS rb.val).toNat >>> (8 * k)), (0xFF : Byte)))))
    let flag (q : Ring) : Ring := match r.cl.findIdx? bad with
      | some k => q.ttFault 1 (some k)
      | none => q
    runs (.sld i rd ra imm) (flag (r.each (fun _ c => ld c))) ∧
    runs (.sst i rb ra imm) (flag (r.each (fun _ c => st c))) ∧
    runs (.srds i rd off) (r.each (fun _ c => c.due (t + 2) t 0
      (.sreg rd.val (BitVec.ofNat 64 (c.readReg t r.optph (4 * off.toNat)))))) ∧
    runs (.swrs i ra off) (r.each (fun k c => if off.toNat = 0x340 ∧ k ≠ 0 then c else c.due (t + 1) t 0
      (.swrs (4 * off.toNat) ((c.r.getS ra.val).setWidth 32) r.tt.bidx)))

/-- Branches (R160, R161, R179). Where every cluster of the ring decides alike, a taken branch makes the bundle at
the target of the current leg the next one and a branch not taken changes nothing; BNZD decides on ra minus one,
which is due in ra one ring cycle later. Where the clusters disagree the ring follows logical slot 0 and sets
DIVERGE. -/
def Obligations.Branches : Prop :=
  ∀ (i : Issue) (ra rb : Fin 32) (target : BitVec 13) (s : State),
    let r := ringAt s i 0
    let runs (c : Instr) (q : Ring) : Prop := Issues s i 0 c → exec c s = .next (afterRing s i.ring.val q)
    let t := cycleAt s i
    let go (p : Cluster → Bool) : Ring :=
      let r' : Ring := if p (r.get 0) then
        { r with tt := { r.tt with next := r.tt.bidx / 8192 * 8192 + target.toNat } } else r
      if ∃ c ∈ r.cl, p c ≠ p (r.get 0) then r'.ttFault 2 none else r'
    runs (.br i target) { r with tt := { r.tt with next := r.tt.bidx / 8192 * 8192 + target.toNat } } ∧
    runs (.beq i ra rb target) (go (fun c => decide (c.r.getS ra.val = c.r.getS rb.val))) ∧
    runs (.bne i ra rb target) (go (fun c => decide (c.r.getS ra.val ≠ c.r.getS rb.val))) ∧
    runs (.blt i ra rb target) (go (fun c => (c.r.getS ra.val).slt (c.r.getS rb.val))) ∧
    runs (.bnzd i ra target) ((go (fun c => decide (c.r.getS ra.val - 1 ≠ 0))).each
      (fun _ c => c.due (t + 1) t 0 (.sreg ra.val (c.r.getS ra.val - 1))))

/-- A slot changes its own ring only (R153, R155, R374, R306). A command of a bundle leaves every byte of the decks,
every other ring, every function, session, Narid port, group, edge, deck, the meter, the power state, the lands,
the event log and the outputs as they were; of the partitions only the ring's own can change, and of it only the
optimizer flag, with the deck cycles it keeps at its rise, and the status blocks and token ports of its units;
of the spans only the ring's own, and of it only that partition's work count and the status block. The bulk
weight, the drop counts, the open write requests, the writes and frames that wait and the count of free values
stay. -/
def Obligations.SlotFrame : Prop :=
  ∀ (c : Instr) (i : Issue) (s t : State), slotRing c = some i → exec c s = .next t →
    t.mem = s.mem ∧ t.fns = s.fns ∧ t.il = s.il ∧ t.power = s.power ∧ t.meter = s.meter ∧ t.ports = s.ports ∧
    t.groups = s.groups ∧ t.edges = s.edges ∧ t.sidings = s.sidings ∧ t.host = s.host ∧ t.mirror = s.mirror ∧
    t.tap = s.tap ∧ t.lands = s.lands ∧ t.i3c = s.i3c ∧ t.repair = s.repair ∧ t.srCopy = s.srCopy ∧ t.log = s.log ∧
    t.outbox = s.outbox ∧ t.pending = s.pending ∧ t.evseq = s.evseq ∧ t.free = s.free ∧ t.bulkw = s.bulkw ∧
    t.ctlDrops = s.ctlDrops ∧ t.opens = s.opens ∧ t.stalled = s.stalled ∧ t.colls = s.colls ∧
    (∀ k, k ≠ i.ring.val → t.ring k = s.ring k) ∧ (∀ k, t.deck k = s.deck k) ∧
    (∀ k, s.partOf i.ring.val ≠ some k → t.part k = s.part k) ∧
    (∀ k, ∃ b x u m, t.part k = { s.part k with opt := b, optAt := x, units := u, faces := m }) ∧
    (∀ k, k ≠ i.ring.val / 16 → t.span k = s.span k) ∧
    (∃ w u, t.span (i.ring.val / 16) = { s.span (i.ring.val / 16) with work := w, unit := u } ∧
      ∀ q, s.partOf i.ring.val ≠ some q →
        Tab.get ⟨0, 0⟩ w q = Tab.get ⟨0, 0⟩ (s.span (i.ring.val / 16)).work q)

/-- Vector arithmetic on the FMA pipes (R48, R76, R107, R111, R113, R115, R118, R119, Table 5.6 of
05_vector_engine.md, log entry 77). Wherever its bundle issues, in each cluster whose pipe is free (one whose
pipe is busy sets BUSY and does nothing else): VADD, VSUB, VMUL, VDIV and VSQRT occupy the pipe for their
interval and make due, at their latency, the element-wise results over the first VL elements: floating results
rounded by the mode in force, for the first three also integer results of the exact sum, difference or product;
VFMA forms a·b + c, VFMS a·b − c and VFNMA −(a·b) + c with one rounding, VWMUL exact products at the wider
format, VDOT2.BF and VDOT4 accumulate into the destination's own lanes; each of these occupies the pipe for one
ring cycle and delivers at its latency. That integer sums, differences and products, those of VWMUL too, use no
draw under SR is the model's choice (log entry 77). -/
def Obligations.VectorArithmetic : Prop :=
  ∀ (i : Issue) (p : FmaPipe) (f : VSlot),
    let g := max (max 16 f.sf.width) f.df.width
    let occ (slot t n : Nat) (c : Cluster) : Cluster := { c with vec := c.vec.occupy slot t n }
    let src (c : Cluster) (o : BitVec 6) (k : Nat) : Nat := c.r.src o f.sf.width g k
    let rm (c : Cluster) : Rm := c.rm f.rm f.df.width
    let rounds (c : Cluster) : Rm := match f.sf with
      | .flt _ => rm c
      | .int _ _ => .rne
    let res (a b j n : Nat) (op : Cluster → Nat → Nat → Nat × Fl) : Nat → Cluster → Cluster := fun t c =>
      (occ p.slot t n c).elementwise t p.slot (fmtLat f.sf a b j) f f.df.width (c.count g) (rounds c) (c.active f) (op c)
    let arith (fl : FFmt → Rm → Bool → Nat → Nat → Nat → Nat × Fl) (it : Int → Int → Int) : Cluster → Nat → Nat → Nat × Fl :=
      fun c k d => match f.sf with
        | .flt F => fl F (rm c) (c.sat f) d (src c f.src1 k) (src c f.src2 k)
        | .int w sg => intArith w sg (c.sat f) (it (intVal w sg (src c f.src1 k)) (intVal w sg (src c f.src2 k)))
    PipeDoes (.vadd i p f) i p.slot (res 4 5 3 1 (arith (fun F r s d => addOp F r s d false) (fun x y => x + y))) ∧
    PipeDoes (.vsub i p f) i p.slot (res 4 5 3 1 (arith (fun F r s d => addOp F r s d true) (fun x y => x - y))) ∧
    PipeDoes (.vmul i p f) i p.slot (res 4 5 3 1 (arith mulOp (fun x y => x * y))) ∧
    (∀ F, f.sf = .flt F →
      PipeDoes (.vdiv i p f) i p.slot (res 14 26 14 (if F.width = 64 then 16 else 8) (fun c k d =>
        divOp F (rm c) (c.sat f) d (src c f.src1 k) (src c f.src2 k))) ∧
      PipeDoes (.vsqrt i p f) i p.slot (res 14 26 14 (if F.width = 64 then 16 else 8) (fun c k d =>
        sqrtOp F (rm c) (c.sat f) d (src c f.src1 k)))) ∧
    let out (lat dw g : Nat) (r : Cluster → Rm) (op : Cluster → Nat → Nat → Nat × Fl) : Nat → Cluster → Cluster := fun t c =>
      (occ p.slot t 1 c).elementwise t p.slot lat f dw (c.count g) (r c) (c.active f) (op c)
    let lane (c : Cluster) (o : BitVec 6) (k : Nat) : Nat := c.r.src o 32 32 k
    let bytes (x : Nat) : List Nat := [x % 256, x / 2 ^ 8 % 256, x / 2 ^ 16 % 256, x / 2 ^ 24 % 256]
    (∀ F, f.sf = .flt F →
      let fma (pn cn : Bool) : Nat → Cluster → Cluster :=
        out (if F.width = 64 then 5 else 4) f.df.width g rounds (fun c k d =>
          fmaOp F (rm c) (c.sat f) d pn cn (src c f.src1 k) (src c f.src2 k) (src c f.src3 k))
      PipeDoes (.vfma i p f) i p.slot (fma false false) ∧ PipeDoes (.vfms i p f) i p.slot (fma false true) ∧
      PipeDoes (.vfnma i p f) i p.slot (fma true false)) ∧
    (∀ F D, f.sf = .flt F → f.df = .flt D →
      PipeDoes (.vwmul i p f) i p.slot (out 5 f.df.width g rounds (fun c k d =>
        mulVal D (rm c) (c.sat f) d (F.decode (src c f.src1 k)) (F.decode (src c f.src2 k))))) ∧
    (∀ w v sg sh, f.sf = .int w sg → f.df = .int v sh →
      PipeDoes (.vwmul i p f) i p.slot (out 5 f.df.width g rounds (fun c k _ =>
        intArith v sh false (intVal w sg (src c f.src1 k) * intVal w sg (src c f.src2 k))))) ∧
    PipeDoes (.vdot2Bf i p f) i p.slot (out 5 32 32 (fun c => c.rm f.rm 32) (fun c k _ =>
      dot2bf (c.rm f.rm 32) (c.sat f) (lane c f.src1 k % 2 ^ 16) (lane c f.src2 k % 2 ^ 16)
        (lane c f.src1 k / 2 ^ 16 % 2 ^ 16) (lane c f.src2 k / 2 ^ 16 % 2 ^ 16) (lane c f.dst k))) ∧
    (∀ w sg, f.sf = .int w sg →
      PipeDoes (.vdot4 i p f) i p.slot (out 4 32 32 (fun c => c.rm f.rm 32) (fun c k _ =>
        dot4 sg (f.src3.getLsbD 0) (bytes (lane c f.src1 k)) (bytes (lane c f.src2 k)) (lane c f.dst k))))

/-- Bit operations, shifts, minimum, maximum, selection, conversion and functions (R48, R110, R113, R114, R115,
R117, R120, Table 5.6 of 05_vector_engine.md, log entry 77). Wherever its bundle issues, in each cluster whose
VC pipe is free (one whose pipe is busy sets BUSY and does nothing else), each of these commands occupies it for
one ring cycle and makes its element-wise results due at its latency. Shifts take their count modulo the element
width. VSEL takes SRC1 where the mask register's bit is set and SRC2 elsewhere, and writes every element. Of
these commands only minimum and maximum, on floating elements, and conversion use draws under SR (the model's
choice, log entry 77). -/
def Obligations.VectorLogic : Prop :=
  ∀ (i : Issue) (f : VSlot),
    let g := max (max 16 f.sf.width) f.df.width
    let occ (slot t n : Nat) (c : Cluster) : Cluster := { c with vec := c.vec.occupy slot t n }
    let src (c : Cluster) (o : BitVec 6) (k : Nat) : Nat := c.r.src o f.sf.width g k
    let rm (c : Cluster) : Rm := c.rm f.rm f.df.width
    let rounds (c : Cluster) : Rm := match f.sf with
      | .flt _ => rm c
      | .int _ _ => .rne
    let w := f.sf.width
    let each (lat : Nat) (r : Cluster → Rm) (act : Cluster → Nat → Bool) (op : Cluster → Nat → Nat → Nat × Fl) : Nat → Cluster → Cluster :=
      fun t c => (occ 4 t 1 c).elementwise t 4 lat f f.df.width (c.count g) (r c) (act c) (op c)
    let exact (_ : Cluster) : Rm := .rne
    let bits2 (op : Nat → Nat → Nat) : Nat → Cluster → Cluster :=
      each 1 exact (fun c => c.active f) (fun c k _ => (op (src c f.src1 k) (src c f.src2 k), 0))
    let shift (op : Nat → Nat → Nat) : Nat → Cluster → Cluster :=
      bits2 (fun a b => op a (b % max 1 w) % 2 ^ w)
    let fun1 (op : FFmt → Bool → Nat → Nat × Fl) : Nat → Cluster → Cluster :=
      each 8 exact (fun c => c.active f) (fun c k _ => match f.sf with
        | .flt F => op F (c.sat f) (src c f.src1 k)
        | _ => (0, 0))
    let extreme (wantMax : Bool) : Nat → Cluster → Cluster :=
      each 2 rounds (fun c => c.active f) (fun c k _ => match f.sf with
        | .flt F => minMaxOp F wantMax (src c f.src1 k) (src c f.src2 k)
        | .int w sg =>
          (if decide (intVal w sg (src c f.src1 k) < intVal w sg (src c f.src2 k)) = wantMax then src c f.src2 k
           else src c f.src1 k, 0))
    PipeDoes (.vand i f) i 4 (bits2 (fun a b => a &&& b)) ∧ PipeDoes (.vor i f) i 4 (bits2 (fun a b => a ||| b)) ∧
    PipeDoes (.vxor i f) i 4 (bits2 (fun a b => a ^^^ b)) ∧ PipeDoes (.vnot i f) i 4 (bits2 (fun a _ => 2 ^ w - 1 - a)) ∧
    PipeDoes (.vshl i f) i 4 (shift (fun a n => a <<< n)) ∧ PipeDoes (.vshr i f) i 4 (shift (fun a n => a >>> n)) ∧
    PipeDoes (.vsra i f) i 4 (shift (fun a n => wrapInt w (floorShift (sextInt w a) (-(n : Int))))) ∧
    PipeDoes (.vmin i f) i 4 (extreme false) ∧ PipeDoes (.vmax i f) i 4 (extreme true) ∧
    PipeDoes (.vsel i f) i 4 (each 1 exact (fun _ _ => true) (fun c k _ =>
      (src c (if (c.r.getM f.msk.toNat).getLsbD k then f.src1 else f.src2) k, 0))) ∧
    PipeDoes (.vcvt i f) i 4 (each 3 rm (fun c => c.active f) (fun c k d =>
      convert f.sf f.df (rm c) (c.sat f) d (src c f.src1 k))) ∧
    PipeDoes (.vexp2 i f) i 4 (fun1 exp2Op) ∧ PipeDoes (.vrcp i f) i 4 (fun1 rcpOp)

/-- Mask logic, mask counts and moves to a sequencer register (R113, R121, Table 5.6 of 05_vector_engine.md).
Wherever its bundle issues, in each cluster whose VC pipe is free (one whose pipe is busy sets BUSY and does
nothing else): MAND, MOR, MXOR and MNOT make all 16 bits of the destination mask due one ring cycle later. Where
there is at least one element, MPOP makes due in two ring cycles the number of set bits of the mask below the
element count and VMVSX, where element 0 is active, that element, sign-extended for signed integers and
zero-extended otherwise; where the element count is 0, or VMVSX finds element 0 inactive (the model's reading,
log entry 76), the cluster only gives its pipe to the command. Each cluster decides for itself. -/
def Obligations.VectorMasksAndMoves : Prop :=
  ∀ (i : Issue) (f : VSlot),
    let m (c : Cluster) (o : BitVec 6) : BitVec 16 := c.r.getM (o.toNat % 8)
    let occ (t : Nat) (c : Cluster) : Cluster := { c with vec := c.vec.occupy 4 t 1 }
    let gives (a : Cluster → Act) (lat t : Nat) (c : Cluster) : Cluster := (occ t c).due (t + lat) t 4 (a c)
    let mask (op : BitVec 16 → BitVec 16 → BitVec 16) : Nat → Cluster → Cluster :=
      gives (fun c => .mreg (f.dst.toNat % 8) 0xFFFF (op (m c f.src1) (m c f.src2))) 1
    let sreg (v : Cluster → Nat) : Nat → Cluster → Cluster :=
      gives (fun c => .sreg (f.dst.toNat % 32) (BitVec.ofNat 64 (v c))) 2
    let n (c : Cluster) : Nat := c.count (max 16 f.sf.width)
    PipeDoes (.mand i f) i 4 (mask (fun a b => a &&& b)) ∧ PipeDoes (.mor i f) i 4 (mask (fun a b => a ||| b)) ∧
    PipeDoes (.mxor i f) i 4 (mask (fun a b => a ^^^ b)) ∧ PipeDoes (.mnot i f) i 4 (mask (fun a _ => ~~~a)) ∧
    PipeDoes (.mpop i f) i 4 (fun t c => if n c = 0 then occ t c
      else sreg (fun c => ((List.range (n c)).filter (fun k => (m c f.src1).getLsbD k)).length) t c) ∧
    PipeDoes (.vmvsx i f) i 4 (fun t c => if n c = 0 ∨ c.active f 0 = false then occ t c
      else sreg (fun c =>
        let x := c.r.src f.src1 f.sf.width (max 16 f.sf.width) 0
        match f.sf with
        | .int w true => wrapInt 64 (sextInt w x)
        | _ => x) t c)

/-- Comparisons, block conversions, sums and accumulator reads (R41, R48, R49, R55, R56, R105, R110, R113, R116,
R120, R125, log entry 77). Wherever its bundle issues, in each cluster whose VC pipe is free (one whose pipe is
busy sets BUSY and does nothing else): VCMP makes due in its mask register, for the active elements alone,
whether the condition holds; VQBLK quantises 32 elements, of a register pair or a broadcast, with one scale,
VDQBLK expands them (under SR with 32 draws, the model's choice, log entry 77), VRSUM adds the active elements
by the pairwise tree, one that is alone passing unchanged but for a NaN, which is delivered canonical with its
flags; each with its flags. VACC.RD sets OPERAND and reads nothing where its descriptor names a reserved mode, a
BOUT of 0xFF, an output that the mode does not permit, or a pair with a rounding mode or with a tail beyond v31
(with no element too, the model's choice, log entry 77); with no element it reads nothing; else it makes its
accumulator read due in the next ring cycle. -/
def Obligations.VectorReductions : Prop :=
  ∀ (i : Issue) (f : VSlot),
    let runs (c : Instr) (q : Nat → Cluster → Cluster) : Prop := PipeDoes c i 4 q
    let occ (t n : Nat) (c : Cluster) : Cluster := { c with vec := c.vec.occupy 4 t n }
    let w := f.sf.width
    let g := max 16 w
    (runs (.vcmp i f) (fun t c0 =>
      let c := occ t 1 c0
      let n := c.count g
      let d := c.draws (match f.sf with
        | .flt _ => c.rm f.rm f.df.width
        | .int _ _ => .rne) n
      let one (k : Nat) : Bool × Fl := match f.sf with
        | .flt F => cmpOp F (f.src3.toNat % 8) (c.r.src f.src1 w g k) (c.r.src f.src2 w g k)
        | .int w sg =>
          let x := intVal w sg (c.r.src f.src1 w g k)
          let y := intVal w sg (c.r.src f.src2 w g k)
          (cmpHolds (f.src3.toNat % 8) (if x < y then -1 else if y < x then 1 else 0) false, 0)
      let act := (List.range n).filter (c.active f)
      d.2.deliver t 4 2
        (if act.isEmpty then [] else [.mreg (f.dst.toNat % 8)
          (BitVec.ofNat 16 (act.foldl (fun m k => m ||| 2 ^ k) 0))
          (BitVec.ofNat 16 (act.foldl (fun m k => m ||| (if (one k).1 then 2 ^ k else 0)) 0))])
        (act.foldl (fun a k => a ||| (one k).2) 0))) ∧
    (∀ F, f.sf = .flt F →
      runs (.vqblk i f) (fun t c0 =>
        let c := occ t (F.width / 8) c0
        let el := Elt.ofCode f.dfmt.toNat
        let d := c.draws ((rmOf f.rm.toNat c.dynRm).forWidth 8) 32
        let codes := (List.range 32).map (fun k =>
          if 32 ≤ f.src1.toNat then c.r.src f.src1 F.width F.width k
          else bits (c.r.pair (f.src1.toNat + 2 * (k / (256 / F.width)))) (k % (256 / F.width) * F.width) F.width)
        let q := quantBlock F el ((rmOf f.rm.toNat c.dynRm).forWidth 8) (c.sat f) d.1 codes
        d.2.deliver t 4 (F.width / 8 + 4)
          (vput (f.dst.toNat % 32) (((List.range 32).zip q.1).map (fun p => (p.1 * el.width, el.width, p.2))) ++
            [.sreg (f.src2.toNat % 32) (BitVec.ofNat 64 q.2.1)]) q.2.2) ∧
      runs (.vrsum i f) (fun t c0 =>
        let c := occ t 1 c0
        let n := c.count (max 16 F.width)
        let d := c.draws (c.rm f.rm F.width) n
        let leaves := (List.range (256 / max 16 F.width)).map (fun k =>
          if decide (k < n) && c.active f k then some (c.r.src f.src1 F.width (max 16 F.width) k) else none)
        let x : Option Nat × Fl := match leaves.filterMap id with
          | [v] => (match F.decode v with
            | .nan _ =>
              let y := convert (.flt F) (.flt F) (c.rm f.rm F.width) (c.sat f) 0 v
              (some y.1, y.2)
            | _ => (some v, 0))
          | _ => sumTree (fun k a b => addOp F (c.rm f.rm F.width) (c.sat f) (d.1.getD k 0) false a b) 5 1 leaves
        match x.1 with
        | none => d.2
        | some v => d.2.deliver t 4 (if F.width = 64 then 8 else 6) (vput (f.dst.toNat % 32) [(0, F.width, v)]) x.2)) ∧
    (∀ F, f.df = .flt F → runs (.vdqblk i f) (fun t c0 =>
      let c := occ t (F.width / 8) c0
      let el := Elt.ofCode f.sfmt.toNat
      let d := c.draws (c.rm f.rm F.width) 32
      let x (k : Nat) : Nat := c.r.src f.src1 el.width (if el.width = 8 then 8 else 16) k
      let res := (List.range 32).map (fun k => convVal (.flt F) (c.rm f.rm F.width) (c.sat f) (d.1.getD k 0)
        (el.decode (x k) (bits (c.r.getS (f.src2.toNat % 32)).toNat 0 8)))
      d.2.deliver t 4 (F.width / 8 + 3)
        (vput (f.dst.toNat % 32) (((List.range 32).zip res).map (fun p => (p.1 * F.width, F.width, p.2.1))))
        (res.foldl (fun a p => a ||| p.2) 0))) ∧
    runs (.vaccRd i f) (fun t c0 =>
      let c := occ t 1 c0
      let desc := (c.r.getS (f.src1.toNat % 32)).toNat
      let pair := bit desc 28
      let dst := f.dst.toNat % 32
      match Mode.ofCode (bits desc 16 4) with
      | none => c.vfault 4 2
      | some m =>
        if bits desc 20 8 = 0xFF ∨ readPermitted m f.dfmt.toNat pair = false ∨ (pair = true ∧ (f.rm ≠ 0 ∨ 28 < dst)) then
          c.vfault 4 2
        else
          let n := c.count (max 16 f.df.width)
          let d := c.draws (c.rm f.rm f.df.width) n
          if n = 0 then d.2
          else d.2.due (t + 1) t 4 (.vacc ⟨m, bits desc 0 16, bit desc 29, (List.range n).filter (c.active f), f.df,
            c.rm f.rm f.df.width, c.sat f, pair, bits desc 20 8, d.1⟩ dst (if pair then 4 else 3)))

/-- Vector loads and stores (R105, R109, R113, R122, R123, Table 5.6 of 05_vector_engine.md, log entry 77). Wherever
its bundle issues, in each cluster for itself: where the LS pipe is busy BUSY is set and nothing accessed; else,
where the address, bits 20 to 0 of the sum of the two sequencer registers, is no multiple of the element size,
ALIGN is set and nothing accessed, the pipe left free; else VLDn and VSTn of n-field records occupy the pipe for
n ring cycles, and in ring cycle j of them the part of the record bytes in chunk j of 32 bytes is read, or
written three ring cycles after its turn and seen after the last of them (which bytes go in which ring cycle,
and that ALIGN is set with no element too, is the model's choice, log entry 77), for the active elements alone;
a store's source may be a broadcast (the model's reading, log entry 77). -/
def Obligations.VectorLoadsAndStores : Prop :=
  ∀ (i : Issue) (f : VSlot),
    let w := f.sf.width
    let g := max 16 w
    let addr (c : Cluster) : Nat := ((c.r.getS (f.src1.toNat % 32)) + (c.r.getS (f.src2.toNat % 32))).toNat % 2 ^ 21
    let occ (t n : Nat) (c : Cluster) : Cluster := { c with vec := c.vec.occupy 5 t n }
    let ld (n lat t : Nat) (c : Cluster) : Cluster := (List.range n).foldl (fun c' j =>
      let at_ (e : LdElt) : Nat := if w = 4 then e.off / 2 else e.off
      let part := (c.ldElts f n).filter (fun e => at_ e / 32 == j)
      let hi := part.foldl (fun m e => max m (at_ e + max 1 (w / 8))) (32 * j)
      let lo := part.foldl (fun m e => min m (at_ e)) hi
      if part.isEmpty then c'
      else c'.due (t + 1 + j) t 5 (.vld (addr c + lo) (hi - lo) (lat - 1 - j)
        (part.map (fun e => { e with off := if w = 4 then e.off - 2 * lo else e.off - lo })))) (occ t n c)
    let st (n t : Nat) (c : Cluster) : Cluster := (List.range n).foldl (fun c' j =>
      let elts := ((List.range (c.count g)).filter (c.active f)).flatMap (fun k => (List.range n).map (fun x =>
        (k * n + x, if 32 ≤ f.src3.toNat then c.r.src f.src3 w g k
          else if w = g then bits (c.r.pair (f.src3.toNat % 32 + 2 * x)) (k * w) w
          else bits (c.r.getV (f.src3.toNat % 32 + 2 * x)).toNat (k * w) w)))
      let part := packElems (addr c) w (elts.filter (fun e => (if w = 4 then e.1 / 2 else e.1 * (w / 8)) / 32 == j))
      if part.isEmpty then c' else c'.due (t + 3 + j) t 5 (.lsw (t + 2 + n) part)) (occ t n c)
    let runs (c : Instr) (q : Nat → Cluster → Cluster) : Prop := PipeDoes c i 5 (fun t c =>
      if addr c % max 1 (w / 8) = 0 then q t c else c.vfault 1 3)
    runs (.vld i f) (ld 1 6) ∧ runs (.vld2 i f) (ld 2 7) ∧ runs (.vld3 i f) (ld 3 8) ∧ runs (.vld4 i f) (ld 4 9) ∧
    runs (.vst i f) (st 1) ∧ runs (.vst2 i f) (st 2) ∧ runs (.vst3 i f) (st 3) ∧ runs (.vst4 i f) (st 4)

/-- The matrix slot outside a batch window (R81, R82, R83, R86, R88, R89, R90, Table 4.8 of 04_matrix_array.md).
Wherever its bundle issues and no batch window is open: MSTART starts or resumes the ramp of an array that is
OFF or RAMPDN, MSTOP that of one ON or RAMPUP; MLDW begins a load where none is in progress, its descriptor read
in the same ring cycle; MSWAP exchanges the banks where the shadow bank is valid and not loading; MMUL of an
array that is ON with a valid front bank and an aligned pointer reads its activations in the next ring cycle;
MWR with a free path and an aligned destination reads its entries in the next ring cycle and occupies the path.
In the other cases each sets ORDER or ALIGN and does nothing else. -/
def Obligations.MatrixCommands : Prop :=
  ∀ (i : Issue) (f : MmulF) (w : MwrF) (sd : Fin 32) (m : Mode),
    let free (p : Cluster → Prop) : Nat → Cluster → Prop := fun _ c => c.bat.open_ = false ∧ p c
    let order : Nat → Cluster → Cluster := fun _ c => c.mfault 1
    let mx (g : Nat → Matrix → Matrix) : Nat → Cluster → Cluster := fun t c => { c with mx := g t c.mx }
    ClusterDoes (.mstart i) i slotCompute (free (fun c => c.mx.st = .off))
      (mx (fun t x => { x with st := .rampup, step := 1, rampNext := t + 8 })) ∧
    ClusterDoes (.mstart i) i slotCompute (free (fun c => c.mx.st = .rampdn)) (mx (fun t x => { x with st := .rampup, rampNext := t + 8 })) ∧
    ClusterDoes (.mstart i) i slotCompute (free (fun c => c.mx.st = .on ∨ c.mx.st = .rampup)) order ∧
    ClusterDoes (.mstop i) i slotCompute (free (fun c => c.mx.st = .on))
      (mx (fun t x => { x with st := .rampdn, step := 6, rampNext := t + 8 })) ∧
    ClusterDoes (.mstop i) i slotCompute (free (fun c => c.mx.st = .rampup)) (mx (fun t x => { x with st := .rampdn, rampNext := t + 8 })) ∧
    ClusterDoes (.mstop i) i slotCompute (free (fun c => c.mx.st = .off ∨ c.mx.st = .rampdn)) order ∧
    ClusterDoes (.mldw i sd) i slotLoad (free (fun c => c.mx.loading = false)) (fun t c =>
      ({ c with mx := { c.mx with loading := true } } : Cluster).due t t 1
        (.tile ((c.r.getS sd.val).toNat % 2 ^ 21 / 32 * 32))) ∧
    ClusterDoes (.mldw i sd) i slotLoad (free (fun c => c.mx.loading = true)) order ∧
    ClusterDoes (.mswap i) i slotSwap (free (fun c => c.mx.shadow.valid = true ∧ c.mx.loading = false))
      (mx (fun _ x => { x with front := x.shadow, shadow := x.front })) ∧
    ClusterDoes (.mswap i) i slotSwap (free (fun c => c.mx.shadow.valid = false ∨ c.mx.loading = true)) order ∧
    ClusterDoes (.mmul i f) i slotCompute (free (fun c => c.mx.st = .on ∧ c.mx.front.valid = true ∧
        (c.r.getS f.sa.val).toNat % 2 ^ 21 % max 1 (c.mx.front.mode.ewidth / 8) = 0)) (fun t c =>
      ({ c with mx := { c.mx with busy := c.mx.busy + 1 } } : Cluster).due (t + 1) t 1
        (.mread c.mx.front f.sgna f.ovw (c.r.getS f.sa.val)
          ((f.accw.toNat + (c.r.getS f.sc.val).toNat % 2 ^ 16) % 65536) (c.mx.front.mode.joinLat - 1))) ∧
    ClusterDoes (.mmul i f) i slotCompute (free (fun c => c.mx.st ≠ .on ∨ c.mx.front.valid = false)) order ∧
    ClusterDoes (.mmul i f) i slotCompute (free (fun c => c.mx.st = .on ∧ c.mx.front.valid = true ∧
        (c.r.getS f.sa.val).toNat % 2 ^ 21 % max 1 (c.mx.front.mode.ewidth / 8) ≠ 0)) (fun _ c => c.mfault 2) ∧
    (Mode.ofCode w.mode.toNat = some m →
      let d := Fmt.ofCode w.ofmt.toNat
      let ptr (c : Cluster) : Nat := (c.r.getS w.sw.val).toNat
      let ro (c : Cluster) (draws : List Nat) : ReadOut := ⟨m, bits (ptr c) 42 16, w.clr, List.range (m.outs c.c77), d,
        c.rm w.rm d.width, w.satb || c.satm, w.pair, w.bout.toNat, draws⟩
      let aligned (c : Cluster) : Prop := ptr c % 2 ^ 21 % max 1 (d.width / 8) = 0
      ClusterDoes (.mwr i w) i slotOut (fun t c => c.bat.open_ = false ∧ c.mx.outUntil ≤ t + 4 ∧ aligned c) (fun t c =>
        let dr := c.draws (c.rm w.rm d.width) (m.outs c.c77)
        ({ dr.2 with mx := { dr.2.mx with outUntil := t + 4 + (mwrLen (ro c []) + 511) / 512 } } : Cluster).due
          (t + 1) t 1 (.mwr (ro c dr.1) (ptr c % 2 ^ 21) (bits (ptr c) 21 21))) ∧
      ClusterDoes (.mwr i w) i slotOut (fun t c => c.bat.open_ = false ∧ t + 4 < c.mx.outUntil) order ∧
      ClusterDoes (.mwr i w) i slotOut (fun t c => c.bat.open_ = false ∧ c.mx.outUntil ≤ t + 4 ∧ ¬ aligned c)
        (fun _ c => c.mfault 2))

/-- The matrix slot inside a batch window, and MBR (R92, R93, R94, R100). Where a batch window is open in every
cluster, each matrix command of a bundle sets BATCH and does nothing else. Triggers of its ring cycle done, MBR
sets BATCH where the queue is empty and the batcher is not enabled; else it appends its row request, the first
one with the settings of that ring cycle and the limit's expiry due LIMIT ring cycles later. One that carries
the flush bit or fills the queue triggers the batch in the next ring cycle (the model's reading, log entry 78). -/
def Obligations.BatchWindow : Prop :=
  ∀ (i : Issue) (f : MmulF) (w : MwrF) (sd ra rb : Fin 32) (flush : Bool),
    let inside : Nat → Cluster → Prop := fun _ c => c.bat.open_ = true
    let batch : Nat → Cluster → Cluster := fun _ c => c.mfault 8
    let req (t : Nat) (c : Cluster) : RowReq := ⟨c.r.getS ra.val, (c.r.getS rb.val).toNat % 2 ^ 16, t⟩
    let next (t : Nat) (c : Cluster) : Cluster :=
      if flush || decide (c.batchCap ≤ c.bat.queue.length) then c.due (t + 1) t 1 .bTrigger else c
    let mbr (ok : Batcher → Prop) (g : Nat → Cluster → Cluster) : Prop :=
      ClusterDoes (.mbr i ra rb flush) i 0 (fun t c => ok (c.fireBatches t).bat) (fun t c => g t (c.fireBatches t))
    ClusterDoes (.mstart i) i slotCompute inside batch ∧ ClusterDoes (.mstop i) i slotCompute inside batch ∧
    ClusterDoes (.mldw i sd) i slotLoad inside batch ∧ ClusterDoes (.mswap i) i slotSwap inside batch ∧
    ClusterDoes (.mmul i f) i slotCompute inside batch ∧ ClusterDoes (.mwr i w) i slotOut inside batch ∧
    mbr (fun b => b.queue = [] ∧ b.en = false) (fun _ c => c.mfault 8) ∧
    mbr (fun b => b.queue ≠ []) (fun t c => next t { c with bat := { c.bat with queue := c.bat.queue ++ [req t c] } }) ∧
    mbr (fun b => b.queue = [] ∧ b.en = true) (fun t c =>
      next t (({ c with bat := { c.bat with queue := [req t c], first := t, qtoken := c.bat.token, qlimit := c.bat.limit
                                            qdesc := c.bat.desc } } : Cluster).due (t + c.bat.limit) t 1 (.bLimit t)))

/-- Ramps and their reversal (R89). Where the bundle issues and no batch window is open, MSTART in RAMPDN with k
steps clocked and MSTOP in RAMPUP with k steps reverse the ramp: STATE is new in that ring cycle t, STEP still
reads k, one step more (or less) is clocked from t + 8 on and one every 8 ring cycles after that, until the
array is ON with all seven from t + 8 × (7 − k) on, or OFF with none from t + 8 × k on. MSTART from OFF makes
its first step in its own ring cycle and is ON from t + 48 on; MSTOP from ON goes to six steps at once and is
OFF from t + 48 on. No datum, temperature or cap has a part in it. -/
def Obligations.RampTiming : Prop :=
  let up (t : Nat) (x : Matrix) : Matrix := { x with st := .rampup, rampNext := t + 8 }
  let down (t : Nat) (x : Matrix) : Matrix := { x with st := .rampdn, rampNext := t + 8 }
  let ramps (i : Issue) (c : Instr) (st : ArrSt) (g : Nat → Matrix → Matrix) : Prop :=
    ClusterDoes c i slotCompute (fun _ x => x.bat.open_ = false ∧ x.mx.st = st) (fun t x => { x with mx := g t x.mx })
  (∀ i : Issue, ramps i (.mstart i) .rampdn up ∧ ramps i (.mstop i) .rampup down ∧
    ramps i (.mstart i) .off (fun t x => { up t x with step := 1 }) ∧
    ramps i (.mstop i) .on (fun t x => { down t x with step := 6 })) ∧
  (∀ (x : Matrix) (t : Nat), 1 ≤ x.step → x.step ≤ 6 →
    (∀ n j, n < 7 - x.step → j < 8 →
      (up t x).ramp (t + 8 * n + j) = { up t x with step := x.step + n, rampNext := t + 8 * (n + 1) }) ∧
    (∀ u, t + 8 * (7 - x.step) ≤ u → ((up t x).ramp u).st = .on ∧ ((up t x).ramp u).step = 7) ∧
    (∀ n j, n < x.step → j < 8 →
      (down t x).ramp (t + 8 * n + j) = { down t x with step := x.step - n, rampNext := t + 8 * (n + 1) }) ∧
    (∀ u, t + 8 * x.step ≤ u → ((down t x).ramp u).st = .off ∧ ((down t x).ramp u).step = 0)) ∧
  (∀ (c : Cluster) (t u : Nat) (o : Bool), c.mx.step < 8 →
    (({ c with mx := up t c.mx } : Cluster).readReg u o 0x500) % 32 = 1 + 4 * c.mx.step ∧
    (({ c with mx := down t c.mx } : Cluster).readReg u o 0x500) % 32 = 3 + 4 * c.mx.step)

/-- Events of a ring cycle (R84, R89, R92, R93, R95, R111, R155). In a ring that is awake: the vector write-back and
the ramp step bring the ring to the start of their ring cycle, after which no result due by then waits in any
cluster; the accumulator join, the end of a weight load, the batch limit and the batch completion bring it to
the end of theirs, all accesses, joins and posts of the cycle made, once: a ring cycle that has been ended is
left as it is. A column check mismatch of a column that the array clocks and that no bypass removes sets COLCHK,
records the column if it is the first, and raises a hardware cause. (That such a command brings its ring to the
start or the end of its ring cycle is the model's choice, log entries 9 and 78.) -/
def Obligations.RingCycleEvents : Prop :=
  ∀ (i : Issue) (cl : Fin 4096) (col : Fin 84) (s : State),
    let k := i.ring.val
    let r := (s.ring k).settle k (cycleAt s i)
    ((s.ring k).awake = true →
      (∃ t, exec (.vectorResultWrite i) s = .next t ∧ exec (.rampStep i) s = .next t ∧ t = afterRing s k r ∧
        ∀ c ∈ r.cl, ∀ d ∈ c.agenda, d.at_ ≤ cycleAt s i → d.act.phase ≠ 0) ∧
      (let u := cycleAt s i
       let t := afterRing s k (if u < r.ended then r else { r.cycle k u with ended := u + 1 })
       exec (.accumulatorJoin i) s = .next t ∧ exec (.mldwComplete i) s = .next t ∧
       exec (.batchLimitExpiry i) s = .next t ∧ exec (.batchComplete i) s = .next t)) ∧
    (let n := cl.val / 16
     let q := (s.ring n).settle n (max i.cycle (s.ring n).now)
     let c := q.get (cl.val % 16)
     (s.ring n).awake = true → col.val < 12 * c.mx.step → c.mx.bypass ≠ some (col.val / 7) →
       (c.mx.narrow = true → col.val < 77) →
       exec (.columnCheckMismatch cl i.cycle col) s = .next (afterRing s n (q.put (cl.val % 16)
         { c with
           mx := { c.mx with fault := c.mx.fault ||| 4, col := if c.mx.fault &&& 4 = 0 then col.val else c.mx.col }
           flt := c.flt ++ [.colchk col.val]
           fresh := true })))

/-- Coasts and token posts (R163, R165, R194, R198). Wherever its bundle issues, COAST makes the next bundle issue
COUNT ring cycles later, and a post at cluster scope waits in each cluster and one above it once for the ring,
behind the writes it covers. The end of a coast brings an awake coasting ring to the ring cycle of its next
bundle, issuing. A post at span or device scope whose writes have landed adds its count to the partition's
counter, and the ring notes it as one its holds see from the next ring cycle on. -/
def Obligations.CoastsAndPosts : Prop :=
  ∀ (i : Issue) (count : BitVec 24) (scope : Scope) (name : Byte) (n : BitVec 16) (s : State),
    let k := i.ring.val
    let r := ringAt s i slotWhole
    let q := ringAt s i 7
    (Issues s i slotWhole (.coast i count) →
      exec (.coast i count) s = .next (afterRing s k { r with tt := { r.tt with
        run := .coasting, coastEnd := cycleAt s i + count.toNat, nextCycle := cycleAt s i + count.toNat } })) ∧
    SlotDoes (.tpost i .cluster name n) i 7 (fun t c => c.due t t 7 (.post name.toNat n.toNat)) ∧
    (scope ≠ .cluster → Issues s i 7 (.tpost i scope name n) → exec (.tpost i scope name n) s = .next (afterRing s k
      { q with posts := q.posts ++ [⟨scope, name.toNat, n.toNat, cycleAt s i, 5, 0, true⟩] })) ∧
    ((s.ring k).awake = true → (s.ring k).tt.run = .coasting →
      ∃ t, exec (.coastEnd i) s = .next t ∧ (t.ring k).tt.run = .issuing ∧
        (t.ring k).now = max (max i.cycle (s.ring k).tt.coastEnd) (s.ring k).now) ∧
    (∀ p q part, (s.ring k).awake = true →
      let s1 := afterRing s k ((s.ring k).settle k (cycleAt s i))
      (s1.ring k).takePost = some (p, q) → s1.partOf k = some part → (p.scope = .span ∨ p.scope = .device) →
      (s1.part part).counter (k / 16) p.scope p.name + p.count < 2 ^ 32 →
      ∃ t, exec (.tokenPostApplied i) s = .next t ∧ t.ring k = q.lateAdd p.scope p.name p.count ∧
        t.part part = (s1.part part).setCounter (k / 16) p.scope p.name
          ((s1.part part).counter (k / 16) p.scope p.name + p.count))

/-- Hold bundles (R168, R169, R170, R173, R234). Wherever its bundle issues and no report has reached the ring,
TWAIT, SWAIT, LEG and END stop the ring at a hold with their condition from that ring cycle on; LEG also stages
its leg where it is neither held nor being staged, and END tells arrays that are ON or RAMPUP to stop. A ring
that has received a report halts there instead, and its Trestle engine stops. -/
def Obligations.HoldsReached : Prop :=
  ∀ (i : Issue) (scope : Scope) (name : Byte) (count : BitVec 16) (mask : BitVec 4) (target : BitVec 24) (s : State),
    let r := ringAt s i slotWhole
    let runs (c : Instr) (q : Ring) : Prop := Issues s i slotWhole c → exec c s = .next (afterRing s i.ring.val q)
    let at_ (h : HoldKind) : Ring := { r with tt := { r.tt with hold := some ⟨h, cycleAt s i, false⟩, run := .hold } }
    let halted : Ring := { r with tt := { r.tt with hold := none, run := .halted }, tr := { r.tr with run := none, queue := [] } }
    let stops (q : Ring) : Ring := q.each (fun _ c =>
      if c.mx.st = .on ∨ c.mx.st = .rampup then c.mstop (cycleAt s i) else c)
    let stages (q : Ring) : Ring := { q with tt := q.tt.stage (target.toNat / 8192) }
    (r.tt.report = false →
      runs (.twait i scope name count) (at_ (.twait scope name.toNat count.toNat)) ∧
      runs (.swait i mask) (at_ (.swait mask)) ∧
      runs (.leg i target) (stages (at_ (.leg target.toNat))) ∧ runs (.endHold i) (stops (at_ .fin))) ∧
    (r.tt.report = true →
      runs (.twait i scope name count) halted ∧ runs (.swait i mask) halted ∧
      runs (.leg i target) (stages halted) ∧ runs (.endHold i) (stops halted))

/-- A hold is released, and a hold runs out of time (R168, R169, R170, R172, R195, Table 7.7 of 07_timetables.md,
log entry 9, log entry 85). The release brings an awake ring to the first ring cycle, up to the one named, at
whose start its hold is released; there, the condition holding, not run out of its limit with no report, that
ring cycle not yet ended (the model's choice, log entry 9) and the counter of a TWAIT not having served another
ring in it, the release ends the hold: TWAIT takes its count from the counter, LEG makes its target the next
bundle, END halts the ring as ended, and every other hold lets the next bundle issue in the following ring
cycle. A span or device counter that has served the ring serves no other ring of the partition, on the span or
on the device, in the ring cycle that one is in; of the other rings nothing else changes. A hold whose condition
has not come in any ring cycle up to the last one of the limit, whatever ring cycle the command names, sets
HOLDTIME, whether or not the flag is still set from an earlier one, and is released no more; where it has come,
the ring is brought to it and HOLDTIME is not set. -/
def Obligations.HoldRelease : Prop :=
  ∀ (i : Issue) (s : State) (h : Hold), (s.ring i.ring.val).awake = true →
    let k := i.ring.val
    let s1 := State.seekFree k i.cycle (i.cycle + 1) (settled s k 0)
    let r := s1.ring k
    (r.awake = true → r.tt.hold = some h → r.tt.run = .hold → r.tt.report = false → h.expired = false → h.since ≤ r.now →
      r.now < h.since + r.tt.limit → r.ended ≤ r.now →
      (∀ sc name n, h.kind = .twait sc name n → r.gone.1 = r.now → (sc, name) ∉ r.gone.2) →
      r.condition r.now (s1.sharedOf k) h.kind = true →
      ∃ t, exec (.holdRelease i) s = .next t ∧ (t.ring k).tt.hold = none ∧
        (h.kind = .fin → (t.ring k).tt.run = .halted ∧ (t.ring k).tt.ended = true) ∧
        (h.kind ≠ .fin → (t.ring k).tt.run = .issuing ∧ (t.ring k).tt.nextCycle = r.now + 1) ∧
        (∀ target, h.kind = .leg target → (t.ring k).tt.next = target) ∧
        (∀ name n, h.kind = .twait .ring name n →
          (t.ring k).tok = Tab.set 0 r.tok name (Tab.get 0 r.tok name - n)) ∧
        (∀ name n, h.kind = .twait .cluster name n →
          (t.ring k).cl = r.cl.map (fun c => { c with tok := Tab.set 0 c.tok name (Tab.get 0 c.tok name - n) })) ∧
        (∀ name n part, h.kind = .twait .span name n → s1.partOf k = some part →
          t.part part = (s1.part part).setCounter (k / 16) .span name ((s1.part part).counter (k / 16) .span name - n)) ∧
        (∀ name n part, h.kind = .twait .device name n → s1.partOf k = some part →
          t.part part = (s1.part part).setCounter (k / 16) .device name ((s1.part part).counter (k / 16) .device name - n)) ∧
        (∀ sc name n part, h.kind = .twait sc name n → (sc = .span ∨ sc = .device) → s1.partOf k = some part →
          ∀ j ∈ (s1.part part).rings, j ≠ k → (sc = .device ∨ j / 16 = k / 16) →
            ∀ m, (t.ring j).mayTest (.twait sc name m) = false) ∧
        t.mem = s.mem ∧ t.fns = s.fns ∧ (∀ j, j ≠ k → ∃ g, t.ring j = { s.ring j with gone := g })) ∧
    ((s.ring k).tt.hold = some h →
      let last := h.since + (s.ring k).tt.limit - 1
      let s2 := State.seekFree k last (last + 1) (settled s k 0)
      let q := s2.ring k
      (s2.frees k = true → exec (.holdLimitExpiry i) s = .next s2) ∧
      (q.awake = true → q.tt.run = .hold → q.tt.report = false → h.expired = false → s2.frees k = false →
        ∃ t, exec (.holdLimitExpiry i) s = .next t ∧ (t.ring k).tt.fault &&& 4 = 4 ∧
          (t.ring k).tt.hold = some { h with expired := true } ∧ t.mem = s.mem ∧ t.fns = s.fns))

/-- STGO, STREL and STHALT (R181, R185, R186, R187, R189). Wherever its bundle issues: STGO starts a stopped engine
at the first instruction of its program slot, which executes in the next ring cycle, with the parameter sr, its
address registers zero and its halves in the initial state of the program's direction; STREL hands back the half
the timetable owns, a full one inbound, an owned one outbound, to be touched from the next ring cycle on, and
turns to the other; STHALT stops a running engine in the next ring cycle. STGO of an engine that is not stopped
and STREL of one with no such half set ORDER with the engine as source; STHALT of a stopped engine does nothing. -/
def Obligations.StreamSlots : Prop :=
  ∀ (i : Issue) (eng : Fin 4) (pslot sr : Fin 32),
    let st (c : Cluster) : EngSt := (c.engine eng.val).st
    let order : Nat → Cluster → Cluster := fun _ c => c.sfault 8 eng.val none
    let ownHalf (c : Cluster) (h : HalfSt) : Prop := (c.engine eng.val).halfSt (c.engine eng.val).owed = h
    let give (h : HalfSt) : Nat → Cluster → Cluster := fun t c =>
      let e := c.engine eng.val
      let e' : StreamEng := if e.owed then { e with h1 := h, rel1 := t + 1 } else { e with h0 := h, rel0 := t + 1 }
      (c.setEngine eng.val { e' with owed := !e.owed }).tryEnds
    ClusterDoes (.stgo i eng pslot sr) i (20 + eng.val) (fun _ c => st c = .stopped) (fun t c =>
      let e := c.engine eng.val
      let d := e.programDir pslot.val e.dir
      let h : HalfSt := if d = .inbound then .free else .owned
      c.setEngine eng.val { e with
        st := .running, a := List.replicate 8 0, par := c.r.getS sr.val, pc := 0, loops := [], dir := d, sel := false, pos := 0
        touched := false, owed := false, posts := [], slot := pslot.val, h0 := h, h1 := h
        from_ := t + 1, rel0 := t + 1, rel1 := t + 1 }) ∧
    ClusterDoes (.stgo i eng pslot sr) i (20 + eng.val) (fun _ c => st c ≠ .stopped) order ∧
    ClusterDoes (.strel i eng) i (20 + eng.val)
      (fun _ c => st c ≠ .stopped ∧ (c.engine eng.val).dir = .inbound ∧ ownHalf c .full) (give .free) ∧
    ClusterDoes (.strel i eng) i (20 + eng.val)
      (fun _ c => st c ≠ .stopped ∧ (c.engine eng.val).dir = .outbound ∧ ownHalf c .owned) (give .queued) ∧
    ClusterDoes (.strel i eng) i (20 + eng.val) (fun _ c => st c = .stopped ∨
        (c.engine eng.val).dir = .inbound ∧ ¬ ownHalf c .full ∨ (c.engine eng.val).dir = .outbound ∧ ¬ ownHalf c .owned)
      (fun _ c => (c.sfault 8 eng.val none).tryEnds) ∧
    SlotDoes (.sthalt i eng) i (20 + eng.val) (fun t c => c.due (t + 1) t (20 + eng.val) (.sthalt eng.val)) ∧
    (∀ (c : Cluster) (t : Nat),
      (st c ≠ .stopped → c.land t (.sthalt eng.val) = c.setEngine eng.val (c.engine eng.val).halt) ∧
      (st c = .stopped → c.land t (.sthalt eng.val) = c))

/-- Stream instructions (R181, R182, R184, R188, Table 8.2 of 08_streams_tokens_ordering.md). Where the ring is
awake, belongs to a partition, and the engine runs, has come to the instruction and has executed none in the
ring cycle, each stream instruction completes by changing its engine alone, which executes the next one no
earlier than the next ring cycle: S.CFG sets direction, half and base; S.PAR, S.LI, S.ADDI and S.ADD write an
address register; S.LOOP enters a loop of COUNT turns; S.END begins the end; all but S.LOOP and S.END go to the
next instruction. -/
def Obligations.StreamInstructions : Prop :=
  ∀ (e : EngAt) (dir : Dir) (half : BitVec 15) (base : BitVec 21) (da sa : Fin 8) (imm : BitVec 48) (count : BitVec 24)
    (n : BitVec 10) (part : Nat) (s : State),
    let c := (engState s e).cluster e.cl.val
    let x := c.engine e.eng.val
    let runs (i : Instr) (y : StreamEng) : Prop :=
      Executes s e i part → exec i s = .next (streamNext s e (c.setEngine e.eng.val y))
    let put (v : BitVec 64) : StreamEng := ({ x with a := x.a.set da.val v } : StreamEng).advance
    let h (old : HalfSt) : HalfSt := if x.dir = dir then old else if dir = .inbound then .free else .owned
    runs (.sCfg e dir half base)
      ({ x with dir := dir, half := half.toNat, base := base.toNat, h0 := h x.h0, h1 := h x.h1 } : StreamEng).advance ∧
    runs (.sPar e da) (put x.par) ∧ runs (.sLi e da imm) (put (imm.signExtend 64)) ∧
    runs (.sAddi e da sa imm) (put (x.reg sa.val + imm.signExtend 64)) ∧
    runs (.sAdd e da sa) (put (x.reg da.val + x.reg sa.val)) ∧
    runs (.sLoop e count n) { x with
      pc := x.pc + 1, st := .running, loops := ⟨x.pc + 1, x.pc + 1 + n.toNat, count.toNat - 1⟩ :: x.loops } ∧
    runs (.sEnd e) ({ x with st := .ending } : StreamEng).tryEnd

/-- S.GET, S.PUT, S.FLIP and S.POST (R185, R186, R190, R198, log entry 86). Where the engine executes: S.GET and
S.PUT on a half that may be touched, within the half, at an address its partition may access, take up an access
of LEN bytes between the deck address and the next bytes of the half, advance the position, and with INC the
address register; on a half not yet free or queued they wait, past the end of the half they set ORDER and fault
the engine, and at an address the partition may not access they fault it with that access's bits. S.FLIP of a
half that may be touched and has landed goes to the other half. S.POST waits behind the outbound accesses before
it. (That an access waits for its half before it can fault, and that ORDER comes before the causes of its
address, is the model's choice, log entry 86.) -/
def Obligations.StreamTransfers : Prop :=
  ∀ (e : EngAt) (sa : Fin 8) (len : BitVec 24) (inc : Bool) (scope : Scope) (name : Byte) (part : Nat) (s : State),
    let s1 := engState s e
    let t := (engRing s e).now
    let c := s1.cluster e.cl.val
    let x := c.engine e.eng.val
    let runs (i : Instr) (y : Cluster) : Prop := Executes s e i part → exec i s = .next (streamNext s e y)
    let only (i : Instr) (y : StreamEng) : Prop := runs i (c.setEngine e.eng.val y)
    let addr := (x.reg sa.val).toNat
    let taken (out : Bool) : StreamEng :=
      let y : StreamEng := { x with
        jobs := x.jobs ++ [⟨out, addr, x.halfAt x.sel + x.pos, len.toNat, 0, 0, [], x.sel, out && (engRing s e).optph⟩]
        pos := x.pos + len.toNat, touched := true }
      (if inc then y.setReg sa.val (x.reg sa.val + BitVec.ofNat 64 len.toNat) else y).advance
    let fits := x.mayTouch t = true ∧ x.pos + len.toNat ≤ x.halfBytes
    let past := x.mayTouch t = true ∧ x.halfBytes < x.pos + len.toNat
    let order : Cluster := (c.sfault 8 e.eng.val none).setEngine e.eng.val { x with st := .faulted }
    let barred (b : BitVec 6) : Cluster := (c.sfault b e.eng.val (some addr)).setEngine e.eng.val { x with st := .faulted }
    (x.dir = .inbound →
      (fits → s1.accessFault part addr len.toNat false = none → only (.sGet e sa len inc) (taken false)) ∧
      (fits → ∀ b, s1.accessFault part addr len.toNat false = some b → runs (.sGet e sa len inc) (barred b)) ∧
      (x.mayTouch t = false → only (.sGet e sa len inc) { x with st := .waiting }) ∧
      (past → runs (.sGet e sa len inc) order) ∧
      (x.mayTouch t = true → only (.sFlip e) ({ x.setHalf x.sel (if x.halfBusy x.sel then .closed else .full) with
        sel := !x.sel, pos := 0, touched := false } : StreamEng).advance)) ∧
    (x.dir = .outbound →
      (fits → s1.accessFault part addr len.toNat true = none → only (.sPut e sa len inc) (taken true)) ∧
      (fits → ∀ b, s1.accessFault part addr len.toNat true = some b → runs (.sPut e sa len inc) (barred b)) ∧
      (x.mayTouch t = false → only (.sPut e sa len inc) { x with st := .waiting }) ∧
      (past → runs (.sPut e sa len inc) order) ∧
      (x.mayTouch t = true → x.halfBusy x.sel = false → only (.sFlip e) ({ x.setHalf x.sel .owned with
        sel := !x.sel, pos := 0, touched := false } : StreamEng).advance)) ∧
    (Executes s e (.sPost e scope name) part → exec (.sPost e scope name) s =
      .next ((streamNext s e (c.setEngine e.eng.val ({ x with
        posts := x.posts ++ [⟨scope, name.toNat, (x.jobs.filter (fun j => j.out)).length⟩] } : StreamEng).advance)).streamPosts
          e.cl.val e.eng.val))

/-- Full halves, transfers and free accesses (R164, R179, R185, R191, R192, R242, R243, log entry 9, log entry 67,
log entry 68, log entry 85). A closed half whose writes have all landed becomes full. Wherever its bundle
issues, XGET, XPUT and XMOVE make the read of their descriptor due in their own ring cycle in each cluster with
fewer than 16 transfers outstanding; a cluster with 16 does nothing, and the ring sets XFULL and records the
first such cluster. A transfer whose last byte is delivered leaves the engine and adds 1 to its token. A free
access comes at the end of its ring cycle, after which nothing issues in it (the model's choice, log entry 9).
It moves one line for its requester, of the oldest job of a stream or transfer engine or of the running Trestle
request, where it has had none in the ring cycle, or waits where the bank is claimed or the round of R243 comes
first to another (which line an engine or a request moves next is the model's choice, log entries 67, 68 and
85), and the cluster counts the ring cycle as one in which a free access waits. -/
def Obligations.StreamDataMoves : Prop :=
  ∀ (e : EngAt) (half : Bool) (i : Issue) (sd : Fin 32) (sc : Scope) (name : Byte) (idx : Fin 16) (who : Client) (wrong : Nat)
    (s : State),
    let k := e.cl.val / 16
    let s1 := settled s k e.cycle
    let c := s1.cluster e.cl.val
    ((s.ring k).awake = true →
      let r := (s.ring k).settle k (max e.cycle (s.ring k).now)
      let x := (r.get (e.cl.val % 16)).engine e.eng.val
      x.halfSt half = .closed → x.halfBusy half = false →
      exec (.streamHalfFull e half) s = .next (afterRing s k (r.put (e.cl.val % 16)
        ((r.get (e.cl.val % 16)).setEngine e.eng.val (x.setHalf half .full))))) ∧
    (let s2 := settled s i.ring.val i.cycle
     let r := ringAt s2 i 6
     let t := cycleAt s2 i
     let runs (c : Instr) (op : Xop) : Prop := Issues s2 i 6 c →
       let r' := r.each (fun _ x => if 16 ≤ xferCount x then x else x.due t t 6
         (.xfer op (bits (x.r.getS sd.val).toNat 5 16 * 32) sc name.toNat r.optph))
       exec c s = .next (afterRing s2 i.ring.val (match r.cl.findIdx? (fun x => decide (16 ≤ xferCount x)) with
         | some j => r'.ttFault 8 (some j)
         | none => r'))
     runs (.xget i sd sc name) .get ∧ runs (.xput i sd sc name) .put ∧ runs (.xmove i sd sc name) .move) ∧
    (∀ x, c.xfers.getD idx.val none = some x → x.job.len ≤ x.job.put →
      exec (.transferComplete e.cl idx e.cycle) s = .next
        ((s1.setCluster e.cl.val { c with xfers := c.xfers.set idx.val none }).postFrom e.cl.val x.scope x.name 4)) ∧
    (∀ a n write,
      let g := e.cl.val
      let s2 := s.atRing k (fun r => r.event k e.cycle (fun t r => r.finish k t))
      let s3 := match who, s2.partOf k with
        | .trestle j, some part => if j.val = k then (s2.trestleRead part k).trestleWork part k else s2
        | _, _ => s2
      (s3.ring k).awake = true → s3.freeLine g who = some (a, n, write) →
      s3.clientReaches ((s3.partOf k).getD 0) who (g / 256) = true →
      let t := (s3.ring k).now
      let b := bankOf (lineOf a)
      let w := requesterOf who
      let c := s3.cluster g
      let u := c.ls.use.enter t (fun b w => s3.wants g b w)
      let c' : Cluster := { c with ls := { c.ls with use := u.serve g b (lineOf a) w } }
      let ctx : LsCtx := ⟨k, (s3.ring k).wakes, t, 16 + g % 16, []⟩
      let x := c'.freeRead ctx a n wrong
      let becomes (y : State) : Prop := exec (.freeBankAccess e.cl who e.cycle wrong) s = .next (y.takeFlags k)
      let barred := (c.claimed t).contains b = true ∨ u.bars g b (lineOf a) w = true
      (u.served.contains w = true → becomes s3) ∧
      (u.served.contains w = false → barred → becomes (s3.setCluster g { c with ls := { c.ls with
        wait := c.ls.wait + (if u.waited then 0 else 1), use := u.wait b w } })) ∧
      (u.served.contains w = false → ¬ barred → ∀ j, s3.jobOf who = some j →
        (write = true → becomes (((s3.setCluster g (c'.freeWrite ctx a wrong (j.buf.take n))).setJob who
          (j.gave n)).afterJob who)) ∧
        (write = false → x.2.flt.length = c.flt.length → becomes ((s3.setCluster g x.2).setJob who (j.took x.1)))) ∧
      (u.served.contains w = false → ¬ barred → s3.jobOf who = none →
        let y := if write then c'.freeWrite ctx a wrong ((s3.ring k).tr.lineBytes (g % 16) a) else x.2
        let s4 := s3.setCluster g y
        y.flt.length = c.flt.length → becomes (s4.setRing k { s4.ring k with tr := { (s4.ring k).tr with
          run := (s4.ring k).tr.run.map (fun q => q.moved (g % 16) a write) } })))

/-- A Trestle request (R207, R217, R219, R222, R224, R228, R229, log entry 9, log entry 44, log entry 49, log entry
85). A submission by a bundle makes the write of CL_TRSUB by logical slot 0 due in the next ring cycle. The head
of the queue of an engine that is free, whose schedule is present, becomes the running request with the outcome
of the checks of its form, its start the later of its submission's ring cycle and the one in which the engine
became free; once the writes up to its submission have landed and the lines of its headers have been read it is
rejected by them or goes on, and one that factors first voids its factor; once its operand lines have been read
its arithmetic is done, its writes to the deck are made and those to the Local Store stand. The deadline marks a
running request with the iterations it had done; a residual kernel takes an issue of an FMA pipe left free; a
request with nothing left to write but its status word completes at the end of a ring cycle that leaves it the
bank (that this ends the ring cycle is the model's choice, log entry 9); a schedule copy fills the ring's store
with the image's schedules. (When the arithmetic is done, the order of the engine's accesses and its waits at
the journal are the model's choices, log entries 44, 49 and 85.) -/
def Obligations.TrestleRequests : Prop :=
  ∀ (i : Issue) (value : BitVec 32) (cl : Fin 4096) (p : FmaPipe) (iters part : Nat) (s : State),
    let k := i.ring.val
    let s1 := settled s k i.cycle
    (∀ ra, Issues s i 0 (.swrs i ra 0x340) → exec (.trestleSubmit i value) s = .next (afterRing s k ((ringAt s i 0).put 0
      (((ringAt s i 0).get 0).due (cycleAt s i + 1) (cycleAt s i) 0 (.swrs 0xD00 value (ringAt s i 0).tt.bidx))))) ∧
    (let s0 := s.atRing k (fun r => r.event k i.cycle (fun t r => if r.tr.queue.isEmpty then r.finish k t else r))
     let r := s0.ring k
     ∀ q rest, r.awake = true → s0.partOf k = some part → r.tr.queue = q :: rest → r.tr.run = none →
      r.tr.awaits q.desc = false →
      let from_ := max q.issued r.tr.freeAt
      let run (rej : Option Nat) (heads todo : List (Nat × Nat)) : TrRun :=
        ⟨q.desc, from_, q.jr, none, rej, q.issued, heads, todo, rej.isNone, [], none, false⟩
      let at_ (x : TrRun) : State := s0.setRing k { r with tr := { r.tr with
        queue := rest, run := some x, busy := r.tr.busy + (r.now - from_) } }
      let starts (t : State) : Prop := exec (.trestleRequestStart i.ring i.cycle) s = .next t
      (∀ code, s0.formChecks part k q.desc = some code → starts (at_ (run (some code) [] []))) ∧
      (∀ sc, s0.formChecks part k q.desc = none → schedIn r.tr.store q.desc = some sc →
        starts ((at_ (run none (stripeTodo (headUses q.desc)) (stripeTodo (readUses (sc.uses q.desc))))).trestleRead part k))) ∧
    (∀ (u : State) (q : TrRun), (u.ring k).tr.run = some q → q.failed = false →
      let q' : TrRun := { q with unread := false }
      (q.unread = true → (q.heads ≠ [] ∨ (u.ring k).covered q.issued = false) → u.trestleRead part k = u) ∧
      (q.unread = true → q.heads = [] → (u.ring k).covered q.issued = true →
        (∀ code, u.readChecks part k q.desc = .ok (some code) →
          u.trestleRead part k = u.setRun k { q' with reject := some code, todo := [] }) ∧
        (∀ t, u.readChecks part k q.desc = .ok none → (u.setRun k q').voidFactor part k q' = (none, t) →
          u.trestleRead part k = t)) ∧
      (q.unread = false → q.out = none → q.lines = [] → q.todo = [] → u.trestleServed part k q = true →
        let d := u.draw
        ∀ x t, d.2.trestleEnd part k q d.1 = .ok x → (d.2.chargeReads part k q).deckWrites part q.jr x.writes = (none, t) →
          u.trestleWork part k = t.setRun k { q with
            out := some (x.code, x.word q.desc (match schedIn (u.ring k).tr.store q.desc with
              | some sc => sc.fprint
              | none => 0))
            lines := stripeWrites x.writes })) ∧
    (∀ q, i.ring.val = cl.val / 16 →
      let s2 := s1.trestleRead ((s1.partOf k).getD 0) k
      let t := max i.cycle (s2.ring k).now
      let x := (s2.ring k).settle k t
      let c := x.get (cl.val % 16)
      (s2.ring k).awake = true → x.tr.run = some q → q.kernel = true → c.vec.kernelFree p t = true →
      x.leavesFree ⟨i.ring, t⟩ p.slot t (isPipe p) = true →
      exec (.residualKernelIssue cl p i.cycle) s = .next (afterRing s2 k
        { x.put (cl.val % 16) { c with vec := c.vec.kernelUse p t } with
          tr := { x.tr with steal := (x.tr.steal + 1) % 2 ^ 64 } })) ∧
    (∀ q, (s.ring k).awake = true →
      let x := (s.ring k).settle k (cycleAt s i)
      x.tr.run = some q → q.cut = none → q.reject = none → q.start + rqDeadline q.desc ≤ cycleAt s i →
      exec (.trestleDeadline i.ring i.cycle iters) s =
        .next (afterRing s k { x with tr := { x.tr with run := some { q with cut := some iters } } })) ∧
    (∀ q code word,
      let s0 := s.atRing k (fun r => r.event k i.cycle (fun t r => r.finish k t))
      s0.partOf k = some part →
      let s2 := (s0.trestleRead part k).trestleWork part k
      let line := bits (leAt q.desc 12 4) 6 15
      let c := s2.cluster (k * 16)
      let w : Client := .trestle (Fin.ofNat 256 k)
      let u := c.ls.use.enter (s2.ring k).now (fun b w => s2.wants (k * 16) b w)
      (s2.ring k).tr.run = some q → q.failed = false → q.lines = [] → q.out = some (code, word) →
      u.served.contains w = false → (c.claimed (s2.ring k).now).contains (bankOf line) = false →
      u.bars (k * 16) (bankOf line) line w = false →
      ∃ t, exec (.trestleComplete i.ring i.cycle) s = .next t ∧
        t = s2.finishRequest part k q code word (u.serve (k * 16) (bankOf line) line w) ∧
        (t.ring k).tr.run = none ∧ (t.ring k).tr.lastCode = code ∧ (t.ring k).tr.freeAt = (s2.ring k).now) ∧
    (∀ im, s.partOf k = some part → (s.part part).image = some im → (s.ring k).awake = true →
      exec (.scheduleCopy i.ring) s = .next (s.setRing k { s.ring k with tr := { (s.ring k).tr with
        store := (im.schedsOf k).foldl (fun m x => Tab.ins x.id x.body m) []
        freeAt := max (s.ring k).tr.freeAt (s.ring k).now } }))

/-- The start hold, and a halted ring (R27, R171, R173, R234, R400). Where a running step of the partition, not
committed, waits to start a halted ring whose target's rings are all awake, the start hold selects the timetable
of the target's class and waits there with its entry staged; where the step is faulted or halting the report has
reached the ring. An awake ring at a hold that has received a report halts, and its Trestle engine stops. -/
def Obligations.StartHoldAndHalt : Prop :=
  ∀ (i : Issue) (part : Nat) (im : Image) (x : Timetable) (s : State), (s.ring i.ring.val).awake = true →
    let k := i.ring.val
    let r := (s.ring k).settle k (cycleAt s i)
    let c77 := s.targetC77 im (im.targetOf k)
    (s.partOf k = some part → (s.part part).image = some im → s.startable part k = true →
      (if c77 then im.timetable (im.targetOf k) true
       else (im.timetable (im.targetOf k) false).or (im.timetable (im.targetOf k) true)) = some x →
      let t := afterRing s k (r.startHold (cycleAt s i) x x.c77)
      ∀ j, (s.part part).stepJob = some j →
        exec (.startHold i) s =
          .next (if j.faulted || j.halting then t.setRing k (t.ring k).receiveReport else t)) ∧
    (r.tt.report = true → r.tt.run = .hold →
      let s1 := afterRing s k { r with tt := { r.tt with hold := none, run := .halted }
                                       tr := { r.tr with run := none, queue := [] } }
      exec (.ringHalted i) s = .next (match s1.partOf k with
        | some p => s1.proceed p
        | none => s1))

/-- A step order starts a step (R130, R197, R261, R308). A step order of a READY partition whose faults are not
being handled, and none of whose decks waits to lose a channel, sets every token counter of the partition and of
its units' token ports to zero, readies its rings, enters RUNNING and records the order; no byte of the decks
changes. In another state it then completes with STATE_CONFLICT; while faults are handled, or a deck of the
partition waits to lose a channel, it stays as it is. -/
def Obligations.StepOrders : Prop :=
  ∀ (f k : Fin 64) (ckpt : Word) (part : Nat) (s : State), TenantOrder s f.val k.val part →
    ((s.part part).handling = true ∨ s.failingOn part = true → exec (.step f k ckpt) s = .next s) ∧
    ((s.part part).handling = false → s.failingOn part = false → (s.part part).st ≠ .ready → exec (.step f k ckpt) s =
      .next ((s.takeOrder f.val k.val).completeBad f.val k.val part stConflict)) ∧
    ((s.part part).handling = false → s.failingOn part = false → (s.part part).st = .ready →
      ∃ t, exec (.step f k ckpt) s = .next t ∧ t.mem = s.mem ∧ (t.part part).st = .running ∧
        (t.part part).spanTok = [] ∧ (t.part part).devTok = [] ∧ (t.part part).faces = [] ∧ (t.part part).opt = false ∧
        (t.part part).stepno = (s.part part).stepno ∧
        (∃ j, (t.part part).stepJob = some j ∧ j.fn = f.val ∧ j.slot = k.val ∧ j.ckpt = ckpt.toNat ∧
          j.faulted = false ∧ j.committed = false ∧ j.halting = false ∧ j.repeats = 0) ∧
        ∀ r ∈ (s.part part).rings, (s.ring r).awake = true →
          (t.ring r).tok = [] ∧ (t.ring r).tt.ended = false ∧ (t.ring r).tt.report = false ∧
            ∀ c ∈ (t.ring r).cl, c.tok = [])

/-- A fault report (R22, R23, R28, R173, R308). Where a ring of a partition has raised faults by a ring cycle,
FAULT_REPORT takes them. The ring's status block holds every flag of its clusters; its first faulting member is
the one it held or, where it held none, the lowest logical slot whose fault is new; a lower slot takes its place
where both faults were recorded in this ring cycle, the model's reading of one ring cycle (log entry 64). The
ring's own causes name no member. While a step runs that has not committed, the step becomes faulted, a program
fault forbids its repetition, and every awake ring of the partition that is not halted receives the report;
outside a step a hardware fault is left to be handled. -/
def Obligations.FaultReports : Prop :=
  ∀ (ring : Fin 256) (cycle part : Nat) (s : State),
    let s1 := settled s ring.val cycle
    let x := (((((s.setRing ring.val ((s.ring ring.val).event ring.val cycle (fun _ r => r))).takeXfers ring.val).takeWork
      ring.val).takePhase ring.val).ring ring.val)
    s1.partOf ring.val = some part → (s1.ring ring.val).causes ≠ [] →
    ∃ t, exec (.faultReport ring cycle) s = .next t ∧ t.mem = s.mem ∧ (t.ring ring.val).causes = [] ∧
      ((x.gather x.now).unit.flags ≠ [] → (t.ring ring.val).unit.first =
        match x.unit.first, x.freshSlots.head? with
        | none, m => m
        | some f, none => some f
        | some f, some m => some (if x.unit.stamp = some (0, x.now) ∧ m < f then m else f)) ∧
      (∀ c ∈ (s1.ring ring.val).cl, ∀ p ∈ c.sticky, Tab.get 0 (t.ring ring.val).unit.flags p.1 &&& p.2 = p.2) ∧
      (∀ j, (s1.part part).stepJob = some j → j.committed = false →
        (∃ j', (t.part part).stepJob = some j' ∧ j'.faulted = true ∧
          j'.prog = (j.prog || (s1.ring ring.val).causes.any (fun c => c.2.isProgram))) ∧
        ∀ r ∈ (s1.part part).rings, (s1.ring r).awake = true → (s1.ring r).tt.run ≠ .halted →
          (t.ring r).tt.report = true) ∧
      (s1.stepOpen part = false → (s1.ring ring.val).causes.any (fun c => !c.2.isProgram) = true →
        (t.part part).handling = true)

/-- Recovery (R203, R308, R309, R436, Table 13.6 of 13_long_runs.md). Once the rings of a faulted or halting step
stand still and none is being woken, RECOVERY recovers the step: in each of its awake rings, where the
self-tests find nothing, the arrays are OFF, every transfer and every token is gone and the ring is halted. What
follows is the row of Table 13.6 that the step then meets. Where it ends, its order completes and the partition
is READY, or REPLAN where its journal, with what recovery itself writes into it, could not be read or a ring or
a target was lost (on a deck about to lose a channel once that is done). Where it repeats, the partition stays
in RUNNING with the same step under the same order, no longer faulted, its repetition counted after faults.
Self-tests and journal entries are named by the operands (log entry 39). With no step running, faults that were
reported are handled in READY. -/
def Obligations.Recoveries : Prop :=
  ∀ (part : Fin 64) (tests : List (Fin 4096 × SelfTest)) (bad : List (Fin 2 × Nat)) (s : State),
    (∀ r ∈ (s.part part.val).rings, (s.ring r).still = true) → s.waking part.val = false →
    (∀ j, (s.part part.val).stepJob = some j → (j.faulted || j.halting) = true → j.committed = false → j.done = none →
      let m := s.recoverMid part.val tests bad
      ∃ t, exec (.recovery part tests bad) s = .next t ∧
      (∀ r ∈ (s.part part.val).rings, (s.ring r).awake = true → tests = [] →
        (t.ring r).tt.run = .halted ∧ (t.ring r).tok = [] ∧
        ∀ c ∈ (t.ring r).cl, c.mx.st = .off ∧ c.tok = [] ∧ c.agenda = [] ∧ c.xfers = List.replicate 16 none) ∧
      (tests = [] → m.1 = false) ∧
      m.2.1 = ((((s.part part.val).rings.foldl (fun s i => s.takeCauses part.val i) s).recoverUnits part.val).journalBad
        part.val bad) ∧
      ∃ j', (m.2.2.part part.val).stepJob = some j' ∧ j'.repeats = j.repeats ∧ j'.halting = j.halting ∧
        (j.prog = true → j'.prog = true) ∧
        match j'.outcome m.2.1 m.1 (m.2.2.untaken part.val) with
        | .ends _ replan _ => m.2.2.failingOn part.val = false →
          (t.part part.val).st = (if replan || j'.replan then .replan else .ready) ∧ (t.part part.val).job = .idle ∧
            (t.part part.val).opt = false
        | .repeats => (t.part part.val).st = (s.part part.val).st ∧
          ∃ j2, (t.part part.val).stepJob = some j2 ∧ j2.fn = j.fn ∧ j2.slot = j.slot ∧ j2.faulted = false ∧
            j2.repeats = if j'.faults = [] then j.repeats else j.repeats + 1) ∧
    ((s.part part.val).stepJob = none → (s.part part.val).handling = true →
      ∃ t, exec (.recovery part tests bad) s = .next t ∧ (t.part part.val).handling = false ∧
        (tests = [] → (t.part part.val).st = (s.part part.val).st)) ∧
    (∀ j : StepJob, ∀ lost untaken,
      j.outcome true lost untaken = .ends stRestore true none ∧
      (lost = true ∨ untaken = true → j.outcome false lost untaken = .ends stFaulted true none) ∧
      (j.replan = false → j.prog = true ∨ j.halting = true →
        j.outcome false false false = .ends (j.endCode.getD stFaulted) false none) ∧
      (j.replan = false → j.prog = false → j.halting = false → (∀ x ∈ j.digests, x ∉ j.lastDigests) →
        (∀ x ∈ j.pages, x ∉ j.lastPages) →
        j.outcome false false false =
          if j.faults ≠ [] ∧ 3 ≤ j.repeats then .ends stFaulted false none else .repeats))

/-- The commit point (R260, R261, R307, R324, log entry 90). Once every ring of a step that is neither faulted nor
halting has ended, no invocation of the partition's groups is in flight, no journal entry waits and no channel
that its checkpoint needs is retraining, COMMIT raises STEPNO by one, sets every random stream's anchor to its
live values, drops the journal and ends the optimizer phase. Without a checkpoint descriptor the step order
completes, the partition is READY (REPLAN where a ring was lost) and no byte of the decks changes; on a deck
about to lose a channel the end waits for that (the model's choice, log entry 90). With a descriptor the stop
begins. While one of these conditions fails nothing changes. -/
def Obligations.Commits : Prop :=
  ∀ (part : Fin 64) (j : StepJob) (s : State), (s.part part.val).stepJob = some j →
    let ok := j.committed = false ∧ j.faulted = false ∧ j.halting = false ∧ (s.part part.val).rings ≠ [] ∧
      (∀ r ∈ (s.part part.val).rings, (s.ring r).tt.ended = true) ∧
      (∀ g ∈ s.groups, g.2.part = part.val → g.2.liveIn = []) ∧ s.journalWaits part.val = false ∧
      (j.ckpt ≠ 0 → s.ckptServes part.val j.ckpt = true)
    (¬ ok → exec (.commit part) s = .next s) ∧
    (ok → ∃ t, exec (.commit part) s = .next t ∧
      (t.part part.val).stepno = ((s.part part.val).stepno + 1) % 2 ^ 64 ∧ (t.part part.val).opt = false ∧
      (∀ k, k < 2 → ∀ e ∈ (t.siding k).entries, e.part ≠ part.val) ∧
      (∀ r ∈ (s.part part.val).rings, (s.ring r).awake = true → ∀ k, k < 16 →
        ∀ x ∈ (t.cluster (r * 16 + k)).sr, x.astep = x.step ∧ x.adraw = x.draw ∧ x.acursor = x.cursor) ∧
      (j.ckpt = 0 → s.failingOn part.val = false →
        (t.part part.val).st = (if j.replan then .replan else .ready) ∧ (t.part part.val).job = .idle ∧ t.mem = s.mem) ∧
      (j.ckpt = 0 → s.failingOn part.val = true → t = (s.commitPoint part.val).endStep part.val stOk false) ∧
      (j.ckpt ≠ 0 → t = (s.commitPoint part.val).beginStop part.val j.ckpt))

/-- Checkpoints (R260, R315, R318, R319, R320, R365, Table 13.3 of 13_long_runs.md, log entry 42). At the end of the
stop a capture whose extents can be read completes the step order, is staged and is shipped. Its element of the
draining checkpoints holds the bytes staged, as many as the sidings' free blocks take, and the state of each
destination, and is dropped at once where none is pending; the two siding dies together hold the staged bytes of
every draining checkpoint. A host destination is given the copy and after it the manifest, which already says
COMPLETE (the model's choice, log entry 42: R319 sets COMPLETE in the partition's own manifest only once every
destination has acknowledged), unless the image key demands a stream that is down; a buddy destination whose
links are up is sent both as bulk frames, and one without a group or with a failed link has failed. An extent
that cannot be read fails the checkpoint with cause 2 and that extent, and the step order completes all the
same. While a channel that the capture reads or writes is retraining nothing changes. An acknowledgement or a
timeout of a destination that is still pending gives it, in the draining checkpoint of that serial number, the
state held, or failed; the checkpoint goes on draining while a destination is pending and has drained when none
is, whatever the others do. When a link fails, no destination whose copy was to go over its port is pending any
more. What the sidings cannot take is staged in no block (R317 stages in free blocks; the model's choice, log
entry 42). -/
def Obligations.Checkpoints : Prop :=
  ∀ (part : Fin 64) (serial : BitVec 64) (dest : Fin 4) (ck : Ckpt) (older newer : List Ckpt) (s : State),
    (∀ j, (s.part part.val).ckpt = some ck → (s.part part.val).stepJob = some j →
      let served := ∀ x ∈ (ck.manifest, ck.manifestLen) :: ck.exts, s.rangeServes part.val x.1 x.2 = true
      (¬ served → ∀ e, exec (.checkpointStopEnd part e) s = .next s) ∧
      (served → ∀ e, exec (.checkpointStopEnd part (some e)) s =
        .next ((s.failCkpt part.val 2 e).endStep part.val stOk false)) ∧
      (served → ∀ bs, s.readExts part.val 0 ck.exts = .ok bs → s.failingOn part.val = false →
        let copy := ck.record ++ bs.flatten
        let man := ck.manifestBytes mfComplete 0 0xFFFF (if ck.snapshot then 0 else crc64 ck.record) (s.part part.val).meas
          (bs.map crc64)
        let room := ((s.siding 0).free + (s.siding 1).free) * blockBytes
        let staged : Ckpt := { ck with bytes := min copy.length room, staged := true }
        ∃ t ds, exec (.checkpointStopEnd part none) s = .next t ∧ (t.part part.val).ckpt = none ∧
          (t.part part.val).st = (if j.replan then .replan else .ready) ∧ (t.part part.val).job = .idle ∧
          ds = ((ck.exts.foldl (fun s x => s.fetchPart part.val x.1 x.2) s).shipAll part.val staged copy man ck.dests).1 ∧
          (t.part part.val).drains = (s.part part.val).drains ++ (if ds.any (fun d => d.state == 0) then
            [{ staged with dests := ds }] else []) ∧
          (Tab.wf 0 (s.siding 0).staged = true → Tab.wf 0 (s.siding 1).staged = true →
            Tab.get 0 (t.siding 0).staged part.val + Tab.get 0 (t.siding 1).staged part.val =
              (t.part part.val).drains.foldl (fun a d => a + d.bytes) 0) ∧
          ∀ d ∈ ck.dests, d.buddy = false → ∀ f, (s.part part.val).vf = some f → s.ideBars f part.val = false →
            .host f d.base copy (s.via f) ∈ t.outbox ∧ .host f (d.base + copy.length) man (s.via f) ∈ t.outbox) ∧
      (served → ∀ e, s.readExts part.val 0 ck.exts = .error e →
        exec (.checkpointStopEnd part none) s = .next ((s.failCkpt part.val 2 e).endStep part.val stOk false))) ∧
    (∀ (d : CkDest) (copy man : List Byte), d.buddy = true →
      let links := [d.port0, d.port1].filter (fun p => decide (p < 16))
      let g := (s.part part.val).image.bind (fun im => im.groups.find? (fun g => g.gid == d.gid))
      ((links = [] ∨ (∃ p ∈ links, (s.link p false).st = .failed) ∨ g = none) →
        s.ship part.val ck copy man d = ({ d with state := 2 }, s)) ∧
      (links ≠ [] → (∀ p ∈ links, (s.link p false).st ≠ .failed) → ∀ r, g = some r →
        s.ship part.val ck copy man d = (d, s.sendCopy r d ck.serial copy man))) ∧
    (∀ d, (s.part part.val).drains = older ++ ck :: newer → (∀ x ∈ older, x.serial ≠ serial.toNat) →
      ck.serial = serial.toNat → ck.dests[dest.val]? = some d → d.state = 0 →
      let marked (n : Nat) : Ckpt := { ck with dests := ck.dests.set dest.val { d with state := n } }
      let left (n : Nat) : List Ckpt := older ++ (if (marked n).pending then marked n :: newer else newer)
      (∃ t, exec (.checkpointAck part ⟨serial, dest⟩) s = .next t ∧ t = s.drainStep part.val older (marked 1) newer ∧
        (t.part part.val).drains = left 1) ∧
      (∃ t, exec (.destinationTimeout part ⟨serial, dest⟩) s = .next t ∧ t = s.rouse.drainStep part.val older (marked 2) newer ∧
        (t.part part.val).drains = left 2)) ∧
    (∀ port, let u := State.failDrains part.val port (s.part part.val).drains.length s
      ∀ x ∈ (u.part part.val).drains, ∀ d ∈ x.dests, d.waitsOn port = false)

/-- Restores (R260, R321, R322, R325, R365, log entry 91). A restore order of a READY or REPLAN partition runs
recovery and brings the partition into LOADING; in another state it completes with STATE_CONFLICT. When the copy
has been read, the fabric is on, and it is checked and put in its place; a copy whose manifest does not check
completes the order with RESTORE_INCONSISTENT (0x0203), and so does one that cannot be found (the code is the
model's choice, log entry 91), and the partition is in the state it came from. While a channel that the copy
goes to is retraining the restore waits, and bytes of the host that came outside the stream the image key
demands are discarded and counted. -/
def Obligations.Restores : Prop :=
  ∀ (f k : Fin 64) (src : RestoreSrc) (roff rstate : Word) (part : Fin 64) (exts : List (Nat × Nat)) (data : Tlp (List Byte))
    (hw : Bool) (s : State),
    (TenantOrder s f.val k.val part.val →
      let s1 := s.takeOrder f.val k.val
      let st := (s.part part.val).st
      (st = .ready ∨ st = .replan → ∃ t, exec (.restore f k src roff rstate) s = .next t ∧
        (t.part part.val).st = .loading ∧ (t.part part.val).came = st ∧
        (t.part part.val).job = .restore ⟨f.val, k.val, src, roff.toNat, rstate.toNat⟩ ∧
        (t.part part.val).spanTok = [] ∧ (t.part part.val).devTok = []) ∧
      (st ≠ .ready → st ≠ .replan → exec (.restore f k src roff rstate) s =
        .next (s1.completeBad f.val k.val part.val stConflict))) ∧
    (∀ j, (s.part part.val).job = .restore j →
      let came := (s.part part.val).came
      let s1 := s.fabricOn
      let served := ∀ x ∈ exts, s.rangeServes part.val ((x.1 + j.roff) % 2 ^ 64) x.2 = true
      let fails := exec (.restoreComplete part exts data hw) s = .next (s1.endRestore part.val j came stRestore)
      (∀ b vf, j.src = .host b → data.inStream = false → (s.part part.val).vf = some vf → s.ideNeeds vf part.val = true →
        ∃ t, exec (.restoreComplete part exts data hw) s = .next t ∧ t.mem = s.mem ∧ t.parts = s.parts ∧
          (t.fn vf).ideDrops = (s.fn vf).ideDrops + 1) ∧
      (s.restoreOutside part.val j data = none → ¬ served → exec (.restoreComplete part exts data hw) s = .next s) ∧
      (s.restoreOutside part.val j data = none → served →
        (s1.copyRead part.val j exts data.body = none → fails) ∧
        (∀ c, s1.copyRead part.val j exts data.body = some c →
          (slice c.manifest 0 4 ≠ ascii "CKMF" ∨ leAt c.manifest 4 1 ≠ mfComplete ∨
            c.manifest.length ≠ 128 + 8 * exts.length → fails) ∧
          exec (.restoreComplete part exts data hw) s = .next (s1.restoreFrom part.val j came exts c hw))))

/-- Image loads (R145, R148, R149, R150, R151, R260, R437, log entry 38, log entry 80). While four images are being
validated an image load order stays as it is, none of its tests made. Else an order of an EMPTY, READY or REPLAN
partition whose image lies in readable deck that the signal box reaches brings the partition into LOADING; in
another state it completes with STATE_CONFLICT and detail check 1, from deck that is not so with BOUNDS and
detail check 2. At the end of validation, with the fabric on and the granules read meeting the erroneous bytes
named, an image that passes is applied, its measurement is the result and the partition is READY with STEPNO 0;
one that fails completes with its code and detail, and the partition is in the state it came from; a hardware
fault during application, or a constant that would merge into an uncorrectable granule, leaves it EMPTY with no
image. While a channel that the image lies on is retraining nothing changes. The image that is checked is the
one applied, whatever its constants write over it, and an image of length 0 fails as one that is too short (the
model's choices, log entry 38); that deck which no working edge reaches counts as unmapped is log entry 80. -/
def Obligations.ImageLoads : Prop :=
  ∀ (f k : Fin 64) (addr len : Word) (part : Fin 64) (hw : Bool) (wrong : List Nat) (s : State),
    (TenantOrder s f.val k.val part.val →
      let s1 := s.takeOrder f.val k.val
      let p := s.part part.val
      let maps := 0 < len.toNat → s.boxMaps part.val addr.toNat len.toNat false = true
      (4 ≤ s.loads → exec (.imageLoad f k addr len) s = .next s) ∧
      (s.loads < 4 → p.st.idleOne = false →
        exec (.imageLoad f k addr len) s = .next (s1.rejectLoad f.val k.val part.val stConflict (1 * 2 ^ 24))) ∧
      (s.loads < 4 → p.st.idleOne = true → ¬ maps →
        exec (.imageLoad f k addr len) s = .next (s1.rejectLoad f.val k.val part.val stBounds (2 * 2 ^ 24))) ∧
      (s.loads < 4 → p.st.idleOne = true → maps →
        exec (.imageLoad f k addr len) s = .next (s1.setPart part.val { p with
          st := .loading, came := p.st, job := .load ⟨f.val, k.val, addr.toNat, len.toNat⟩ }))) ∧
    (∀ j, (s.part part.val).job = .load j →
      let s1 := (s.fabricOn.fetchPart part.val j.addr j.len).meetPart part.val j.addr j.len wrong
      let x := s1.readImage part.val j.addr j.len
      let served := s.rangeServes part.val j.addr j.len = true
      (¬ served → exec (.imageValidationEnd part hw wrong) s = .next s) ∧
      (served → ∀ e, s1.validate part.val x.1 x.2 = .error e →
        ∃ t, exec (.imageValidationEnd part hw wrong) s = .next t ∧
          ((∀ w ∈ wrong, rsVerdict w ≠ .beyond) → t.mem = s.mem) ∧
          t = s1.endLoad part.val j (s.part part.val).came e.code e.detail [] ∧
          (t.part part.val).st = (s.part part.val).came ∧ (t.part part.val).job = .idle) ∧
      (served → ∀ v, s1.validate part.val x.1 x.2 = .ok v →
        let whole := !hw && ((s1.installImage part.val v.im).putConsts part.val v.consts).1
        ∃ t, exec (.imageValidationEnd part hw wrong) s = .next t ∧ t = s1.applyImage part.val j v hw ∧
          (t.part part.val).job = .idle ∧ (t.part part.val).stepno = 0 ∧
          (t.part part.val).st = (if whole then .ready else .empty) ∧
          (t.part part.val).image = (if whole then some v.im else none)))

/-- Reads of the decks (R248, R250, R251, R256, R257, R259, R273, log entry 85). A request that has come is known to
its channel from then on. A read is served where no older request waits for its granule, fewer than 40 older
reads wait, it is ready, and no older read is; else, it being its client's next, it waits (in which order
requests came, and that a client which keeps no job came last, is the model's choice, log entry 85). It then
leaves the queue and gives its job the bytes of its granules, in order; a client that keeps no job has them
delivered; the first granule that is not delivered faults the requester with MEMERR. A granule with no erroneous
byte is delivered; one with one or two is corrected, delivered and counted; one with three or four is not
delivered, and is poisoned; a poisoned granule is not delivered. A request of a partition that the owner record
does not name is refused with XLATE, and so is one of a withdrawn region or of a deck that the fabric does not
reach. -/
def Obligations.DeckReads : Prop :=
  ∀ (acc : DeckAcc) (wrong : List Nat) (s : State),
    let h := s.hears acc
    let span := acc.span.val
    let queued := (h.takeTurn span ((h.deck span).channel acc.addr.toNat) acc.who).deckTouch span acc.addr.toNat acc.cycle
    (h.entryOf acc false = .served →
      (∀ y ∈ h.older acc, y.2.2 / 64 ≠ acc.addr.toNat / 64) ∧ ((h.older acc).filter (fun y => !y.2.1)).length < 40 ∧
      (h.deck span).ready acc.addr.toNat acc.cycle = true ∧
      ∀ y ∈ h.older acc, y.2.1 = false → (h.deck span).ready y.2.2 acc.cycle = false) ∧
    (h.entryOf acc false = .served → ∀ j, s.jobOf acc.who = some j →
      let n := readLen acc wrong.length j
      let x := queued.readGranules (granules (devOf acc) n) wrong
      (∀ bs, x.1 = .ok bs → exec (.deckRead acc wrong) s =
        .next (x.2.setJob acc.who (j.took ((bs.drop (devOf acc % 64)).take n)))) ∧
      (∀ g, x.1 = .error g → exec (.deckRead acc wrong) s = .next (x.2.memerr acc g))) ∧
    (h.entryOf acc false = .served → s.jobOf acc.who = none →
      let x := queued.readGranules (granules (devOf acc) (64 * wrong.length - devOf acc % 64)) wrong
      (∀ bs, x.1 = .ok bs → exec (.deckRead acc wrong) s = .next x.2) ∧
      (∀ g, x.1 = .error g → exec (.deckRead acc wrong) s = .next (x.2.memerr acc g))) ∧
    (h.entryOf acc false = .waits → exec (.deckRead acc wrong) s = .next h) ∧
    (h.entryOf acc false = .refused → exec (.deckRead acc wrong) s = .next (h.refuse acc)) ∧
    (h.entryOf acc false = .unreachable → exec (.deckRead acc wrong) s =
      .next (h.clientFault acc.part.val acc.who 1 (h.nameAddr acc.part.val (devOf acc)))) ∧
    (∀ dev, (s.deck (dev / 2 ^ 32)).holds (dev % 2 ^ 32) = false →
      let k := dev / 2 ^ 32
      let s1 := (s.setDeck k ((s.deck k).look (dev % 2 ^ 32))).busyCycles k 1
      (s.poisoned dev = true → ∀ n, s.readGranule dev n = (none, s1)) ∧
      (s.poisoned dev = false →
        s.readGranule dev 0 = (some (s.deckBytes dev 64), s1) ∧
        (∀ n, n = 1 ∨ n = 2 → (s.readGranule dev n).1 = some (s.deckBytes dev 64) ∧
          ((s.readGranule dev n).2.deck k).cecnt = min ((s.deck k).cecnt + 1) (2 ^ 32 - 1)) ∧
        (∀ n, n = 3 ∨ n = 4 → (s.readGranule dev n).1 = none ∧ (s.readGranule dev n).2.poisoned dev = true ∧
          ((s.readGranule dev n).2.deck k).uecnt = min ((s.deck k).uecnt + 1) (2 ^ 32 - 1))))

/-- Writes of the decks and the journal (R206, R251, R257, R260, R310, R311, R313). In a state whose memory has its
canonical form (an invariant, stated by itself): a write request that is served and not journaled, with room in
the write buffer, stores its bytes: each granule that it covers whole takes them, and each that it covers in
part, where the old granule can be read, takes the old bytes with the masked new ones laid over; every byte
outside the granules it touches reads as before. Where its first granule is covered in part and poisoned,
nothing is stored and the requester faults with MEMERR. Without room it waits. A Trestle engine's write is
served only to a region that the table maps writable. A write that is journaled, because its engine took it up
in the ring's optimizer phase or the partition's phase began more than 2 µs before, goes no other way: it reads
the old granule and waits while the siding stores it; the decks keep their bytes. With no free block it waits.
Once the siding has stored the oldest waiting entry, that write is made, merged under its mask, unless its
channel is retraining, for which it waits; one that would merge into a poisoned granule is not made. A write
past the limit faults the step. -/
def Obligations.DeckWrites : Prop :=
  ∀ (acc : DeckAcc) (data : List Byte) (mask : List Bool) (cycle wrong : Nat) (sd : Fin 2) (s : State), s.memWf = true →
    let h := s.hears acc
    let byte (s : State) (a : Nat) : Byte := Tab.get deckFill s.mem a
    let bs := s.writeData acc data
    let ws := overGranules (devOf acc) bs (if s.jobOf acc.who = none then mask else [])
    let jr := s.journals acc.part.val acc.span.val (s.jobJr acc.who) acc.cycle
    let room := (s.deck acc.span.val).room acc.addr.toNat
    (h.entryOf acc true = .served → ∀ r, acc.who = .trestle r → s.tableAdmits acc.part.val (devOf acc) true = true) ∧
    (h.entryOf acc true = .served → jr = false → room = false → exec (.deckWrite acc data mask cycle wrong) s = .next h) ∧
    (h.entryOf acc true = .served → jr = false → room = true →
      ∃ t, exec (.deckWrite acc data mask cycle wrong) s = .next t ∧
        (∀ a, (∀ w ∈ ws, a < w.1 ∨ w.1 + 64 ≤ a) → byte t a = byte s a) ∧
        ((∀ w ∈ ws, w.2.2.all id = true ∨ (s.poisoned w.1 = false ∧ wrong ≤ 2)) →
          ∀ w ∈ ws, t.deckBytes w.1 64 = mergeMask (s.deckBytes w.1 64) w.2.1 w.2.2) ∧
        (∀ w rest, ws = w :: rest → w.2.2.all id = false → s.poisoned w.1 = true →
          t.mem = s.mem ∧ ∃ u : State, t = u.memerr acc w.1)) ∧
    (h.entryOf acc true = .served → jr = true → exec (.deckWrite acc data mask cycle wrong) s = .next h) ∧
    (h.entryOf acc true = .served → jr = false → exec (.journaledWrite acc data mask) s = .next h) ∧
    (h.entryOf acc true = .waits →
      exec (.deckWrite acc data mask cycle wrong) s = .next h ∧ exec (.journaledWrite acc data mask) s = .next h) ∧
    (h.entryOf acc true = .served → jr = true → s.journaling acc.who = false → s.sidingUp acc.span.val = true →
      ∀ w, ws = [w] → (s.poisoned w.1 = false ∨ w.2.2.all id = true) →
        let k := acc.span.val % 2
        let old := s.siding k
        ∃ t, exec (.journaledWrite acc data mask) s = .next t ∧ t.mem = s.mem ∧
          (old.offer acc.part.val = .taken → (t.siding k).waiting = old.waiting ++
            [⟨⟨w.1, acc.part.val, (old.made + 1) % 2 ^ 64,
              if s.poisoned w.1 then none else some (s.deckBytes w.1 64)⟩, acc.who, bs.length, w.2.1, w.2.2⟩]) ∧
          (old.offer acc.part.val = .noBlock → t.siding k = old) ∧
          (old.offer acc.part.val = .full → acc.part.val ∈ (t.siding k).jfull ∧
            ∀ j, (s.part acc.part.val).stepJob = some j → j.committed = false →
              ∃ j', (t.part acc.part.val).stepJob = some j' ∧ j'.faulted = true ∧ j'.prog = true)) ∧
    (∀ w rest, (s.siding sd.val).waiting = w :: rest →
      let served := (s.deck (w.entry.addr / 2 ^ 32)).serves (w.entry.addr % 2 ^ 32)
      (served = false → exec (.journalEntryStored sd) s = .next s) ∧
      (served = true → w.data.length = 64 → w.mask.length = 64 →
        ∃ t, exec (.journalEntryStored sd) s = .next t ∧ (t.siding sd.val).waiting = rest ∧
          (t.siding sd.val).entries = withEntry (s.siding sd.val).entries w.entry ∧
          (t.siding sd.val).stored = ((s.siding sd.val).stored + 1) % 2 ^ 64 ∧
          (s.poisoned w.entry.addr = false ∨ w.mask.all id = true →
            t.deckBytes w.entry.addr 64 = mergeMask (s.deckBytes w.entry.addr 64) w.data w.mask) ∧
          (s.poisoned w.entry.addr = true → w.mask.all id = false → t.mem = s.mem) ∧
          ∀ a, a < w.entry.addr ∨ w.entry.addr + 64 ≤ a → byte t a = byte s a))

/-- Drains, refreshes, scrubs and retraining of decks (R251, R254, R255, R260, R261, R263). In a state whose memory
has its canonical form (an invariant, stated by itself): on a deck that is on, a drain of a buffer that holds 4
KiB, or a write 2 µs old, or whose channel has no read waiting, empties it, and an idle channel owes no refresh
while a loaded one postpones it, up to eight, after which each is forced and counted. A scrub write, with no
request waiting for its channel, zeroes one granule of a region to be scrubbed, once; completion zeroes the
regions. A calibration step runs where no request of its channel waits and it has been idle for 1 µs or the
span's rings stand still; its failing check and more bus errors than DK_RTTHR trigger retraining of a channel,
one channel at a time; when it ends, a write of the signal box that waited for the channel is made; a channel
that goes offline first faults the steps of the partitions on its span, and once none of them runs takes the
deck's contents and the regions 252 to 255 with it. -/
def Obligations.DeckUpkeep : Prop :=
  ∀ (span : Fin 16) (ch : Fin 64) (cycle errors : Nat) (temp : Byte) (waiting : Bool) (addr : BitVec 32) (s : State), s.memWf = true →
    let d := s.deck span.val
    let c := d.chan ch.val
    let byte (s : State) (a : Nat) : Byte := Tab.get deckFill s.mem a
    (d.pow = .on →
      (64 ≤ c.wbuf.length ∨ s.readQueue span.val ch.val = [] ∨ (∃ p ∈ c.wbuf, p.2 + 2000 ≤ cycle) →
       ∃ t, exec (.writeBufferDrain span ch cycle) s = .next t ∧ t.mem = s.mem ∧ ((t.deck span.val).chan ch.val).wbuf = [] ∧
        (t.deck span.val).busy = (d.busy + c.wbuf.length) % 2 ^ 64 ∧
        ∀ k, k ≠ ch.val → (t.deck span.val).chan k = d.chan k) ∧
      (∃ t, exec (.refresh span ch temp waiting) s = .next t ∧ t.mem = s.mem ∧
        (t.deck span.val).temp = temp.toNat ∧ (t.deck span.val).hot = decide (85 < temp.toNat) ∧
        let loaded := ((waiting = true ∨ s.waitingAt span.val ch.val ≠ []) ∧ d.retraining ≠ some ch.val) ∨ 64 ≤ c.wbuf.length
        ((t.deck span.val).chan ch.val).owed = (if ¬ loaded then 0 else if 8 ≤ c.owed then c.owed else c.owed + 1) ∧
        (t.deck span.val).forced = (if loaded ∧ 8 ≤ c.owed then min (d.forced + 1) (2 ^ 24 - 1) else d.forced))) ∧
    (d.scrub.contains (addr.toNat / 2 ^ 24) = true → d.serves (addr.toNat / 64 * 64) = true →
      s.waitingAt span.val (d.channel (addr.toNat / 64 * 64)) = [] →
      let g := span.val * 2 ^ 32 + addr.toNat / 64 * 64
      (d.scrubbed.contains (addr.toNat / 64) = true → exec (.scrubWrite span addr) s = .next s) ∧
      (d.scrubbed.contains (addr.toNat / 64) = false → ∃ t, exec (.scrubWrite span addr) s = .next t ∧
        ∀ a, byte t a = if g ≤ a ∧ a < g + 64 then 0 else byte s a)) ∧
    (d.scrub ≠ [] → d.retraining = none → ∃ t, exec (.scrubComplete span) s = .next t ∧ (t.deck span.val).scrub = [] ∧
      ∀ r ∈ d.scrub, ∀ k, k < 2 ^ 24 → byte t (span.val * 2 ^ 32 + r * 2 ^ 24 + k) = 0) ∧
    (let may := d.pow = .on ∧ d.retraining ≠ some ch.val ∧ s.waitingAt span.val ch.val = [] ∧
       (c.last + 1000 ≤ cycle ∨ s.spanQuiet span.val = true)
     let d' : Deck := { d with now := max d.now cycle }
     (may → exec (.calibrationStep span ⟨ch, cycle⟩ true) s = .next (s.setDeck span.val d') ∧
       exec (.calibrationStep span ⟨ch, cycle⟩ false) s = .next (s.setDeck span.val (d'.trigger ch.val))) ∧
     ∀ ok, ¬ may → exec (.calibrationStep span ⟨ch, cycle⟩ ok) s = .next s) ∧
    (d.rtthr < errors → exec (.channelRetrain span ch errors) s = .next (s.setDeck span.val (d.trigger ch.val))) ∧
    (d.pow = .on → d.offline ≠ some ch.val →
      (d.retraining = none → (d.trigger ch.val).retraining = some ch.val ∧ ((d.trigger ch.val).chan ch.val).wbuf = []) ∧
      (∀ k, d.retraining = some k → k ≠ ch.val →
        (d.trigger ch.val).retraining = some k ∧ ((d.trigger ch.val).chan ch.val).trigger = true)) ∧
    (∀ k, d.retraining = some k → d.failing = none → ∃ t, exec (.channelRetrainDone span) s = .next t ∧
      (t.deck span.val).retraining = (List.range 64).find? (fun k => (d.chan k).trigger) ∧ (s.stalled = [] → t.mem = s.mem) ∧
      ∀ dev bs, s.stalled = [(dev, bs)] → dev % 64 + bs.length ≤ 64 →
        let s1 := s.setDeck span.val d.nextRetrain
        let x := s1.deck (dev / 2 ^ 32)
        (x.retraining = some (x.channel (dev % 2 ^ 32)) → t.mem = s.mem ∧ t.stalled = s.stalled) ∧
        (x.retraining ≠ some (x.channel (dev % 2 ^ 32)) → s.mergesPoison dev bs.length = false →
          s.regionHolder (dev / 2 ^ 32) (dev / 2 ^ 24 % 256) = none →
          t.stalled = [] ∧ ∀ a, byte t a = if dev ≤ a ∧ a < dev + bs.length then bs.getD (a - dev) 0 else byte s a)) ∧
    (∀ k, d.retraining = some k → d.offline = none →
      (∀ p ∈ s.partsOn span.val, (s.part p).stepJob.any (fun j => j.done.isNone) = false) →
      ∃ t, exec (.channelOffline span) s = .next t ∧
      (t.deck span.val).offline = some k ∧
      (t.deck span.val).retraining = (List.range 64).find? (fun x => x != k && (d.chan x).trigger) ∧
      (∀ r ∈ [252, 253, 254, 255], r ∈ (t.deck span.val).withdrawn) ∧
      ∀ a, a < 2 ^ 32 → byte t (span.val * 2 ^ 32 + a) = 0) ∧
    (∀ k, d.retraining = some k → d.offline = none → 
      (∃ p ∈ s.partsOn span.val, (s.part p).stepJob.any (fun j => j.done.isNone) = true) →
      ∃ t, exec (.channelOffline span) s = .next t ∧ t.mem = s.mem ∧ (t.deck span.val).failing = some k ∧
      ∀ p ∈ s.partsOn span.val, ∀ j, (s.part p).stepJob = some j → j.committed = false →
        ∃ j', (t.part p).stepJob = some j' ∧ j'.faulted = true ∧ j'.prog = true)

/-- Scrub and repair orders (R9, R256, R262, R263, R264, R368, log entry 45). Admitted on a management session, a
scrub order of regions that exist and that no partition holds starts their scrub; of a held region it is
rejected with OWNERSHIP, and of one that does not exist with BOUNDS. A repair order of a deck that may be
repaired remaps the row to its bank's next spare, copying it in 64 data cycles, returns the offline channel, or
reinstates a withdrawn region; with no spare left, of a channel that is not offline or of a region not withdrawn
it is rejected with BOUNDS; of another deck it is rejected with STATE_CONFLICT. Which decks may be repaired, and
that the reply is sent when the order is accepted, are the model's readings (log entry 45). -/
def Obligations.DeckOrders : Prop :=
  ∀ (h : Mgmt) (x : Session) (regions : List (Nat × Nat)) (span : Fin 16) (ch : Fin 64) (bank : Fin 16) (row : Fin 2048)
    (region : Fin 256) (s : State), Admitted s h false false x →
    let s1 := heard s h x
    let d := s.deck span.val
    let used := Tab.get 0 d.spares (ch.val * 16 + bank.val)
    let key := (ch.val * 16 + bank.val) * 2048 + row.val
    let ok (y : Deck) : Host.Outcome State Fault Refusal := .next ((s1.setDeck span.val y).reply h stOk [])
    ((∀ r ∈ regions, s.regionHolder r.1 r.2 = none ∧ r.1 < 16 ∧ r.2 < 256) →
      exec (.scrub h regions) s = .next ((s1.startScrub regions).reply h stOk [])) ∧
    ((∃ r ∈ regions, s.regionHolder r.1 r.2 ≠ none) → exec (.scrub h regions) s = .next (s1.rejectMsg h 0xFF stOwnership)) ∧
    ((∀ r ∈ regions, s.regionHolder r.1 r.2 = none) → (∃ r ∈ regions, 16 ≤ r.1 ∨ 256 ≤ r.2) →
      exec (.scrub h regions) s = .next (s1.rejectMsg h 0xFF stBounds)) ∧
    (s.repairable span.val = true →
      (used < 64 → exec (.dkRpcmdRemapRow h span ch bank row) s = ok { d with
        busy := (d.busy + 64) % 2 ^ 64, remap := Tab.ins key (used + 1) d.remap, spares := Tab.ins (ch.val * 16 + bank.val) (used + 1) d.spares
        corr := Tab.del key d.corr }) ∧
      (64 ≤ used → exec (.dkRpcmdRemapRow h span ch bank row) s = .next (s1.rejectMsg h 0xFF stBounds)) ∧
      (d.offline = some ch.val → exec (.dkRpcmdReturnChannel h span ch) s = ok { d with offline := none }) ∧
      (d.offline ≠ some ch.val → exec (.dkRpcmdReturnChannel h span ch) s = .next (s1.rejectMsg h 0xFF stBounds)) ∧
      (region.val ∉ d.withdrawn → exec (.dkRpcmdReinstateRegion h span region) s = .next (s1.rejectMsg h 0xFF stBounds)) ∧
      (region.val ∈ d.withdrawn → d.offline = none →
        exec (.dkRpcmdReinstateRegion h span region) s = ok { d with withdrawn := setDel region.val d.withdrawn })) ∧
    (s.repairable span.val = false →
      let no : Host.Outcome State Fault Refusal := .next (s1.rejectMsg h 0xFF stConflict)
      exec (.dkRpcmdRemapRow h span ch bank row) s = no ∧ exec (.dkRpcmdReturnChannel h span ch) s = no ∧
      exec (.dkRpcmdReinstateRegion h span region) s = no)

/-- Flits, and the edges they cross (R250, R266, R267, R268, R269, R270, R271, R273, log entry 83). A flit whose
header check fails, or whose payload has three or four erroneous bytes, is asked for again, and the ninth failed
arrival of one flit, after eight replays, sends an active edge to retraining; another one ends the row of its
failures, and corrections are counted. A flit is told from others by its header and its payload together. Sent
again though it had been accepted it is dropped; while an older flit of its channel, source, destination and
route is still lacking it is left for that one's replay, so that their order is kept; else it is accepted, its
credit returns, and it goes on. At its destination a flit whose PART the place accepts is delivered, write data
with the address and the mask of its request; one that it does not accept is logged and answered by a negative
acknowledge, but a response, whose requester is there, faults that; a control write from another die than the
signal box is dropped and counted. Elsewhere a flit of the default route leaves by the side that route takes,
and one whose explicit route is not installed is logged and answered by a negative acknowledge. A replay,
counted once, sends the last flits of an active edge again, in order. More replays within a millisecond than
THRESH stop an active edge, which then holds its flits; when retraining is done a failing lane takes a spare or,
with none left, narrows the edge, which resumes from the oldest flit not accepted and then what it held, and
collective frames that waited for it go on. Narrowed below 25 lanes the edge fails in both directions, and every
step that has not committed is faulted and not repeated. Under which flit a failed arrival is counted whose
header cannot be read is the model's choice (log entry 83). -/
def Obligations.Flits : Prop :=
  (∀ (at_ : Fin 23) (inEdge : Fin 7) (f : Flit) (die side : Nat) (s : State), incoming at_.val inEdge.val = some (die, side) →
    let e := s.edge die side
    let key := e.failKey f
    let n := Tab.get 0 e.fails key + 1
    let asked : Host.Outcome State Fault Refusal := .next (s.setEdge die side { e with
      fails := Tab.set 0 e.fails key n
      st := if 8 < n ∧ e.st = .active then .retraining else e.st })
    (flitOk f = false → exec (.flitReceive at_ inEdge f) s = asked) ∧
    (f.wrong = 3 ∨ f.wrong = 4 → exec (.flitReceive at_ inEdge f) s = asked) ∧
    (flitOk f = true → f.wrong ≤ 2 →
      let g : Flit := { f with wrong := 0 }
      let id := flitId f
      let lacking := (e.buf.filter (fun x => !x.2)).map (·.1)
      let oldest := lacking.find? (fun y => orderKey y == orderKey f)
      let fails := Tab.set 0 e.fails (id + 1) 0
      let e1 : Edge := { e with
        fails := if e.buf.any (fun x => flitId x.1 == id) then fails else Tab.set 0 fails 0 0
        corr := if f.wrong = 0 then e.corr else e.corr + 1 }
      let s1 := (s.setEdge die side e1).acceptFlit die side g
      (id ∈ e.dups → exec (.flitReceive at_ inEdge f) s = .next (s.setEdge die side { e1 with dups := e.dups.erase id })) ∧
      (id ∉ e.dups → (∀ y ∈ lacking, flitId y ≠ id) → (∃ x ∈ e.buf, flitId x.1 = id) →
        exec (.flitReceive at_ inEdge f) s = .next (s.setEdge die side e1)) ∧
      (id ∉ e.dups → ∀ y, oldest = some y → flitId y ≠ id → (∃ z ∈ lacking, flitId z = id) →
        exec (.flitReceive at_ inEdge f) s = .next s) ∧
      (id ∉ e.dups → (∃ y, oldest = some y ∧ flitId y = id) ∨ (∀ x ∈ e.buf, flitId x.1 ≠ id) →
        let becomes (t : State) : Prop := exec (.flitReceive at_ inEdge f) s = .next t
        becomes (s1.routeFlit inEdge.val at_.val g) ∧
        (f.dst.toNat = at_.val →
          (f.type.toNat < 7 → s1.acceptsPart at_.val g = true →
            becomes ((s1.trackWrite at_.val g).emit (s1.delivered at_.val g))) ∧
          (f.type.toNat < 7 → s1.acceptsPart at_.val g = false →
            let s2 := s1.note f.part.toNat (256 + at_.val) 269 0
            becomes (if f.type.toNat = 3 ∨ f.type.toNat = 4 then s2.nakArrives at_.val g
              else s2.inject at_.val (nakOf at_.val g))) ∧
          (f.type.toNat = 7 → becomes ((s1.emit (.deliver at_.val g)).nakArrives at_.val g)) ∧
          (f.type.toNat = 8 → becomes (if f.srcd.toNat = 22 then s1.emit (.deliver at_.val g)
            else { s1 with ctlDrops := Tab.ins at_.val (min (Tab.get 0 s1.ctlDrops at_.val + 1) (2 ^ 32 - 1)) s1.ctlDrops }))) ∧
        (f.dst.toNat ≠ at_.val → forwards at_.val f = true → s1.nextSide at_.val g = none →
          becomes ((s1.note f.part.toNat (256 + at_.val) 271 0).inject at_.val (nakOf at_.val g))) ∧
        (∀ k rest, f.dst.toNat ≠ at_.val → forwards at_.val f = true → f.deflt = true →
          defaultRoute at_.val f.dst.toNat = k :: rest → becomes (s1.sendFlit inEdge.val at_.val k g))))) ∧
  (∀ (die : Fin 23) (side : Fin 7) (n fc : Nat) (s : State),
    let e := s.edge die.val side.val
    let l := e.buf.drop (e.buf.length - n)
    e.st = .active → exec (.flitReplay ⟨die, side⟩ n fc) s = .next ((s.setEdge die.val side.val { e with
      dups := e.dups ++ (l.filter (·.2)).map (fun x => flitId x.1)
      replays := min (e.replays + 1) (2 ^ 16 - 1)
      recent := fc :: e.recent.filter (fun t => decide (fc < t + 1200000)) }).emits
        (l.map (fun x => .flit die.val side.val (wireBytes x.1))))) ∧
  (∀ (die : Fin 23) (side : Fin 7) (fc : Nat) (s : State),
    let e := s.edge die.val side.val
    let recent := e.recent.filter (fun t => decide (fc < t + 1200000))
    (e.st = .active → e.thresh < recent.length →
      exec (.edgeRetrain ⟨die, side⟩ fc) s = .next (s.setEdge die.val side.val { e with st := .retraining })) ∧
    (recent.length ≤ e.thresh → exec (.edgeRetrain ⟨die, side⟩ fc) s = .next s)) ∧
  (∀ (die : Fin 23) (side : Fin 7) (failing : Nat) (s : State),
    let e := s.edge die.val side.val
    let l := e.buf.dropWhile (·.2)
    let back (lanes spares : Nat) : State := (((s.setEdge die.val side.val { e with
      st := .active, lanes := lanes, spares := spares, fails := [], recent := []
      dups := e.dups ++ (l.filter (·.2)).map (fun x => flitId x.1) }).emits
        (l.map (fun x => .flit die.val side.val (wireBytes x.1)))).serveEdge die.val side.val).freeColls
    (e.st = .retraining → failing ≤ e.spares →
      exec (.edgeRetrainDone die side failing) s = .next (back e.lanes (e.spares - failing))) ∧
    (e.st = .retraining → e.spares < failing → 25 ≤ e.lanes + e.spares - failing →
      exec (.edgeRetrainDone die side failing) s =
        .next (back (e.lanes + e.spares - failing) 0)) ∧
    (e.st = .retraining → e.spares < failing → e.lanes + e.spares - failing < 25 →
      ∃ t : State, exec (.edgeRetrainDone die side failing) s = .next t.freeColls ∧ t.mem = s.mem ∧
        (t.edge die.val side.val).st = .failed ∧
        (∀ d k, backEdge die.val side.val = some (d, k) → (t.edge d k).st = .failed) ∧
        ∀ p j, (s.part p).stepJob = some j → j.committed = false →
          ∃ j', (t.part p).stepJob = some j' ∧ j'.faulted = true ∧ j'.prog = true))

/-- Narid links (R277, R278, R279, R320, R352, R366, log entry 84). A link that is DOWN trains once its far end is
detected, is ACTIVE after training, where a link that came from DOWN sends its certificates and a fresh share,
and goes back to DOWN, without keys, when training or the handshake fails or the cable is detached. With
attestation, a handshake that verifies gives each direction the key that the shared secret, the transcript hash
and its byte derive (which byte names which direction is the model's choice, log entry 84), and the device signs
the transcript; without, the device rejects it. A handshake repeated on an ACTIVE link does the same, under a
fresh share, and one that is rejected takes the link down. An idle link goes to STANDBY, and to SLEEP where the
policy permits; a frame to send takes it back. More pre-FEC symbol errors than the threshold send an ACTIVE link
to RETRAIN. Retraining replays what was not acknowledged; its third failure in a row ends in FAILED and is
reported, which fails the copies that drain over the link. A port whose links are settled takes a new
configuration. -/
def Obligations.NaridLinks : Prop :=
  ∀ (port : Fin 16) (half : Bool) (h : Mgmt) (x : Session) (value : BitVec 32) (agreed : KeyShare) (errors symbols : Nat) (s : State),
    let p := s.port port.val
    let l := s.link port.val half
    let becomes (l : Link) : Host.Outcome State Fault Refusal := .next (s.setLink port.val half l)
    let down := s.linkDown port.val half
    let keyed (s : State) : State := ((s.setLink port.val half { s.link port.val half with
      keys := true, key := linkKey (Config.directionByte port.val half) (s.link port.val half).own agreed
      rkey := linkKey (Config.farByte port.val half) (s.link port.val half).own agreed
      fresh := false, sent := 0, taken := 0 }).emit
        (.handshake port.val half (s.transcriptSig agreed.transcript))).serve port.val half
    let started := s.shakeStart port.val half
    let trained := s.setPort port.val { p.setHalf half { l with st := .active, badRetrains := 0 } with retrains := 0 }
    (l.st = .down → s.il.locked = false →
      exec (.farEndDetected port half) s = becomes { l with st := .training, fresh := true }) ∧
    (l.st ≠ .disabled → l.st ≠ .failed → exec (.cableDetached port half) s = .next down) ∧
    (down.link port.val half).st = .down ∧ (down.link port.val half).keys = false ∧
    (down.link port.val half).key = [] ∧ (down.link port.val half).rkey = [] ∧
    (l.st = .training → exec (.trainingDone port half false) s = .next down ∧
      exec (.trainingDone port half true) s =
        .next ((if l.fresh then trained.shakeStart port.val half else trained).serve port.val half)) ∧
    (s.il.attested = true → (started.link port.val half).own = (s.random 48).1 ∧ started.outbox = s.outbox ++
      [.handshake port.val half (s.devCerts ++ ephemeralShare (s.random 48).1)]) ∧
    (s.il.attested = false → started = s) ∧
    (l.st = .active → l.keys = false →
      (s.il.attested = true → exec (.naridHandshake port half true true (some agreed)) s = .next (keyed s)) ∧
      (s.il.attested = true → ∀ a b c, a = false ∨ b = false ∨ c = none → exec (.naridHandshake port half a b c) s =
        .next (down.notifyOperator 0xFF 366 stSignature)) ∧
      (s.il.attested = false → ∀ a b c, ∃ code, exec (.naridHandshake port half a b c) s =
        .next (down.notifyOperator 0xFF 352 code))) ∧
    (l.st = .active → l.keys = true →
      (s.il.attested = true → exec (.naridRekey ⟨port, half⟩ (some agreed) true true) s = .next (keyed started) ∧
        ∀ a b c, a = false ∨ b = false ∨ c = none → exec (.naridRekey ⟨port, half⟩ c a b) s =
          .next ((started.linkDown port.val half).notifyOperator 0xFF 366 stSignature)) ∧
      (s.il.attested = false → ∀ a b c, ∃ code, exec (.naridRekey ⟨port, half⟩ c a b) s =
        .next (down.notifyOperator 0xFF 352 code))) ∧
    (l.st = .active → p.idle ≠ 0 → exec (.linkIdle port half) s = becomes { l with st := .standby }) ∧
    (l.st = .standby → s.power.nsleep = true → exec (.linkSleep port half) s = becomes { l with st := .sleep }) ∧
    (l.st = .standby → exec (.linkFrameReady port half) s =
      .next ((s.setLink port.val half { l with st := .active }).serve port.val half)) ∧
    (l.st = .sleep → exec (.linkFrameReady port half) s = becomes { l with st := .training, fresh := false }) ∧
    (l.st = .active → (if p.berthr = 0 then 24 * symbols < 100000 * errors else symbols < 10 ^ p.berthr * errors) →
      ∃ t, exec (.linkRetrain ⟨port, half⟩ ⟨errors, symbols⟩) s = .next t ∧ t.mem = s.mem ∧ t.outbox = s.outbox ∧
        (t.link port.val half).st = .retrain ∧ (t.port port.val).retrains = min 15 (p.retrains + 1) ∧
        (t.link port.val half).buf.map (·.wire) = l.buf.map (·.wire)) ∧
    (l.st = .retrain →
      exec (.linkRetrainDone port half true) s =
        .next (((s.setLink port.val half { l with st := .active, badRetrains := 0 }).emits
          (l.buf.map (fun f => .narid port.val half f.wire))).serve port.val half) ∧
      (l.badRetrains < 2 → exec (.linkRetrainDone port half false) s = .next (s.setPort port.val
        { p.setHalf half { l with badRetrains := l.badRetrains + 1 } with retrains := min 15 (p.retrains + 1) })) ∧
      (2 ≤ l.badRetrains → exec (.linkRetrainDone port half false) s =
        .next (((s.setLink port.val half { l with st := .failed, badRetrains := 0 }).notifyOperator 0xFF 277 port.val).failLink
          port.val half))) ∧
    (Admitted s h false false x →
      (∀ q, p.configure value.toNat = some q → exec (.naridPortConfiguration h port value) s =
        .next (((heard s h x).setPort port.val q).reply h stOk [])) ∧
      (p.configure value.toNat = none → exec (.naridPortConfiguration h port value) s =
        .next ((heard s h x).rejectMsg h 0xFF stConflict)))

/-- Narid frames (R276, R277, R286, R313, R319, R341, R342, R366, R395, log entry 47, log entry 82). On an ACTIVE
link, a frame that the FEC cannot correct is counted and asked for again, and so is one whose AES-256-GCM tag
does not verify under the receiving key; of the others, a collective or bulk frame decrypted, the one that
follows in sequence is accepted, acknowledges what it names and takes effect, and returns its credit, unless
what it writes has to wait, and another is discarded; a collective or bulk frame turns the fabric on first. A
frame whose tag does not verify is logged. The symbols that the FEC corrected are counted. A negative
acknowledge replays from the frame it names, and a frame replayed eight times in a row sends the link to
RETRAIN. A bulk frame's bytes enter the copy they belong to, which is complete with the last frame of its
manifest, one of fewer than 1,024 bytes; a frame that no partition takes is counted and logged. How the device
returns a credit and how a manifest ends are the model's choices (log entries 47 and 82). -/
def Obligations.NaridFrames : Prop :=
  ∀ (port : Fin 16) (half : Bool) (f : NFrame) (tag : List Byte) (cor fc : Nat) (seq : BitVec 16) (s : State),
    let p : Port := { s.port port.val with pcorr := ((s.port port.val).pcorr + cor) % 2 ^ 64 }
    let l := s.link port.val half
    let nonce := farNonce port.val half (l.countOf f.seq.toNat)
    let verifies := l.keys = true ∧ tag = gcmTag l.rkey nonce (frameHeader f) f.data
    let g : NFrame := if f.cls = 0 then f else { f with data := gcmCrypt l.rkey nonce f.data }
    let n := f.gtag.toNat
    let on : State := if f.cls = 0 then s else s.fabricOn
    let place := s.copyPlace (bits n 40 24) (bits n 26 12) (bits n 10 16)
    (l.st = .active →
      (∃ t, exec (.naridFrameReceive port half f (.failed cor) tag fc) s = .next t ∧
        t.port port.val = { s.port port.val with uncorr := min ((s.port port.val).uncorr + max 1 cor) (2 ^ 16 - 1) } ∧
        t.outbox = s.outbox ++ [.nak port.val half f.seq.toNat] ∧ t.mem = s.mem) ∧
      (f.cls ≠ 0 → ¬ verifies →
        ∃ t, exec (.naridFrameReceive port half f (.corrected cor) tag fc) s = .next t ∧
          t.port port.val = { p with authfail := min (p.authfail + 1) (2 ^ 8 - 1) } ∧
          t.outbox = s.outbox ++ [.nak port.val half f.seq.toNat] ∧ t.mem = s.mem ∧
          ∃ x, t.log.getLast? = some x ∧ x.part = 0xFF ∧ x.node = 256 + 16 + port.val / 4 ∧
            x.reg = 0x1008 + 0x40 * (port.val % 4)) ∧
      (f.cls = 0 ∨ verifies →
        (f.seq.toNat = (l.rxseq + 1) % 65536 → l.rxseq < 65536 → on.frameWaits port.val g = false →
          exec (.naridFrameReceive port half f (.corrected cor) tag fc) s =
            .next (((on.setPort port.val
              (p.setHalf half ({ l with rxseq := f.seq.toNat, taken := l.taken + 1 }.acked f.ack.toNat))).frameArrives
                port.val half g fc).returnCredit port.val half f.cls.toNat)) ∧
        (f.seq.toNat = (l.rxseq + 1) % 65536 → l.rxseq < 65536 → on.frameWaits port.val g = true →
          exec (.naridFrameReceive port half f (.corrected cor) tag fc) s = .next on) ∧
        (f.seq.toNat ≠ (l.rxseq + 1) % 65536 → l.rxseq < 65536 →
          exec (.naridFrameReceive port half f (.corrected cor) tag fc) s = .next (s.setPort port.val p))) ∧
      (l.buf.any (fun g => g.f.seq == seq) = true →
        ∃ t, exec (.naridNak port half seq) s = .next t ∧ t.mem = s.mem ∧
          t.outbox = s.outbox ++
            (l.buf.dropWhile (fun g => g.f.seq.toNat != seq.toNat)).map (fun g => .narid port.val half g.wire) ∧
          (t.link port.val half).st = (if (l.buf.takeWhile (fun g => g.f.seq.toNat != seq.toNat)).any (fun g => 8 ≤ g.times) ∨
            (l.buf.dropWhile (fun g => g.f.seq.toNat != seq.toNat)).any (fun g => 8 ≤ g.times + 1)
            then .retrain else .active))) ∧
    (l.st = .active → l.keys = true →
      (s.copyOwner (bits n 40 24) = none → ∃ t, exec (.bulkFrameReceive port half f) s = .next t ∧ t.mem = s.mem ∧
        t.port port.val = { s.port port.val with tagdrop := min ((s.port port.val).tagdrop + 1) (2 ^ 8 - 1) } ∧
        ∃ x, t.log.getLast? = some x ∧ x.part = 0xFF ∧ x.node = 256 + 16 + port.val / 4 ∧
          x.reg = 0x1008 + 0x40 * (port.val % 4)) ∧
      (∀ part, s.copyOwner (bits n 40 24) = some part → s.fabricOn.bulkWaits f = true →
        exec (.bulkFrameReceive port half f) s = .next s.fabricOn) ∧
      (∀ part, s.copyOwner (bits n 40 24) = some part → s.fabricOn.bulkWaits f = false →
        ∃ t c, exec (.bulkFrameReceive port half f) s = .next t ∧ t.mem = s.mem ∧
          c ∈ (t.siding place).copies ∧ c.base = bits n 40 24 ∧ c.pos = bits n 26 12 ∧
          c.ser = bits n 10 16 ∧
          (bits n 38 2 = 0 → (∀ o ∈ (s.siding place).copies, Tab.wf 0 o.data = true) →
            Tab.getRun 0 c.data f.offset f.data.length = f.data) ∧
          (bits n 38 2 ≠ 0 → f.data.length < 1024 → c.complete = true)))

/-- Collective invocations (R285, R289, R290, R292, R294, R295). Once what it reads and writes need not wait, an
invocation starts if its STOK holds NCONTRIB, which it takes, and the one before it has ended or was abandoned,
and forms the device's contributions unless it gathers. The root joins a chunk once every contribution is
complete, in position order, and sends the result with its digest; the flags go to the group. Chunks received
whole are posted in ascending order, and a posted chunk is compared with its digest, a difference being noted.
Once every chunk has been checked the member verdicts go out; position 0, with the verdicts of all positions,
sends the group verdict, which passes if each passes. -/
def Obligations.Collectives : Prop :=
  ∀ (slot : Fin 16) (bucket : Fin 64) (chunk : Fin 1024) (fc : Nat) (g : Group) (s : State),
    s.group slot.val = some g → bucket.val < g.rcd.buckets.length →
    let b := bucket.val
    let c := chunk.val
    let r := g.rcd
    let x := g.invOf b
    let stok := (r.bucket b).stok
    let n := (s.part g.part).counter 0 .device stok
    let k := r.contrib.length
    let ready (rd wr : List (Nat × Nat)) : Prop := s.engineReady g.part rd wr = true
    (n < k → exec (.invocationStart slot bucket fc) s = .next s) ∧
    (ready (r.startReads b) (r.startWrites b) → k ≤ n → x.live = false ∨ x.abandon = true →
      let s1 := (s.setPart g.part ((s.part g.part).setCounter 0 .device stok (n - k))).onInv slot.val b (fun y => y.starts fc)
      exec (.invocationStart slot bucket fc) s = .next (if r.op = 2 then s1 else
        (List.range (r.chunks b)).foldl (fun s c => r.held.foldl (fun s p => s.formContribution slot.val b fc c p) s) s1)) ∧
    (∀ off, ready (r.joinReads b c) (r.joinWrites b c) →
      r.offOf (r.root b c) = some off → x.live = true → x.abandon = false → c ∉ x.joined → c < r.chunks b →
      (∀ parts, r.op ≠ 2 → (∀ p, p < r.gsize → Tab.get 0 x.full (chunkKey c p) ≠ 0) →
        s.readAreas (some (homeDie b c)) g.part (r.chunkLen b c) ((List.range r.gsize).map (fun p => r.stageAt b c p)) = .ok parts →
        let y := r.result parts (r.chunkLen b c / r.elt)
        exec (.rootJoin slot bucket chunk) s = .next ((((s.engineFetch g.part (r.joinReads b c)).onInv slot.val b (fun z =>
          ({ z with joined := setIns c z.joined, flags := z.flags ||| y.2 } : Invoc).noteLags r c)).groupFlags
            slot.val y.2).spread slot.val b c y.1)) ∧
      (∀ d, r.op = 2 →
        s.engineRead (some (homeDie b c)) g.part (r.contrib.headD 0 + (r.bucket b).srcoff + off + c * r.chunk) (r.chunkLen b c) = .ok d →
        exec (.rootJoin slot bucket chunk) s = .next (((s.engineFetch g.part (r.joinReads b c)).onInv slot.val b (fun z =>
          { z with joined := setIns c z.joined })).spread slot.val b c d))) ∧
    (r.hosts = [] → x.abandon = false → r.chunkLen b c ≤ Tab.get 0 x.rgot (chunkKey c r.mypos) →
      exec (.resultReceive slot bucket chunk) s = .next (State.postChunks slot.val b r.mypos
        ((r.receives b r.mypos).drop (Tab.get 0 x.posted r.mypos)) s)) ∧
    (∀ d tr, ready (r.joinWrites b c) [] → r.hosts = [] → x.abandon = false → chunkKey c r.mypos ∉ x.checked →
      Tab.get 0 x.trailer (chunkKey c r.mypos) = tr + 1 →
      (r.receives b r.mypos).idxOf c < Tab.get 0 x.posted r.mypos →
      s.engineRead (some (homeDie b c)) g.part (r.dstAt b c r.mypos) (r.chunkLen b c) = .ok d →
      exec (.digestCheck slot bucket chunk) s = .next ((s.engineFetch g.part
        [(r.dstAt b c r.mypos, r.chunkLen b c)]).onInv slot.val b (fun z => { z with
        checked := setIns (chunkKey c r.mypos) z.checked, digest := z.digest || decide (crc64 d ≠ tr) }))) ∧
    (x.live = true → x.verdictSent = false → (∀ p ∈ r.held, ∀ c ∈ r.receives b p.1, chunkKey c p.1 ∈ x.checked) →
      exec (.memberVerdict slot bucket) s = .next ((if r.op = 2 then s.onInv slot.val b (fun z => z.gatherLags r b)
        else s).sendVerdicts slot.val b)) ∧
    (∀ off, ready r.lagRange r.lagRange → r.offOf 0 = some off → (∀ p, p < r.gsize → ∃ q ∈ x.verdicts, q.1 = p) →
      let v := groupVerdictOf x.verdicts
      (v.pass = true ↔ ∀ q ∈ x.verdicts, q.2.pass = true) ∧
      exec (.groupVerdictSend slot bucket) s = .next (((List.range r.gsize).foldl (fun s p =>
        if (r.offOf p).isSome then s else s.sendGroup slot.val g p (g.tag 3 p b 0) 0 (verdictBytes v)) s).verdictArrives
          slot.val b v))

/-- Group verdicts and time-outs (R296, R297, R298, R299). Where what it writes need not wait, a group verdict acts:
PASS of an invocation that is known ends it, counts it and adds the flags; FAIL raises the epoch by one, whether
or not the invocation is known, records POISONED in the group fault where CAUSE holds DIGEST and otherwise
ABANDON, DUP or both, as CAUSE says, with, for a first fault where the verdicts were collected, the first
position of theirs that failed, leaves only invocations that have started, and faults the step that has not
committed, unless the invocation was abandoned. A time-out with a frame awaited ends it, records LOST, and no
other bit, and, for a first fault, the lowest position awaited, and faults the step, which is not repeated. -/
def Obligations.GroupVerdicts : Prop :=
  ∀ (slot : Fin 16) (bucket : Fin 64) (v : Verdict) (fc : Nat) (g : Group) (s : State),
    s.group slot.val = some g → bucket.val < g.rcd.buckets.length →
    let b := bucket.val
    let x := g.invOf b
    (s.engineReady g.part g.rcd.lagRange g.rcd.lagRange = true →
      (v.pass = true → Tab.find g.inv b ≠ none →
        ∃ (t : State) (h : Group), exec (.groupVerdict slot bucket v) s = .next t ∧ t.group slot.val = some h ∧
          h.done = (g.done + 1) % 2 ^ 64 ∧ h.flags = g.flags ||| v.flags ∧ h.slowest = v.slowPos.toNat ∧
          h.epoch = g.epoch ∧ h.fault = g.fault ∧ h.inv = Tab.del b g.inv) ∧
      (v.pass = true → Tab.find g.inv b = none → exec (.groupVerdict slot bucket v) s = .next s) ∧
      (v.pass = false → ∃ t h, exec (.groupVerdict slot bucket v) s = .next t ∧ t.group slot.val = some h ∧
        h.epoch = (g.epoch + 1) % 1024 ∧ h.done = g.done ∧ h.inv = (Tab.del b g.inv).filter (fun p => p.2.live) ∧
        t.mem = s.mem ∧
        (v.cause.toNat.testBit 0 = true → h.fault = g.fault ||| 1) ∧
        (v.cause.toNat.testBit 0 = false → h.fault = g.fault ||| ((if v.cause.toNat.testBit 1 then 2 else 0) |||
          (if v.cause.toNat.testBit 2 then 8 else 0))) ∧
        (∀ q, g.fault = 0 → x.verdicts.find? (fun q => !q.2.pass) = some q → h.fpos = q.1) ∧
        (∀ j, x.abandon = false → (s.part g.part).stepJob = some j → j.committed = false →
          ∃ j', (t.part g.part).stepJob = some j' ∧ j'.faulted = true ∧ j'.prog = j.prog))) ∧
    (x.live = true → x.awaits g.rcd b ≠ [] → x.start + g.rcd.timeout * 1200000 ≤ fc →
      ∃ t h, exec (.collectiveTimeout slot bucket fc) s = .next t ∧ t.group slot.val = some h ∧
        h.fault = g.fault ||| 4 ∧ h.inv = Tab.del b g.inv ∧ t.mem = s.mem ∧
        (g.fault = 0 → h.fpos ∈ x.awaits g.rcd b ∧ ∀ p ∈ x.awaits g.rcd b, h.fpos ≤ p) ∧
        ∀ j, (s.part g.part).stepJob = some j → j.committed = false →
          ∃ j', (t.part g.part).stepJob = some j' ∧ j'.faulted = true ∧ j'.prog = true)

/-- Caps, clock steps, and domains that sleep and wake (R323, R394, R395, R398, R399, R402, R404). Every evaluation
comes at the next multiple of 2,048 ticks, and on a device that has not tripped sets the device step: one more
above the cap, one less after four evaluations in a row below 97 percent, at most 12; each span's step rises
above 100 degrees of its die or 92 of its deck. An awake ring applies the larger of the two. A trip turns the
device off. A ring that may sleep is off with its random streams kept; one that may wake has its reset values
with its streams put back. The uncores go off when nothing is left to do, with decks in self-refresh or off, and
come on; CORES sleeps with no order posted and none in evaluation, and every cause wakes it. What stands for the
periodic evaluation, and when a domain turns off, are the model's readings (log entries 56 and 74). -/
def Obligations.PowerManagement : Prop :=
  ∀ (mw : Nat) (dies decks : List Nat) (ring : Fin 256) (span : Fin 16) (cause : WakeCause) (s : State),
    let p := s.power
    let low := if mw * 100 < p.cap * 1000 * 97 then p.low + 1 else 0
    (∃ t, exec (.capEvaluation mw dies decks) s = .next t ∧ t.mem = s.mem ∧ t.power.tick = (p.tick / 2048 + 1) * 2048 % 2 ^ 64 ∧
      (p.tripped = true → t.power = { p with tick := (p.tick / 2048 + 1) * 2048 % 2 ^ 64 }) ∧
      (p.tripped = false → t.power.power = mw / 1000 ∧
        t.power.step = (if p.cap * 1000 < mw then min 12 (p.step + 1) else if low = 4 then p.step - 1 else p.step) ∧
        ∀ k x, k < 16 → p.therm[k]? = some x →
          let die := dies.getD k 0
          let deck := decks.getD k 0
          let cool := if die < 97 ∧ deck < 89 then x.cool + 1 else 0
          ∃ y, t.power.therm[k]? = some y ∧ y.step = (if 100 < die ∨ 92 < deck then min 12 (x.step + 1)
            else if cool = 4 then x.step - 1 else x.step))) ∧
    ((s.ring ring.val).awake = true → exec (.ringClockStep ring) s = .next { s with power := { p with
      ringStep := Tab.set 0 p.ringStep ring.val (max p.step (p.therm.getD (ring.val / 16) ⟨0, 0⟩).step) } }) ∧
    (p.tripped = false → ∃ t, exec (.thermalTrip span) s = .next t ∧ t.power.tripped = true ∧
      t.lands.thermtrip = false ∧ t.meter = s.meter ∧ t.il.boot = .none_ ∧ t.power.unc = false ∧
      ∀ k, (t.ring k).awake = false) ∧
    (s.maySleep ring.val = true → ∃ t, exec (.ringSleep ring) s = .next t ∧ (t.ring ring.val).awake = false ∧
      ((∀ q, s.partOf ring.val = some q → (s.part q).ending = false) → ∀ k, k < 16 → ∀ c,
        (s.ring ring.val).cl[k]? = some c → t.srOf (ring.val * 16 + k) = c.sr)) ∧
    (∀ q, s.partOf ring.val = some q → s.mayWake ring.val = true → ∃ t, exec (.ringWake ring []) s = .next t ∧
      (t.ring ring.val).awake = true ∧ (t.ring ring.val).wakes = (s.ring ring.val).wakes + 1 ∧
      (t.ring ring.val).now = 0 ∧ (t.ring ring.val).tok = [] ∧
      (∀ k, k < 16 → ((t.ring ring.val).get k).sr = s.srOf (ring.val * 16 + k)) ∧ t.power.unc = true) ∧
    (p.unc = true → s.fabricIdle = true → ∃ t, exec .uncoreOff s = .next t ∧ t.mem = s.mem ∧ t.power.unc = false ∧
      ∀ k, k < 16 → (s.deck k).pow = .on ∨ (s.deck k).pow = .selfRefresh →
        (t.deck k).pow = (if p.deckoff = true ∧ s.granted k = false then .off else .selfRefresh)) ∧
    (s.il.boot = .booted → ∃ t, exec .uncoreOn s = .next t ∧ t.mem = s.mem ∧ t.power.unc = true ∧
      (p.unc = false → ∀ k, k < 16 → (s.deck k).pow = .selfRefresh → s.granted k = true → (t.deck k).pow = .on)) ∧
    (s.anyPosted = false → s.evaluating = false → exec .coresSleep s = .next { s with power := { p with cores := false } }) ∧
    (s.anyPosted = true ∨ s.evaluating = true → exec .coresSleep s = .next s) ∧
    (s.power.sbOn = true → exec (.coresWake cause) s = .next { s with power := { p with cores := true } })

/-- Resets (R404, R407, R410, Table 16.7 of 16_power_clocks_reset.md). Every reset leaves the meter, the fuses, the
flash and the repair records as they were, every ring asleep, no partition, and the boot still to come, with its
cause in SB_RSTCAUSE; PWROK and a power-on reset count as the power-on cause. A reset whose condition is not
present does nothing; PERST#, SYS_RST_N, the loss and the return of the reference set what they name. Which
state beside Table 16.7's a reset keeps is the model's reading (log entry 55). -/
def Obligations.Resets : Prop :=
  ∀ (s : State),
    let clean (t : State) : Prop := t.meter = s.meter ∧ t.repair = s.repair ∧ t.il.lc = s.il.lc ∧
      t.il.floor = s.il.floor ∧ t.il.anchor = s.il.anchor ∧ t.il.flashA = s.il.flashA ∧ t.il.flashB = s.il.flashB ∧
      t.il.vkrev = s.il.vkrev ∧ t.il.bootcnt = s.il.bootcnt ∧ t.il.ceiling = s.il.ceiling ∧
      t.il.boot = .none_ ∧ t.power.tick = 0 ∧ t.pending = s.pending ∧ (∀ k, (t.ring k).awake = false) ∧
      ∀ k, t.part k = .reset
    let done (c : Instr) (cause : Nat) : Prop := ∃ t, exec c s = .next t ∧ clean t ∧
      t.power.rstcause = (if s.power.tripped = true ∧ cause ≠ 1 then 0x20 else cause)
    done .pwrok 0x01 ∧ done .powerOnReset 0x01 ∧ done .perst 0x02 ∧ done (.sysRstN true) 0x04 ∧ done .referenceLoss 0x10 ∧
    (s.lands.perst = false → done (.deviceReset .perst) 0x02) ∧
    (s.lands.sysRst = false → done (.deviceReset .sysRst) 0x04) ∧
    (s.power.ordered = true → done (.deviceReset .order) 0x08) ∧
    (s.power.refLost = true → done (.deviceReset .refLoss) 0x10) ∧
    (s.power.tripped = true → done (.deviceReset .thermTrip) 0x20) ∧
    (s.lands.perst = true → exec (.deviceReset .perst) s = .next s) ∧
    (s.lands.sysRst = true → exec (.deviceReset .sysRst) s = .next s) ∧
    (s.power.ordered = false → exec (.deviceReset .order) s = .next s) ∧
    (s.power.refLost = false → exec (.deviceReset .refLoss) s = .next s) ∧
    (s.power.tripped = false → exec (.deviceReset .thermTrip) s = .next s) ∧
    (∃ t, exec .perst s = .next t ∧ t.lands.perst = false) ∧
    (∃ t, exec (.sysRstN true) s = .next t ∧ t.lands.sysRst = false) ∧
    (∃ t, exec .referenceLoss s = .next t ∧ t.power.refLost = true) ∧
    exec (.sysRstN false) s = .next { s with lands := { s.lands with sysRst := true } } ∧
    exec .referenceReturn s = .next { s with power := { s.power with refLost := false } }

/-- The boot, the interlocking and the board page (R345, R349, R351, R352, R354, R401, R406, R408, R420, R422, Table
14.7 of 14_secrecy.md). From a reset whose lands, reference and temperature permit it, the boot starts slot A,
else slot B, whichever verifies first (a BLANK device boots a manufacturing image alone), with its SVN and one
more boot counted, and the decks hold zeros; with neither verifying the device is in recovery. A mismatch of the
lockstep cores locks the device, ends every session and every key, and sets the PF's internal error. A cap
within 1,000 to 3,600 W is taken from the board page, another is answered with BOUNDS and logged, and a locked
device takes none; a write of the offset alone points the next read; the I3C target takes its dynamic address.
What the boot does without its certificate or its repair record is the model's reading (log entry 57). -/
def Obligations.BootAndLock : Prop :=
  ∀ (slotA slotB : FwImage) (idOk repOk : Bool) (offset : Byte) (bytes : List Byte) (lo hi : Nat) (addr : BitVec 7) (s : State),
    let a := s.il.flashA.getD slotA
    let b := s.il.flashB.getD slotB
    (s.il.boot = .none_ → s.power.refLost = false → s.power.tripped = false → s.lands.pwrok = true →
      s.lands.sysRst = true → s.lands.openSense = [] → s.tap.holding = none →
      ∃ t, exec (.boot slotA slotB idOk repOk) s = .next t ∧
        (∀ im, (if s.il.verifies a = true then some a else if s.il.verifies b = true then some b else none) = some im →
          t.il.boot = .booted ∧ t.il.svn = im.svn ∧ t.il.meas = im.meas ∧
          t.il.slotB = (!s.il.verifies a) ∧ t.il.bootcnt = min (s.il.bootcnt + 1) (2 ^ 32 - 1) ∧
          t.il.lc = (if s.il.lc = 0 then 1 else s.il.lc) ∧ t.mem = [] ∧ t.power.sbOn = true) ∧
        (s.il.verifies a = false → s.il.verifies b = false → t.il.boot = .recovery)) ∧
    (∀ im, s.il.lc = 0 → s.il.verifies im = true → im.mfg = true) ∧
    (s.il.boot ≠ .none_ ∨ s.released = false → exec (.boot slotA slotB idOk repOk) s = .next s) ∧
    (s.il.boot ≠ .none_ → s.il.locked = false → ∃ t, exec .lockstepMismatch s = .next t ∧ t.il.locked = true ∧
      (∀ k, t.session k = none) ∧ (∀ n h, (t.link n h).keys = false) ∧
      (∀ f, (t.fn f).ideActive = false ∧ (t.fn f).linkActive = false ∧ (t.fn f).spdm = false ∧
        (t.fn f).ideKeys = [] ∧ (t.fn f).linkKeys = []) ∧ (t.fn 0).aer.testBit 22 = true) ∧
    exec .lmsTreeGenerated s = .next { s with il := { s.il with tree := false } } ∧
    (s.i3c.addr ≠ none → boardByte (boardRun offset bytes) 6 = some lo → boardByte (boardRun offset bytes) 7 = some hi →
      ∃ t, exec (.bdcapWrite offset bytes) s = .next t ∧ t.mem = s.mem ∧
        (s.il.locked = false → 1000 ≤ lo + 256 * hi → lo + 256 * hi ≤ 3600 →
          t.power.bdcap = lo + 256 * hi ∧ t.i3c.status = stOk) ∧
        (s.il.locked = false → lo + 256 * hi < 1000 ∨ 3600 < lo + 256 * hi →
          t.power.bdcap = s.power.bdcap ∧ t.i3c.status = stBounds ∧
          ∃ x, t.log.getLast? = some x ∧ x.part = 0xFF ∧ x.cause = stBounds) ∧
        (s.il.locked = true → t.power.bdcap = s.power.bdcap ∧ t.i3c.status = s.i3c.status ∧
          ∃ x, t.log.getLast? = some x ∧ x.part = 0xFF ∧ x.cause = stConflict)) ∧
    (s.i3c.addr ≠ none → exec (.bdcapWrite offset []) s =
      .next { s.rouse with i3c := { s.i3c with ptr := offset.toNat } }) ∧
    exec (.i3cDynamicAddress false 0 addr) s = .next { s.rouse with i3c := { s.i3c with addr := some addr.toNat } } ∧
    exec (.i3cDynamicAddress true 0x3A addr) s = .next { s.rouse with i3c := { s.i3c with addr := some addr.toNat } }

/-- Every microjoule is credited to one account (R376, R379, notes/assumptions/59.md). At an interval boundary T
milliseconds after the interval's start, each open account p receives from each group g the whole part of
E·α·H/(65536·N·T) plus, where ΣW is not 0 and no span that feeds g is silent, the whole part of
E·(65536−α)·W/(65536·ΣW), and the unallocated account what is left of all E: all of a group's activity share
while a span that feeds it is silent. The work counted since, that of a late frame among it, enters each account
in full either way. Where α is at most 65,536 and the open accounts hold no ring twice, what a group's energy
gives the accounts is never more than that energy, so that accounts and unallocated account together rise by
exactly the energy of all groups. When an interval ends, and its length, are the model's readings (log entry
59). -/
def Obligations.EnergyAttribution : Prop :=
  ∀ (ms : Nat) (s : State), MeterRuns s → ms % 1000 = 0 → s.meter.time ≤ ms → s.meter.start < ms →
    let m := s.meter
    let T := ms - m.start
    let E (g : Nat) : Nat := m.raw.getD g 0 / 16000000 - m.mark.getD g 0
    let N (g : Nat) : Nat := if g < 4 then 128 else 256
    let fed (g span : Nat) : Bool := decide (4 ≤ g) || decide (span < 8 ↔ g % 2 = 0)
    let H (x : Account) (g : Nat) : Nat := (x.rings.filter (fun r => fed g (r / 16))).length * T
    let W (x : Account) (g : Nat) : Nat :=
      ((m.seen.filter (fun e => decide (e.1 % 256 = x.part) && fed g (e.1 / 256))).map (fun e => e.2.rise)).sum
    let sumW (g : Nat) : Nat := (m.accounts.map (fun x => W x g)).sum
    let silent (g : Nat) : Bool := m.silent.any (fed g)
    let α (g : Nat) : Nat := m.alpha.getD g 0
    let A (x : Account) (g : Nat) : Nat := E g * α g * H x g / (65536 * N g * T) +
      (if sumW g = 0 ∨ silent g = true then 0 else E g * (65536 - α g) * W x g / (65536 * sumW g))
    let all (f : Nat → Nat) : Nat := ((List.range 8).map f).sum
    ∃ t, exec (.intervalBoundary ms) s = .next t ∧
      t.meter.accounts = m.accounts.map (fun x => { x with
        energy := x.energy + all (A x), work := x.work + W x 4, heldMs := x.heldMs + x.rings.length * T }) ∧
      t.meter.unalloc = m.unalloc + (all E - (m.accounts.map (fun x => all (A x))).sum) ∧ t.meter.start = ms ∧
      t.meter.silent = m.silent ∧
      ((∀ g, g < 8 → α g ≤ 65536) → (∀ g, g < 8 → (m.accounts.map (fun x => H x g)).sum ≤ N g * T) →
        (∀ g, g < 8 → (m.accounts.map (fun x => A x g)).sum ≤ E g) ∧
        t.meter.unalloc + (t.meter.accounts.map (fun x => x.energy)).sum =
          m.unalloc + (m.accounts.map (fun x => x.energy)).sum + all E)

/-- The counters of seal breaks and refusals (R385, R386, notes/assumptions/60.md). For every command: BREAKS rises
by 1, up to its end, at an entry to SEALBREAK; REFUSED rises by 1, up to its end, for a well-formed frame of a
change order that the running meter refuses (that an order coming while the meter is STARTING is not counted is
the model's choice, log entry 60); and no other command, no reset among them, changes either. -/
def Obligations.MeterCounters : Prop :=
  ∀ (c : Instr) (s t : State), exec c s = .next t →
    t.meter.breaks = (match c with
      | .sealBreakAssert _ => if s.meter.st = .measure then min (s.meter.breaks + 1) (2 ^ 32 - 1) else s.meter.breaks
      | _ => s.meter.breaks) ∧
    t.meter.refused = (match c with
      | .change o => if s.meter.st ≠ .starting ∧ o.ok = true ∧ s.meter.judge o.body ≠ stOk then min (s.meter.refused + 1) (2 ^ 32 - 1)
          else s.meter.refused
      | _ => s.meter.refused)

/-- Nothing on the device reaches the meter (R390, R407, Table 15.6 of 15_quinys_meter.md). No command but those
that stand for the meter's own inputs changes anything of the meter: no order, message, reset, power event or
test instruction. -/
def Obligations.MeterIsolation : Prop :=
  ∀ (c : Instr) (s t : State), meterCommand c = false → exec c s = .next t → t.meter = s.meter

/-- Samples, work frames, events and records (R371, R375, R376, R377, R378, R381, R390). While the meter runs: a
sample adds to each group its voltage times its corrected current, clamped at 120 percent of rated; a good work
frame raises its partition's work by what its count has risen, or from zero in a new epoch; a span's silence is
noted; an event ends the interval, closes the partition's account and opens the next, numbered upward, each with
its record; an hour's record, made once for an hour, has an entry for every open account. A frame of any kind
whose CRC fails, an event already applied and a snapshot older than the last event change nothing. The signal
box sends a snapshot of every partition's ring set with the number of its last event, once it has booted. One
that shows an event to be missed, by its number or by what it holds, sets EVLATE for the interval that begins
with it; another opens and closes no account, and either leaves every account that it shows a ring set for with
that set (that accounts move to rings a snapshot shows with no event is the model's choice, log entry 60; how
currents and intervals are rounded is log entry 59). -/
def Obligations.MeterInputs : Prop :=
  ∀ (samples : List (Int × Int)) (f : WorkFrame) (span : Fin 16) (ev : PEvent) (part : Fin 64) (rings : List Nat)
    (seq ms : Nat) (s : State), MeterRuns s →
    let m := s.meter
    let sets := (s.parts.filter (fun p => p.2.exists_)).map (fun p => (p.1, p.2.rings))
    let sent := s.emit (.snapshot sets s.evseq)
    (∃ t, exec (.energySample samples) s = .next t ∧
      ∀ g, g < 8 →
        let x := samples.getD g (0, 0)
        let ma : Int := x.2 * (m.gain.getD g 0).toNat / 2 ^ 30 + (m.offs.getD g 0).toInt
        let lim : Int := clampMa g
        t.meter.raw.getD g 0 = ((m.raw.getD g 0 : Int) + x.1 * min (max ma (-lim)) lim).toNat ∧
        (lim < ma ∨ ma < -lim → t.meter.ovr = true)) ∧
    (f.crcOk = false → exec (.workFrameReceive f) s = .next s) ∧
    (f.crcOk = true → f.part.toNat < 64 → ∃ t, exec (.workFrameReceive f) s = .next t ∧ f.span.val ∉ t.meter.silent ∧
      let key := f.span.val * 256 + f.part.toNat
      let w := Tab.get ⟨0, 0, 0⟩ m.seen key
      Tab.get ⟨0, 0, 0⟩ t.meter.seen key = ⟨f.epoch.toNat, f.cumwork.toNat, w.rise +
        (f.cumwork.toNat + 2 ^ 64 - (if w.epoch = f.epoch.toNat then w.cum else 0)) % 2 ^ 64⟩) ∧
    (∃ t, exec (.worklossTimeout span) s = .next t ∧ span.val ∈ t.meter.silent) ∧
    (exec (.partitionEventFrame ⟨false, ev⟩ part rings seq ms) s = .next s) ∧
    (∀ a b c, s.il.boot = .none_ → exec (.snapshotFrame a b c ms) s = .next s) ∧
    (∀ a b c, (a && b && c) = false → s.il.boot ≠ .none_ → exec (.snapshotFrame a b c ms) s = .next sent) ∧
    (seq ≤ m.evseq → exec (.partitionEventFrame ⟨true, ev⟩ part rings seq ms) s = .next s) ∧
    (m.evseq < seq → ∃ t, exec (.partitionEventFrame ⟨true, ev⟩ part rings seq ms) s = .next t ∧ t.meter.evseq = seq ∧
      t.meter.missed = m.missed + (seq - (m.evseq + 1)) ∧
      (∀ x ∈ t.meter.accounts, x.part = part.val → x.num = m.nextAcct ∧ x.rings = rings ∧ x.energy = 0 ∧
        x.opened = max m.time ms) ∧
      (ev = .teardown → (∀ x ∈ t.meter.accounts, x.part ≠ part.val) ∧ t.meter.nextAcct = m.nextAcct) ∧
      (ev ≠ .teardown → (∃ x ∈ t.meter.accounts, x.part = part.val) ∧ t.meter.nextAcct = m.nextAcct + 1)) ∧
    (s.il.boot ≠ .none_ →
      (s.evseq < m.evseq → exec (.snapshotFrame true true true ms) s = .next sent) ∧
      (m.evseq ≤ s.evseq → ∃ t, exec (.snapshotFrame true true true ms) s = .next t ∧ t.meter.evseq = s.evseq ∧ t.meter.missed = 0 ∧
        t.outbox = sent.outbox ∧ (∀ x ∈ t.meter.accounts, ∀ r, shownSet sets x.part = some r → x.rings = r) ∧
        (m.evseq < s.evseq ∨ m.missed ≠ 0 ∨ m.revealed true sets ≠ [] → t.meter.evlate = true) ∧
        (m.evseq = s.evseq → m.missed = 0 → m.revealed true sets = [] →
          t.meter.accounts.map (·.num) = m.accounts.map (·.num) ∧ t.meter.recseq = m.recseq))) ∧
    (ms % 3600000 = 0 → m.hour < ms / 3600000 → ∃ t, exec (.hourRecord ms) s = .next t ∧
      t.meter = { (m.endInterval ms).writeRecord 1 ((m.endInterval ms).accounts.map (fun x => x.entry none)) with
        hour := ms / 3600000 } ∧
      t.meter.recseq = m.recseq + 1) ∧
    (ms / 3600000 ≤ m.hour → exec (.hourRecord ms) s = .next s)

/-- Seal-break, supply, crystal and change orders (R372, R373, R381, R382, R384, R386, R388). Seal-break asserted in
MEASURE brings SEALBREAK and its record, released it brings MEASURE with the accepted firmware and its record,
which carries the register values of the orders accepted (their layout is the model's choice, log entry 60). A
failing supply loses the nonce and at most the energy since the last boundary, and a start goes on at the end of
the key reservation (log entry 61) with its record; the crystal's failure is flagged until it returns. A
malformed frame is answered with FORMAT. A change order outside SEALBREAK is refused with STATE_CONFLICT, with a
failed signature, another nonce or another BREAKS with SIGNATURE; a refusal changes no value. An accepted one
leaves its values to the next boundary, and its nonce is spent. -/
def Obligations.MeterSeal : Prop :=
  ∀ (ms : Nat) (start : MeterStart) (o : ChangeOrder) (s : State),
    let m := s.meter
    (m.st = .measure → ∃ t, exec (.sealBreakAssert ms) s = .next t ∧ t.meter.st = .sealbreak ∧
      t.meter.recseq = m.recseq + 1 ∧ t.meter.raw = m.raw ∧ t.meter.accounts = m.accounts ∧ t.mem = s.mem) ∧
    (m.st = .sealbreak → ∃ t, exec (.sealBreakRelease ms) s = .next t ∧ t.meter.st = .measure ∧
      t.meter.fw = m.nextFw.getD m.fw ∧ t.meter.recseq = m.recseq + 1 ∧ t.meter.raw = m.raw ∧ t.mem = s.mem ∧
      let m' : Meter := { m with st := .measure, fw := m.nextFw.getD m.fw, nextFw := none, time := max m.time ms }
      t.meter = { m'.writeRecord 5 (m.changed.map (fun p => toLe 4 p.1 ++ toLe 4 p.2.toNat)) with changed := [] }) ∧
    (∃ t, exec .meterSupplyFail s = .next t ∧ t.mem = s.mem ∧ (t.meter.raw = m.raw ∨ t.meter.raw = m.saved) ∧
      t.meter = { m with st := .starting, nonce := none, raw := t.meter.raw }) ∧
    (m.st = .starting → ∃ t, exec (.meterStart start) s = .next t ∧ t.meter.st = .measure ∧
      t.meter.recseq = m.recseq + 1 ∧ m.hssCeil ≤ t.meter.hss ∧ t.meter.time = max m.time start.ms ∧ t.meter.raw = m.raw ∧ t.mem = s.mem) ∧
    (∃ t, exec .crystalFail s = .next t ∧ t.meter.clkfail = true ∧ t.meter.time = m.time) ∧
    exec .crystalReturn s = .next { s with meter := { m with clkfail := false } } ∧
    (MeterRuns s →
      (m.st ≠ .sealbreak → m.judge o = stConflict) ∧
      (m.st = .sealbreak → o.credentialOk = false ∨ m.nonce ≠ some o.nonce ∨ o.breaks ≠ m.breaks →
        m.judge o = stSignature) ∧
      exec (.change ⟨false, o⟩) s = .next (s.emit (.meter [stFormat])) ∧
      (m.judge o ≠ stOk → ∃ t, exec (.change ⟨true, o⟩) s = .next t ∧ t.outbox = s.outbox ++ [.meter [m.judge o]] ∧
        t.meter.next = m.next ∧ t.meter.nextFw = m.nextFw ∧ t.meter.gain = m.gain ∧ t.meter.offs = m.offs ∧
        t.meter.alpha = m.alpha ∧ t.meter.fw = m.fw ∧ t.meter.recseq = m.recseq + 1) ∧
      (m.judge o = stOk → exec (.change ⟨true, o⟩) s = .next { s with
        outbox := s.outbox ++ [.meter [stOk]]
        meter := { m with
          nonce := none, time := max m.time o.ms, next := m.next ++ o.values, changed := m.changed ++ o.values
          nextFw := o.firmware.or m.nextFw } }))

/-- The work chain, the mailbox land and the serial port (R375, R388, R389, Table 15.5 of 15_quinys_meter.md). A
span sends one frame for each partition that holds a ring on it, or a keep-alive: its PART, the EPOCH and
CUMWORK of its work count, in which the work of the span's rings is now taken, and the SEQ that follows the last
frame's; its SEQ counter then stands past the last one sent. While it runs, the meter sends a copy of its
registers and each new record once; the oldest output on its way brings the mirror up to date: its registers
replace the mirror's, and each record it carries enters the mirror's store under its number, beside those that
stand there. The serial port serves registers from the copy of the last boundary, records by number from those
that the copy holds, its certificate and a fresh nonce, which it sends; it answers a malformed frame with FORMAT
and, by the model's choice (log entry 60), one that names no register or record with BOUNDS. -/
def Obligations.MeterPorts : Prop :=
  ∀ (span : Fin 16) (n : Nat) (s : State),
    (let s1 := (List.range 16).foldl (fun s k => s.takeWork (span.val * 16 + k)) s
     let ps := match s.workParts span.val with
       | [] => [255]
       | l => l
     let work (p : Nat) : Work := if p = 255 then ⟨0, 0⟩ else Tab.get ⟨0, 0⟩ (s1.span span.val).work p
     ∃ t, exec (.workFrameSend span) s = .next t ∧ t.mem = s.mem ∧ t.outbox = s.outbox ++
       ((List.range ps.length).zip ps).map (fun q => .workFrame
         (workFrameBytes span.val q.2 (work q.2).epoch ((s.span span.val).wseq + q.1) (work q.2).cum)) ∧
       (t.span span.val).wseq = ((s.span span.val).wseq + ps.length) % 2 ^ 32) ∧
    (MeterRuns s →
      let m := s.meter
      let tells (l : List Nat) : Host.Outcome State Fault Refusal := .next (s.emit (.meter l))
      (∃ t, exec .mailboxOutput s = .next t ∧ t.meter = { m with unsent := [] } ∧
        t.mirror.wire = s.mirror.wire ++
          [(m.copy, m.unsent.filterMap (fun q => (Tab.find m.records q).map (fun r => (q, r))))]) ∧
      exec (.getReg ⟨false, n⟩) s = tells [stFormat] ∧ exec (.getRecord ⟨false, n⟩) s = tells [stFormat] ∧
      (∀ r, m.copy.find? (fun r => r.1 == n) = some r → exec (.getReg ⟨true, n⟩) s = tells [stOk, r.2]) ∧
      (m.copy.find? (fun r => r.1 == n) = none → exec (.getReg ⟨true, n⟩) s = tells [stBounds]) ∧
      (∀ r, Tab.find m.copyRecs n = some r → exec (.getRecord ⟨true, n⟩) s = tells (stOk :: r.map BitVec.toNat)) ∧
      (Tab.find m.copyRecs n = none → exec (.getRecord ⟨true, n⟩) s = tells [stBounds]) ∧
      exec .getCert s = tells (stOk :: (meterCert m.ns).map BitVec.toNat) ∧
      (∃ t, exec .getNonce s = .next t ∧ t.meter = { m with nonces := m.nonces + 1, nonce := some m.nonces } ∧
        t.outbox = s.outbox ++ [.meter (stOk :: (Config.cryptoBytes [24, m.nonces] 32).map BitVec.toNat)])) ∧
    (∀ regs recs rest, s.mirror.wire = (regs, recs) :: rest → ∃ t, exec .meterMailboxReceive s = .next t ∧
      t.mirror.regs = regs ∧ t.mirror.records = recs.foldl (fun h r => Tab.ins r.1 r.2 h) s.mirror.records ∧
      t.mirror.wire = rest ∧ t.meter = s.meter)

/-- The test access port (R432, R433, R434, Table 18.6 of 18_package_and_test.md). With TRST_N high, each
instruction loads its register, and 0b0000_0001 is shifted out of the instruction register: IDCODE,
SAMPLE/PRELOAD, BYPASS and the reset never hold the lands; the others hold them while SYS_RST_N is low. IDCODE
shifts out 0x1B4C16D5, SAMPLE/PRELOAD captures 631 cells and takes a preload of as many, as EXTEST, EXTEST_PULSE
and EXTEST_TRAIN take new cells while they hold the lands; an instruction that does not hold the lands shifts as
BYPASS. A low TRST_N resets the port, and while it is low no instruction is loaded. None changes anything of the
device but the port's own state, the free values' counter and THERMTRIP_N, which shows a trip whatever its cell
holds. The order of the cells and what a scan shifts out, and the levels of the lands at the start, are the
model's readings (log entries 62 and 4). -/
def Obligations.TestPort : Prop :=
  ∀ (pre : Option (List Bool)) (s : State), s.tap.trst = true →
    let high := s.lands.sysRst = true
    let kept (t : State) : Prop := t = { s with tap := t.tap, outbox := t.outbox, free := t.free
                                                lands := { s.lands with thermtrip := t.lands.thermtrip } }
    let shows (t : State) : Prop := s.power.tripped = true → t.lands.thermtrip = false
    let loads (c : Instr) (ir : TapIr) (holds : Prop) (out : Output → Prop) : Prop :=
      ∃ t o, exec c s = .next t ∧ kept t ∧ shows t ∧ t.tap.ir = ir ∧ (holds → t.tap.holding = some ir) ∧
        (¬ holds → t.tap.holding = none) ∧ t.outbox = s.outbox ++ [.tdo (true :: List.replicate 7 false), o] ∧ out o
    let scan (o : Output) : Prop := ∃ l, o = .tdo l ∧ l.length = (if high then 1 else 631)
    loads (.extest pre) .extest (¬ high) scan ∧ loads (.extestPulse pre) .extestPulse (¬ high) scan ∧
    loads (.extestTrain pre) .extestTrain (¬ high) scan ∧
    loads .clamp .clamp (¬ high) (fun o => o = .tdo [false]) ∧ loads .highz .highz (¬ high) (fun o => o = .tdo [false]) ∧
    loads .bypass .bypass False (fun o => o = .tdo [false]) ∧
    loads .idcode .idcode False (fun o => o = .tdo ((List.range 32).map (fun k => (0x1B4C16D5).testBit k))) ∧
    loads (.samplePreload pre) .samplePreload False (fun o => ∃ l, o = .tdo l ∧ l.length = 631) ∧
    (∀ l, l.length = 631 → ∃ t, exec (.samplePreload (some l)) s = .next t ∧ t.tap.cells = l) ∧
    (∀ l, l.length = 631 → ¬ high → ∀ c ∈ [Instr.extest (some l), .extestPulse (some l), .extestTrain (some l)],
      ∃ t, exec c s = .next t ∧ t.tap.cells = l) ∧
    (let resets (c : Instr) (trst : Bool) : Prop := ∃ t, exec c s = .next t ∧ kept t ∧ shows t ∧
      t.tap = { s.tap with ir := .idcode, holding := none, trst := trst }
     resets (.testLogicReset .tms) true ∧ resets (.testLogicReset (.trst false)) false) ∧
    (let low : State := { s with tap := { s.tap with trst := false } }
     exec (.testLogicReset (.trst true)) low = .next s ∧
     ∀ c ∈ [Instr.extest pre, .extestPulse pre, .extestTrain pre, .clamp, .highz, .bypass, .idcode, .samplePreload pre],
       exec c low = .next low)

/-- Order books and notifications (R341, R361, R365, R413, R416, R417, R418, R419, Table 17.7 of
17_host_and_management.md, log entry 35). Posting an order into a slot that is not TAKEN writes OP, TAG and
ARGS, then STATE = POSTED, and leaves every other slot and function; another write of the host there lands in
its byte; a write into a TAKEN slot is discarded and counted, one that comes outside the stream it has to come
in changes no slot, and a function in D3hot takes none but reports it (the last is the model's choice, log entry
89). Taking an order makes its STATE TAKEN; completing it writes STATUS, DETAIL and RESULT, then STATE = DONE,
and leaves every other slot. The scan carries out the order that the next ready slot spells, and answers FORMAT
to one that spells none; a second image key order has STATE_CONFLICT whatever it carries. A notification enters
the ring of the function its partition is bound to under the next number, the oldest of 64 going, and sends
vector 1 or, masked, holds it pending; what is logged stays in the event log. Which slot is next, and that a row
evaluates its slot, is log entry 35. -/
def Obligations.OrderBooks : Prop :=
  ∀ (f k : Fin 64) (op : Byte) (tag : Word) (args : Tlp (List Byte)) (off : Fin 128) (v : Tlp Byte) (code detail : Nat)
    (part g kind arg node reg : Nat) (wrong : List Nat) (s : State),
    let o := 128 * k.val
    let byte (s : State) (a : Nat) : Byte := Tab.get 0 (s.fn f.val).book a
    let others (t : State) : Prop :=
      (∀ a, a < o ∨ o + 128 ≤ a → byte t a = byte s a) ∧ (∀ g, g ≠ f.val → t.fn g = s.fn g) ∧ t.mem = s.mem
    let discarded : Host.Outcome State Fault Refusal := .next { s with
      power := { s.power with cores := true }
      host := { s.host with discards := min (s.host.discards + 1) (2 ^ 16 - 1) } }
    (s.il.boot = .booted → s.fnExists f.val = true → (s.fn f.val).d3hot = true →
      exec (.orderPost f k op tag args) s = .next (s.aerError f.val 20) ∧
      exec (.slotWriteWhileTaken f k off v) s = .next (s.aerError f.val 20)) ∧
    (s.il.boot = .booted → s.fnExists f.val = true → (s.fn f.val).d3hot = false →
      (∀ part, s.outside f.val args = some part → exec (.orderPost f k op tag args) s = .next (s.dropOutside f.val part)) ∧
      (∀ part, s.outside f.val v = some part →
        exec (.slotWriteWhileTaken f k off v) s = .next (s.dropOutside f.val part)) ∧
      (s.slotState f.val k.val = 2 →
        (s.outside f.val args = none → exec (.orderPost f k op tag args) s = discarded) ∧
        (s.outside f.val v = none → exec (.slotWriteWhileTaken f k off v) s = discarded)) ∧
      (s.slotState f.val k.val ≠ 2 → Tab.wf 0 (s.fn f.val).book = true →
        (s.outside f.val v = none → ∃ t, exec (.slotWriteWhileTaken f k off v) s = .next t ∧ others t ∧
          byte t (o + off.val) = v.body ∧ (∀ a, a ≠ o + off.val → byte t a = byte s a) ∧ t.power.cores = true) ∧
        (s.outside f.val args = none →
          ∃ t, exec (.orderPost f k op tag args) s = .next t ∧ others t ∧ t.slotState f.val k.val = 1 ∧
            t.bookBytes f.val (o + 1) 1 = [op] ∧ t.bookBytes f.val (o + 8) 8 = toLe 8 tag.toNat ∧
            t.bookBytes f.val (o + 16) 48 = slice args.body 0 48 ∧ t.power.cores = true))) ∧
    (Tab.wf 0 (s.fn f.val).book = true → code < 2 ^ 16 → detail < 2 ^ 32 →
      (s.takeOrder f.val k.val).slotState f.val k.val = 2 ∧ others (s.takeOrder f.val k.val) ∧
      let t := s.complete f.val k.val code detail []
      t.slotState f.val k.val = 3 ∧ leNat (t.bookBytes f.val (o + 2) 2) = code ∧
        leNat (t.bookBytes f.val (o + 4) 4) = detail ∧ t.bookBytes f.val (o + 64) 64 = List.replicate 64 0 ∧ others t) ∧
    ((s.part part).vf = some g →
      let x := s.fn g
      let t := s.notify part kind arg
      (∀ j, j ≠ g → t.fn j = s.fn j) ∧ t.mem = s.mem ∧ t.parts = s.parts ∧ t.log = s.log ∧
        (t.fn g).prod = (x.prod + 1) % 2 ^ 32 ∧ (t.fn g).book = x.book ∧
        (x.notices.length < 64 → (t.fn g).notices = x.notices ++ [⟨x.prod, kind, arg⟩]) ∧
        (x.notices.length = 64 → (t.fn g).notices = x.notices.tail ++ [⟨x.prod, kind, arg⟩]) ∧
        (x.msix.enable = true → x.d3hot = false → x.msix.fmask = false → x.msix.masked.contains 1 = false →
          t.outbox = s.outbox ++ [.msix g 1 (s.via g)]) ∧
        (x.msix.enable = true → x.d3hot = true ∨ x.msix.fmask = true ∨ x.msix.masked.contains 1 = true →
          t.outbox = s.outbox ∧ (t.fn g).msix.pend.contains 1 = true)) ∧
    s.note part node reg code = { s with log := s.log ++ [⟨s.power.tick, part, node, reg, code⟩] } ∧
    (s.il.boot = .booted → s.power.cores = true →
      (s.nextOrder = none → exec (.orderBookScan wrong) s = .next s) ∧
      (s.nextOrder = some (f, k) →
        let l := s.slotBytes f.val k.val
        (∀ c, orderOf f k wrong l = some c → exec (.orderBookScan wrong) s = exec c s ∧
          completes (exec (.orderBookScan wrong) s)) ∧
        (∀ part, orderOf f k wrong l = none → TenantOrder s f.val k.val part → pfOp (leAt l 1 1) = false →
          exec (.orderBookScan wrong) s = .next ((s.takeOrder f.val k.val).completeBad f.val k.val part
            (if leAt l 1 1 = 0x10 ∧ (s.part part).key ≠ none then stConflict else stFormat)))))

/-- Orders of a tenant (R178, R260, R336, R339, R348, R352, R355, R359, R360, R361, R417, R437). An image key is
taken in EMPTY, READY or REPLAN where the tenancy has none. A certificate that fits is written where the order
says; sealed data are written with 40 bytes more, and unsealed data where the blob opens under the measurement
and the lifecycle state. Each order reads its granules with whatever erroneous bytes they meet: an area that a
granule spoils, and a write that would merge into such a granule, complete it with FAULTED_STEP, an area that no
entry maps, or whose deck is not reached, with BOUNDS. A register order gives the value of a register that the
tenant may read, or writes one that it may write. A halt of a RUNNING partition halts its step. In the wrong
state each completes with STATE_CONFLICT, a certificate, seal or unseal order of a partition in TEARDOWN too,
and a register order that the access rules forbid with their code. An order whose area lies at a channel that is
retraining, or whose certificate waits for a tree, changes nothing. The codes and their order, the answers
without attestation, what a register order reaches, and that an unreached deck counts as unmapped are the
model's readings (log entries 31, 32, 33, 36, 41 and 80). -/
def Obligations.TenantOrders : Prop :=
  ∀ (f k : Fin 64) (a dst : Word) (ide : Bool) (space : BitVec 16) (nlen sel width : Byte) (na val : Word) (len : BitVec 32)
    (wrong : List Nat) (part : Nat) (s : State),
    let s1 := s.takeOrder f.val k.val
    let p := s.part part
    let n := len.toNat
    let done (s : State) (res : List (Nat × List Byte)) : Host.Outcome State Fault Refusal :=
      .next (s.complete f.val k.val stOk 0 res)
    let ends (s : State) (code : Nat) : Host.Outcome State Fault Refusal := .next (s.completeBad f.val k.val part code)
    let bad (code : Nat) : Host.Outcome State Fault Refusal := ends s1 code
    let met (s : State) (a n : Nat) : State := (s.fabricOn.fetchPart part a n).meetPart part a n wrong
    let into (s : State) (a n : Nat) (wrong : List Nat) : State :=
      ((partialGranules a n).zip wrong).foldl (fun s x => s.meetPart part x.1 64 [x.2]) s.fabricOn
    let reads (s : State) (a n : Nat) : Prop := s.boxMaps part a n false = true ∧ s.rangeServes part a n = true
    let takes (s : State) (a n : Nat) : Prop := s.boxMaps part a n true = true ∧ s.rangeServes part a n = true
    let merges (s : State) (a n : Nat) : Bool := s.partMerges part a (List.replicate n 0)
    (TenantOrder s f.val k.val part →
     (p.st.idleOne = false ∨ p.key ≠ none → exec (.imageKey f k a ide wrong) s = bad stConflict) ∧
     (p.st.idleOne = true → p.key = none →
      (s1.boxMaps part a.toNat 157 false = false → exec (.imageKey f k a ide wrong) s = bad stBounds) ∧
      (s1.boxMaps part a.toNat 157 false = true → s1.rangeServes part a.toNat 157 = false →
        exec (.imageKey f k a ide wrong) s = .next s) ∧
      (reads s1 a.toNat 157 →
        let s2 := met s1 a.toNat 157
        (s2.readArea part a.toNat 157 = .uncorrectable → exec (.imageKey f k a ide wrong) s = ends s2 stFaulted) ∧
        ∀ key, s2.readArea part a.toNat 157 = .data key →
          (tenantKeyOk key = true → exec (.imageKey f k a ide wrong) s =
            done (s2.setPart part { s2.part part with key := some ⟨key, ide⟩ }) []) ∧
          (tenantKeyOk key = false → exec (.imageKey f k a ide wrong) s = ends s2 stFormat))) ∧
     (s.certWaits f.val sel.toNat = true → nlen.toNat ≤ 64 → p.st ≠ .teardown →
      exec (.certificate f k dst space nlen sel na wrong) s = .next s) ∧
     (s.certWaits f.val sel.toNat = false → nlen.toNat ≤ 64 → sel.toNat ≤ 2 → p.st ≠ .loading → p.st ≠ .teardown →
      s.il.attested = true → (s.il.lmsExh = false ∨ sel.toNat ≠ 0) →
      nlen.toNat = 0 ∨ s1.boxMaps part na.toNat nlen.toNat false = true → s1.rangeServes part na.toNat nlen.toNat = true →
      let s2 := met s1 na.toNat nlen.toNat
      (s2.readArea part na.toNat nlen.toNat = .uncorrectable →
        exec (.certificate f k dst space nlen sel na wrong) s = ends s2 stFaulted) ∧
      ∀ nonce, s2.readArea part na.toNat nlen.toNat = .data nonce →
        let m := (s2.issue part sel.toNat nonce).1.length
        let s3 := into s2 dst.toNat m (wrong.drop (granules na.toNat nlen.toNat).length)
        let x := s3.issue part sel.toNat nonce
        (space.toNat < m → exec (.certificate f k dst space nlen sel na wrong) s = ends s2 stBounds) ∧
        (m ≤ space.toNat → takes s2 dst.toNat m → merges s3 dst.toNat m = true →
          exec (.certificate f k dst space nlen sel na wrong) s = ends s3 stFaulted) ∧
        (m ≤ space.toNat → takes s2 dst.toNat m → merges s3 dst.toNat m = false →
          exec (.certificate f k dst space nlen sel na wrong) s =
            done (x.2.writePart part dst.toNat x.1) [(64, toLe 2 m)])) ∧
     (1 ≤ n → n ≤ 65536 →
      (p.st.seals = false → exec (.seal f k a dst len wrong) s = bad stConflict ∧
        exec (.unseal f k a dst len wrong) s = bad stConflict) ∧
      (p.st.seals = true → takes s1 dst.toNat (n + 40) →
        let s2 := into s1 dst.toNat (n + 40) (wrong.drop (granules a.toNat n).length)
        let s3 := met s2 a.toNat n
        (merges s2 dst.toNat (n + 40) = true → exec (.seal f k a dst len wrong) s = ends s2 stFaulted) ∧
        (merges s2 dst.toNat (n + 40) = false → reads s2 a.toNat n →
          (s3.readArea part a.toNat n = .uncorrectable → exec (.seal f k a dst len wrong) s = ends s3 stFaulted) ∧
          ∀ pt, s3.readArea part a.toNat n = .data pt →
            let r := s3.random 12
            exec (.seal f k a dst len wrong) s = done (r.2.writePart part dst.toNat
              (sealBlob (s3.sealKey part) s3.il.lc r.1 pt)) [(64, toLe 4 (n + 40))])) ∧
      (p.st.seals = true → takes s1 dst.toNat n →
        let s2 := into s1 dst.toNat n (wrong.drop (granules a.toNat (n + 40)).length)
        let s3 := met s2 a.toNat (n + 40)
        (merges s2 dst.toNat n = true → exec (.unseal f k a dst len wrong) s = ends s2 stFaulted) ∧
        (merges s2 dst.toNat n = false → reads s2 a.toNat (n + 40) →
          (s3.readArea part a.toNat (n + 40) = .uncorrectable → exec (.unseal f k a dst len wrong) s = ends s3 stFaulted) ∧
          ∀ blob, s3.readArea part a.toNat (n + 40) = .data blob →
            (∀ pt, openBlob (s3.sealKey part) n blob = .ok pt →
              exec (.unseal f k a dst len wrong) s = done (s3.writePart part dst.toNat pt) [(64, toLe 4 n)]) ∧
            (∀ code, openBlob (s3.sealKey part) n blob = .error code →
              exec (.unseal f k a dst len wrong) s = ends s3 code)))) ∧
     (regForm a.toNat width.toNat = false → exec (.registerRead (.slot f k) a width) s = bad stFormat ∧
      exec (.registerWrite (.slot f k) a width val) s = bad stFormat) ∧
     (regForm a.toNat width.toNat = true →
      (∀ b o w, s.locateReg (.tenantOf part) a.toNat width.toNat false = .ok (b, o, w) →
        exec (.registerRead (.slot f k) a width) s = done s1 [(64, toLe 8 (s1.readReg b o w))]) ∧
      (∀ b o w, s.locateReg (.tenantOf part) a.toNat width.toNat true = .ok (b, o, w) →
        (s1.writeReg b o w val.toNat).1 = stOk →
        exec (.registerWrite (.slot f k) a width val) s = done (s1.writeReg b o w val.toNat).2 []) ∧
      (∀ code, code ≠ 0 → s.locateReg (.tenantOf part) a.toNat width.toNat false = .error code →
        exec (.registerRead (.slot f k) a width) s = bad code)) ∧
     (p.st = .running → exec (.halt (.slot f k) 0) s = .next (s1.haltPart part [.slot f k])) ∧
     (p.st ≠ .running → exec (.halt (.slot f k) 0) s = bad stConflict)) ∧
    (s.torn f.val = some part → s.takes f.val k.val = true → nlen.toNat ≤ 64 → sel.toNat ≤ 2 → 1 ≤ n → n ≤ 65536 →
      exec (.certificate f k dst space nlen sel na wrong) s = bad stConflict ∧
      exec (.seal f k a dst len wrong) s = bad stConflict ∧ exec (.unseal f k a dst len wrong) s = bad stConflict)

/-- Binding, functions and their resets (R337, R338, R339, R336, R345, R364, R408, R411, R412, R413, R417, R419). A
bind order of a VF that is free and promised to none and of an unbound partition begins a tenancy, of the pair
that is bound already it completes at once, of a VF bound elsewhere with STATE_CONFLICT, and of a partition
bound to another VF after that tenancy has ended, when it begins the new one; an unbind order ends the tenancy,
whose partition, its rings standing still and with no region to scrub, is EMPTY with no image and no key.
NumVFs, unless the interlocking is locked, sets VF Enable; clearing it ends every tenancy, and the VFs disappear
once all have ended; a device in recovery answers a configuration request, a reset of a function and a mailbox
command among them, with Request Retry Status. A function's reset halts its tenant's step and frees its slots. A
vector that is unmasked sends what it had pending; a mask, the vector control and the capability's bits take
what the host writes. An SPDM responder presents its chain, and a device that can sign none refuses the
exchange. In a function's SPDM session the IDE keys of its selective stream, and in the PF's those of the link
stream, are programmed, go into use and stop; a VF's command for the link stream is refused with OWNERSHIP
before anything else; what a mailbox refuses is logged, answered with nothing (the model's choice, log entry
88), and changes nothing else. What D3hot does is the model's choice (log entry 89), when the end of a tenancy
completes log entry 40, what wakes CORES log entry 74. -/
def Obligations.FunctionOrders : Prop :=
  ∀ (k : Fin 64) (f : Fin 64) (vf part : Byte) (n : Nat) (vec : Fin 4) (strm : Bool) (keys : List Byte) (s : State),
    let v := vf.toNat
    let q := part.toNat
    let p := s.part q
    let s1 := s.takeOrder 0 k.val
    (HostOrder s k.val → s.vfNamed v = true →
      (q < 64 → p.ending = false → p.st ≠ .absent → p.st ≠ .teardown → s.promised v = false →
        (s.boundPart v = none → p.vf = none →
          exec (.bind k vf part) s = .next ((s1.beginTenancy q v).complete 0 k.val stOk 0 [])) ∧
        (s.boundPart v = some q → exec (.bind k vf part) s = .next (s1.complete 0 k.val stOk 0 [])) ∧
        (∀ q', s.boundPart v = some q' → q' ≠ q →
          exec (.bind k vf part) s = .next (s1.completeBad 0 k.val 0xFF stConflict)) ∧
        (∀ g, s.boundPart v = none → p.vf = some g → ∃ t, exec (.bind k vf part) s = .next t ∧
          t = s1.beginEnd q (.ending (some k.val) (some v) false) .empty ∧
          (s.allStill q = true → p.regions = [] → s.inRouters q = false →
            (t.part q).vf = some v ∧ (t.part q).st = .empty ∧ (t.part q).image = none ∧ (t.part q).key = none ∧
            (t.part q).tenancy = p.tenancy + 1 ∧ (t.part q).rings = p.rings))) ∧
      (∀ q', s.boundPart v = some q' → (s.part q').ending = true →
        exec (.unbind k vf) s = .next (s1.completeBad 0 k.val q' stConflict)) ∧
      (s.boundPart v = none → exec (.unbind k vf) s = .next (s1.complete 0 k.val stOk 0 [])) ∧
      (∀ q', s.boundPart v = some q' → (s.part q').ending = false → ∃ t, exec (.unbind k vf) s = .next t ∧
        t = s1.beginEnd q' (.ending (some k.val) none false) .empty ∧
        (s.allStill q' = true → (s.part q').regions = [] → s.inRouters q' = false →
          (t.part q').vf = none ∧ (t.part q').st = .empty ∧
          (t.part q').image = none ∧ (t.part q').key = none ∧ (t.part q').rings = (s.part q').rings))) ∧
    (HostOrder s k.val → exec (.partitionList k) s = .next (s1.complete 0 k.val stOk 0
      [(64, toLe 8 (bitMap ((s.parts.filter (fun p => p.2.exists_)).map (·.1)))),
       (72, toLe 8 (bitMap ((s.parts.filter (fun p => p.2.vf.isSome && !p.2.ending)).map (·.1))))])) ∧
    (s.il.boot = .recovery → exec (.setNumvfs n) s = .next (s.emit (.retry 0)) ∧
      exec .vfEnableClear s = .next (s.emit (.retry 0)) ∧
      exec .pfFlr s = .next (s.emit (.retry 0)) ∧ (f.val ≠ 0 → exec (.vfFlr f) s = .next (s.emit (.retry f.val))) ∧
      ∀ ok km, exec (.spdmKeyExchange f ok) s = .next (s.emit (.retry f.val)) ∧
        exec (.ideKm f km) s = .next (s.emit (.retry f.val))) ∧
    (s.il.boot = .booted → s.il.locked = true → exec (.setNumvfs n) s = .next (s.reject 0xFF stConflict) ∧
      exec .vfEnableClear s = .next (s.reject 0xFF stConflict) ∧ exec .pfFlr s = .next (s.reject 0xFF stConflict)) ∧
    (s.il.boot = .booted → s.il.locked = false →
      (n ≤ 63 → exec (.setNumvfs n) s =
        .next { s with host := { s.host with numVfs := n, vfEnable := true } }) ∧
      (63 < n → exec (.setNumvfs n) s = .next s) ∧
      (∃ t, exec .vfEnableClear s = .next t ∧ (∀ q, q < 64 → (t.part q).vf ≠ none → (t.part q).ending = true) ∧
        (s.host.vfEnable = true → (∀ x ∈ t.parts, x.2.vf = none) → t.host.vfEnable = false) ∧
        ((∃ x ∈ t.parts, x.2.vf ≠ none) → t.host.vfEnable = s.host.vfEnable)) ∧
      (f.val ≠ 0 → s.fnExists f.val = true → Tab.wf 0 (s.fn f.val).book = true → ∃ t, exec (.vfFlr f) s = .next t ∧
        (∀ j, j < 64 → t.slotState f.val j = 0) ∧
        ∀ q j, s.tenant f.val = some q → (s.part q).st = .running → (s.part q).stepJob = some j → j.committed = false →
          ∃ j', (t.part q).stepJob = some j' ∧ j'.halting = true) ∧
      (Tab.wf 0 (s.fn 0).book = true → ∃ t, exec .pfFlr s = .next t ∧ (∀ j, j < 64 → t.slotState 0 j = 0) ∧
        ∀ q, q < 64 → (t.part q).vf ≠ none → (t.part q).ending = true)) ∧
    (s.il.boot = .booted → s.fnExists f.val = true →
     let x := s.fn f.val
     let m : Msix := x.msix
     let put (m : Msix) : State := s.setFn f.val { x with msix := m }
     let act (a : MsixAct) : Tlp MsixAct := ⟨a, strm⟩
     (∀ a, msixInBar a = true → x.d3hot = true → exec (.msixUnmask f (act a)) s = .next (s.aerError f.val 20)) ∧
     (∀ a, msixInBar a = true → x.d3hot = false → s.outside f.val (act a) = none →
       (a = .unmask vec → vec.val ∈ m.pend → m.enable = true → m.fmask = false → exec (.msixUnmask f (act a)) s =
         .next ((put { m with masked := setDel vec.val m.masked, pend := setDel vec.val m.pend }).emit
           (.msix f.val vec.val (s.via f.val)))) ∧
       (a = .unmask vec → vec.val ∉ m.pend ∨ m.enable = false ∨ m.fmask = true →
         exec (.msixUnmask f (act a)) s = .next (put { m with masked := setDel vec.val m.masked })) ∧
       (a = .mask vec → exec (.msixUnmask f (act a)) s = .next (put { m with masked := setIns vec.val m.masked })) ∧
       (∀ o w, a = .entry o w → o.val % 16 / 4 ≠ 3 → o.val / 16 ∉ m.pend → exec (.msixUnmask f (act a)) s =
         .next (put { m with table := Tab.setRun 0 m.table (o.val / 4 * 4) (toLe 4 w.toNat) }))) ∧
     (s.il.locked = false → exec (.msixUnmask f (act (.enable false))) s = .next (put { m with enable := false }) ∧
       exec (.msixUnmask f (act (.functionMask true))) s = .next (put { m with fmask := true }) ∧
       exec (.msixUnmask f (act (.power true))) s = .next (s.setFn f.val { x with d3hot := true }) ∧
       (m.pend = [] → exec (.msixUnmask f (act (.power false))) s = .next (s.setFn f.val { x with d3hot := false }))) ∧
     let refused (code : Nat) : Host.Outcome State Fault Refusal := .next (s.reject ((s.tenant f.val).getD 0xFF) code)
     (∀ km, keysLink km = true → f.val ≠ 0 → exec (.ideKm f km) s = refused stOwnership) ∧
     (∀ code, s.mailboxBad f.val = some code → ∀ ok km,
       exec (.spdmKeyExchange f ok) s = refused code ∧
       (keysLink km = false ∨ f.val = 0 → exec (.ideKm f km) s = refused code)) ∧
     (s.mailboxBad f.val = none →
       (∀ ok, s.spdmChain f.val = none → exec (.spdmKeyExchange f ok) s = refused stSignature) ∧
       (∀ chain t, s.spdmChain f.val = some (chain, t) →
         let u := t.emit (.spdm f.val chain)
         exec (.spdmKeyExchange f true) s = .next (u.setFn f.val { u.fn f.val with spdm := true }) ∧
         exec (.spdmKeyExchange f false) s = .next (u.reject ((u.tenant f.val).getD 0xFF) stSignature)) ∧
       (x.spdm = false → ∀ km, keysLink km = false ∨ f.val = 0 → exec (.ideKm f km) s = refused stConflict) ∧
       (x.spdm = true →
         exec (.ideKm f (.keyProg false keys)) s = .next (s.setFn f.val { x with ideAlt := some keys }) ∧
         (∀ l, x.ideAlt = some l → exec (.ideKm f (.ksetGo false)) s =
           .next (s.setFn f.val { x with ideKeys := l, ideAlt := none, ideActive := true })) ∧
         (x.ideAlt = none → exec (.ideKm f (.ksetGo false)) s = refused stConflict) ∧
         exec (.ideKm f (.ksetStop false)) s = .next (s.setFn f.val { x with ideActive := false }) ∧
         (f.val = 0 →
           exec (.ideKm f (.keyProg true keys)) s = .next (s.setFn f.val { x with linkAlt := some keys }) ∧
           (∀ l, x.linkAlt = some l → exec (.ideKm f (.ksetGo true)) s =
             .next (s.setFn f.val { x with linkKeys := l, linkAlt := none, linkActive := true })) ∧
           exec (.ideKm f (.ksetStop true)) s = .next (s.setFn f.val { x with linkActive := false })))))

/-- The deck window of a tenant (R257, R260, R365, R411, R414, R420). In a state whose memory has its canonical
form, for a VF bound to a partition, in whatever state that is: a read within one 4 KiB piece of the window
gives the bytes the partition's regions hold at that address, and one that no region maps, or whose deck is not
reached, is answered as unsupported, logged and reported; a write of whole granules, or one whose granules can
all be read, stores its bytes, and every byte outside the granules it touches reads as before; both wait for a
channel that is retraining. A write that the link received in error is reported on its function and lands like
any other. A poisoned write changes no byte and is reported, one that comes outside the stream it has to come in
is discarded and counted, and an access of a function that is not bound, or, by the model's choice (log entry
89), is in D3hot, changes no byte. How a run is cut into requests is log entry 63, what of the link's errors a
command carries log entry 89. -/
def Obligations.DeckWindow : Prop :=
  ∀ (f : Fin 64) (a : Word) (len : Nat) (data : List Byte) (wrong : List Nat) (fault : TlpFault) (strm : Bool) (part : Nat)
    (s : State), s.memWf = true → s.il.boot = .booted → s.fnExists f.val = true → f.val ≠ 0 →
    let byte (s : State) (a : Nat) : Byte := Tab.get deckFill s.mem a
    let on := s.fabricOn
    let told := if fault = .link then s.aerError f.val 38 else s
    let unanswered : Host.Outcome State Fault Refusal :=
      .next ((((on.setFn f.val { on.fn f.val with aer := (on.fn f.val).aer ||| 2 ^ 20 }).emit (.aer f.val)).emit
        (.unsupported f.val a.toNat (s.via f.val))).note part nodeSb 414 0)
    let quiet : Prop := (∃ t, exec (.bar2Read f a len wrong) s = .next t ∧ t.mem = s.mem) ∧
      ∃ t, exec (.bar2Write f a data fault strm wrong) s = .next t ∧ t.mem = s.mem
    (s.boundPart f.val = some part → (s.fn f.val).d3hot = false →
      (s.rangeServes part a.toNat len = false → exec (.bar2Read f a len wrong) s = .next s) ∧
      (s.rangeServes part a.toNat len = true → 0 < len → a.toNat % 4096 + len ≤ 4096 →
        (∀ dev w l, s.translate part a.toNat = some (dev, w) → on.homeReaches (some boxDie) dev = true →
          (on.readGranules (granules dev len) wrong).1 = .ok l →
          let t := (on.readGranules (granules dev len) wrong).2
          exec (.bar2Read f a len wrong) s = .next (t.emit (.data f.val a.toNat (slice l (dev % 64) len) (t.via f.val)))) ∧
        (s.translate part a.toNat = none → exec (.bar2Read f a len wrong) s = unanswered) ∧
        (∀ dev w, s.translate part a.toNat = some (dev, w) → on.homeReaches (some boxDie) dev = false →
          exec (.bar2Read f a len wrong) s = unanswered)) ∧
      (0 < data.length → a.toNat % 4096 + data.length ≤ 4096 → fault ≠ .poisoned →
        (s.ideNeeds f.val part = true → exec (.bar2Write f a data fault false wrong) s =
          .next ((told.setFn f.val { told.fn f.val with ideDrops := (told.fn f.val).ideDrops + 1 }).note part nodeSb 365 0)) ∧
        (s.ideNeeds f.val part = false ∨ strm = true →
          (s.rangeServes part a.toNat data.length = false → exec (.bar2Write f a data fault strm wrong) s = .next s) ∧
          (s.rangeServes part a.toNat data.length = true → ∀ dev, s.translate part a.toNat = some (dev, true) →
            ∃ t, exec (.bar2Write f a data fault strm wrong) s = .next t ∧
              (fault = .link → (t.fn f.val).aer.testBit 38 = true) ∧
              (on.homeReaches (some boxDie) dev = true → dev % 64 = 0 → data.length % 64 = 0 →
                t.deckBytes dev data.length = data) ∧
              (on.homeReaches (some boxDie) dev = true → (∀ w ∈ wrong, w = 0) →
                (∀ g ∈ granules dev data.length, s.poisoned g = false) → t.deckBytes dev data.length = data) ∧
              ∀ x, (∀ g ∈ granules dev data.length, x < g ∨ g + 64 ≤ x) → byte t x = byte s x))) ∧
      ∃ t, exec (.bar2Write f a data .poisoned strm wrong) s = .next t ∧ t.mem = s.mem) ∧
    (s.boundPart f.val = none → quiet) ∧ ((s.fn f.val).d3hot = true → quiet)

/-- Management sessions (R366, R367, R368, R395, R421, log entry 13, log entry 41, log entry 58, log entry 84). A
hello opens a session in a free place and is refused in a taken one; with an anchor, a chain of one to four
verified certificates brings the device's; a key share brings the device's own, from fresh random bytes; a
verified transcript opens the session with a key of both shares and the transcript, and brings the device's
signature; a failure ends it. Each of these messages wakes CORES and is answered under the next number with a
tag of zero bytes. How the key comes from the shares and the transcript hash (48 bytes, the hash as the info) is
log entry 84, the operands that say what verifies log entry 13, the layout of the replies log entry 41, and the
order of a message's tests log entry 58: these are the model's choices. A session ends thirty minutes after its
last message. A message of any kind whose tag fails, or whose number does not rise, changes nothing but the log;
one that comes after the thirty minutes ends the session; one without an open session changes nothing; each of
these wakes CORES. -/
def Obligations.Sessions : Prop :=
  ∀ (i : Fin 4) (tick share hash : Nat) (chain : List Bool) (x : Session) (h : Mgmt) (c : Instr) (s : State),
    let s1 := s.messageAt tick
    let own := s.rouse.random 48
    let answers (t : State) (x : Session) (data : List Byte) : Host.Outcome State Fault Refusal :=
      .next ((t.setSession i.val (some { x with tx := x.tx + 1 })).emit
        (.reply i.val (x.tx + 1) 0 stOk (data.map BitVec.toNat) (List.replicate 48 0)))
    let ends (t : State) : Host.Outcome State Fault Refusal := .next ((t.setSession i.val none).note 0xFF nodeSb 368 1)
    (s.power.sbOn = true → s1.power.cores = true ∧ s.rouse.power.cores = true) ∧ s1.power.tick = max s.power.tick tick ∧
    (s.il.boot ≠ .none_ →
      (s.session i.val = none → exec (.hello i tick) s = answers s1 ⟨.hello, none, 0, 0, tick, 0, [], [], []⟩ []) ∧
      (s.session i.val ≠ none → exec (.hello i tick) s = .next (s1.note 0xFF nodeSb 368 1))) ∧
    (s.session i.val = some x →
      (x.stage = .hello →
        (s.il.anchor ≠ none → 1 ≤ chain.length → chain.length ≤ 4 → chain.all id = true →
          exec (.certs i chain) s = answers s.rouse { x with stage := .certs } s.devCerts) ∧
        (s.il.anchor = none ∨ chain = [] ∨ 4 < chain.length ∨ chain.all id = false →
          exec (.certs i chain) s = ends s.rouse)) ∧
      (x.stage = .certs → exec (.keyshare i share) s =
        answers own.2 { x with stage := .share, share := share, own := own.1 } (ephemeralShare own.1)) ∧
      (x.stage = .share →
        exec (.finish i (some hash) tick) s = answers s1 { x with
          stage := .open_, last := max x.last tick,
          key := hkdfExpand (hkdfExtract (ascii "HLN-MGMT-1") (ecdhSecret x.own x.share)) (toBe 48 hash) 48 }
          (s.transcriptSig hash)) ∧
      (x.stage = .share → exec (.finish i none tick) s = ends s1) ∧
      (x.stage ≠ .hello → exec (.certs i chain) s = .next s.rouse) ∧
      (x.stage ≠ .certs → exec (.keyshare i share) s = .next s.rouse) ∧
      (x.stage ≠ .share → exec (.finish i (some hash) tick) s = .next s1) ∧
      (x.last + 3686400000 ≤ tick → exec (.sessionTimeout i tick) s = .next (s1.setSession i.val none)) ∧
      (tick < x.last + 3686400000 → exec (.sessionTimeout i tick) s = .next s)) ∧
    (s.session i.val = none → exec (.certs i chain) s = .next s.rouse ∧ exec (.keyshare i share) s = .next s.rouse ∧
      exec (.finish i (some hash) tick) s = .next s1 ∧ exec (.sessionTimeout i tick) s = .next s) ∧
    (mgmtHeader c = some h → (∀ n b, c = .anchor h n b → s.il.anchor ≠ none) → s.il.boot ≠ .none_ →
      (s.session h.sess.val = some x → x.stage = .open_ → h.tick < x.last + 3686400000 →
        h.tagOk = false ∨ (∃ r, x.rx = some r ∧ h.seq ≤ r) → exec c s = .next (s.rouse.note 0xFF nodeSb 368 0)) ∧
      (s.session h.sess.val = some x → x.stage = .open_ → x.last + 3686400000 ≤ h.tick →
        exec c s = .next (s.rouse.setSession h.sess.val none)) ∧
      (s.session h.sess.val = none ∨ (s.session h.sess.val = some x ∧ x.stage ≠ .open_) → exec c s = .next s.rouse))

/-- Orders of the operator (R131, R133, R178, R339, log entry 33, R349, R350, R353, R367, R389, R407, R421).
Admitted on an open session: a creation of what another partition holds is answered with OWNERSHIP, and one that
nothing forbids brings the partition into being in EMPTY with its rings and regions, whose owner records name
it; a teardown ends it, and with its rings still, no region to scrub and none of its flits in a router it is
gone. A time-out of the halt turns its rings off. A halt halts a running step. Firmware that is whole, signed
and not below the floor goes into the slot that did not boot; the floor rises to the running SVN; a lifecycle
step, an anchor, the reset order, and the lists, pages, log entries and mirror of the meter are answered as the
rules say. A reset while firmware is being written leaves a slot that does not verify. The order of the tests is
log entries 33 and 58, the layout of the replies, the partitions' and the event log's among them, log entry 41,
what an end waits for 40: these are the model's choices. -/
def Obligations.ManagementOrders : Prop :=
  ∀ (h : Mgmt) (x : Session) (want : Byte) (rings : List Nat) (regions : List (Nat × Nat)) (part : Fin 64) (o n : Nat) (data token cert : List Byte)
    (im : FwImage) (cut : Bool) (target : BitVec 2) (page : Byte) (s : State),
    let s1 := heard s h x
    let p := s.part part.val
    let ok (t : State) (data : List Nat) : Host.Outcome State Fault Refusal := .next (t.reply h stOk data)
    let bad (q code : Nat) : Host.Outcome State Fault Refusal := .next (s1.rejectMsg h q code)
    (Admitted s h false false x →
      (s.createOwn rings regions = false → exec (.create h want rings regions) s = bad 0xFF stOwnership) ∧
      (∀ code, s.createOwn rings regions = true → s.createBad want.toNat rings regions = some code → exec (.create h want rings regions) s = bad 0xFF code) ∧
      (∀ id, s.createOwn rings regions = true → s.createBad want.toNat rings regions = none → s.newIdent want.toNat = some id →
        ∃ t, exec (.create h want rings regions) s = .next t ∧ t = (s1.createPart id rings regions).reply h stOk [id] ∧
          (t.part id).st = .empty ∧ (t.part id).vf = none ∧ (∀ r, r ∈ (t.part id).rings ↔ r ∈ rings) ∧
          ∀ r ∈ regions, Tab.get 0 (t.deck r.1).owner r.2 = id + 1) ∧
      (p.st = .running → exec (.halt (.mgmt h) part) s = .next (s1.haltPart part.val [.mgmt h])) ∧
      (p.st ≠ .running → exec (.halt (.mgmt h) part) s = bad part.val stConflict) ∧
      exec (.partitions h) s = ok s1 ((s.parts.filter (fun p => p.2.exists_)).flatMap (fun p =>
        [p.1, p.2.st.code, bitMap p.2.rings])) ∧
      (data.length ≤ 61440 →
        let l := addChunk x.chunks o data
        exec (.fwChunk h o data false im cut) s = ok (s1.setSession h.sess.val (some { x with
          rx := some h.seq, count := x.count + 1, last := max x.last h.tick, chunks := l })) [] ∧
        (l.head?.map (·.1) = some 0 → s.il.signed im = true →
          (s.il.floor ≤ im.svn → (chunkBytes l).length ≤ 33554432 →
            (∃ t, exec (.fwChunk h o data true im cut) s = .next t ∧
              let new := if cut = true then partly im else im
              (s.il.slotB = true → t.il.flashA = some new ∧ t.il.flashB = s.il.flashB) ∧
              (s.il.slotB = false → t.il.flashB = some new ∧ t.il.flashA = s.il.flashA)) ∧
            (∀ y : Interlock, y.verifies (partly im) = false)) ∧
          (im.svn < s.il.floor ∨ 33554432 < (chunkBytes l).length →
            ∃ t, exec (.fwChunk h o data true im cut) s = .next t ∧ t.il.flashA = s.il.flashA ∧ t.il.flashB = s.il.flashB))) ∧
      (61440 < data.length → ∀ last, exec (.fwChunk h o data last im cut) s = bad 0xFF stFormat) ∧
      (s.il.svn ≤ s.il.floor → exec (.svnCommit h) s = bad 0xFF stConflict) ∧
      (s.il.floor < s.il.svn → s.il.svn ≤ 63 →
        exec (.svnCommit h) s = ok { s1 with il := { s1.il with floor := s.il.svn } } []) ∧
      (s.lifecycleBad target.toNat true true = none → exec (.lifecycle h target true true true token) s = ok { s1 with
        il := { s1.il with lc := target.toNat, attested := s.il.attested && decide (target ≠ 3) } } []) ∧
      (∀ c, s.lifecycleBad target.toNat true true = some c → exec (.lifecycle h target true true true token) s = bad 0xFF c) ∧
      (s.il.anchor ≠ none → exec (.anchor h cert true) s = ok { s1 with il := { s1.il with anchor := some cert } } [] ∧
        exec (.anchor h cert false) s = bad 0xFF stOwnership) ∧
      exec (.eventlog h o) s = ok s1 (((s.log.drop o).take 256).flatMap LogEntry.words) ∧
      (∀ r, Tab.find s.mirror.records n = some r → exec (.meterRecord h n) s = ok s1 (r.map BitVec.toNat)) ∧
      (∀ r, s.mirror.regs.find? (fun r => r.1 == n) = some r → exec (.meterReg h n) s = ok s1 [r.2]) ∧
      (s.mirror.regs.find? (fun r => r.1 == n) = none → exec (.meterReg h n) s = bad 0xFF stBounds)) ∧
    (Admitted s h true false x →
      (p.st = .absent ∨ p.st = .teardown → exec (.teardown h part) s = bad part.val stConflict) ∧
      (p.st ≠ .absent → p.st ≠ .teardown → ∃ t, exec (.teardown h part) s = .next t ∧
        t = (s1.overtake part.val).beginEnd part.val (.teardown h false) .teardown ∧
        (s.allStill part.val = true → p.regions = [] → s.inRouters part.val = false → (t.part part.val).st = .absent)) ∧
      exec (.reset h) s = ok { s1 with power := { s1.power with ordered := true } } [] ∧
      (∀ l, s1.telemetryPage page.toNat = some l → exec (.telemetry h page) s = ok s1 l)) ∧
    (s.il.anchor = none → s.il.boot = .booted → s.il.locked = false → s.lands.provEn = true →
      exec (.anchor h cert false) s = ok { s.rouse with il := { s.il with anchor := some cert } } []) ∧
    (p.job = .teardown h false → ∃ t, exec (.teardownHaltTimeout part) s = .next t ∧ t = s.rouse.powerOffEnd part.val ∧
      ∀ r ∈ p.rings, (t.ring r).awake = false)

/-- The device after reset (R130, R351, R404, R407, R410, R412, log entry 6, log entry 7). After a power-on reset
the boot is still to come, no partition exists, every ring is asleep, no command waits, the cause is the
power-on reset, both caps are 3,600 W, the steps are 0, a ring sleeps after 100 ms, no VF is enabled, and the
memory has its canonical form. That the meter has then counted no seal break and refused no order is the model's
choice, which the specification does not give (log entries 6 and 7). -/
def Obligations.AtReset : Prop :=
  State.reset.il.boot = .none_ ∧ State.reset.il.locked = false ∧ (∀ k, State.reset.part k = .reset) ∧
  Partition.reset.st = .absent ∧ (∀ k, (State.reset.ring k).awake = false) ∧ State.reset.pending = [] ∧
  State.reset.power.rstcause = 1 ∧ State.reset.power.opcap = 3600 ∧ State.reset.power.bdcap = 3600 ∧
  State.reset.power.step = 0 ∧ State.reset.power.ringidle = 100 ∧ State.reset.power.tripped = false ∧
  State.reset.host.vfEnable = false ∧ State.reset.meter.breaks = 0 ∧ State.reset.meter.refused = 0 ∧
  State.reset.memWf = true

/-- Every step keeps the memory's canonical form (R10, log entry 5). Where the memory lists its bytes at strictly
rising addresses, none of them the value of an unlisted address, so it does after every step. -/
def Obligations.MemoryCanonical : Prop :=
  ∀ s t : State, s.memWf = true → step s = .next t → t.memWf = true
end

