-- ==== Sys2Proof/Laws/Exec.lean ====
section
/-! SUPPORT. What `exec` is on each constructor. -/

namespace Sys2Proof.Machine

@[simp] theorem exec_orderPost {fn slot op tag args} (s : State) : exec (.orderPost fn slot op tag args) s = execOrderPost fn slot op tag args s := rfl
@[simp] theorem exec_orderBookScan {wrong} (s : State) : exec (.orderBookScan wrong) s = execOrderBookScan s wrong := rfl
@[simp] theorem exec_slotWriteWhileTaken {fn slot offset value} (s : State) : exec (.slotWriteWhileTaken fn slot offset value) s = execSlotWriteWhileTaken fn slot offset value s := rfl
@[simp] theorem exec_imageKey {fn slot addr idereq wrong} (s : State) : exec (.imageKey fn slot addr idereq wrong) s = execImageKey fn slot addr idereq s wrong := rfl
@[simp] theorem exec_imageLoad {fn slot addr len} (s : State) : exec (.imageLoad fn slot addr len) s = execImageLoad fn slot addr len s := rfl
@[simp] theorem exec_step {fn slot ckpt} (s : State) : exec (.step fn slot ckpt) s = execStep fn slot ckpt s := rfl
@[simp] theorem exec_restore {fn slot src roff rstate} (s : State) : exec (.restore fn slot src roff rstate) s = execRestore fn slot src roff rstate s := rfl
@[simp] theorem exec_halt {org part} (s : State) : exec (.halt org part) s = execHalt org part s := rfl
@[simp] theorem exec_certificate {fn slot dest space nonceLen selector nonceAddr wrong} (s : State) : exec (.certificate fn slot dest space nonceLen selector nonceAddr wrong) s = execCertificate fn slot dest space nonceLen selector nonceAddr s wrong := rfl
@[simp] theorem exec_seal {fn slot src dst len wrong} (s : State) : exec (.seal fn slot src dst len wrong) s = execSeal fn slot src dst len s wrong := rfl
@[simp] theorem exec_unseal {fn slot src dst len wrong} (s : State) : exec (.unseal fn slot src dst len wrong) s = execUnseal fn slot src dst len s wrong := rfl
@[simp] theorem exec_registerRead {org addr width} (s : State) : exec (.registerRead org addr width) s = execRegisterRead org addr width s := rfl
@[simp] theorem exec_registerWrite {org addr width value} (s : State) : exec (.registerWrite org addr width value) s = execRegisterWrite org addr width value s := rfl
@[simp] theorem exec_bind {slot vf part} (s : State) : exec (.bind slot vf part) s = execBind slot vf part s := rfl
@[simp] theorem exec_unbind {slot vf} (s : State) : exec (.unbind slot vf) s = execUnbind slot vf s := rfl
@[simp] theorem exec_partitionList {slot} (s : State) : exec (.partitionList slot) s = execPartitionList slot s := rfl
@[simp] theorem exec_setNumvfs {n} (s : State) : exec (.setNumvfs n) s = execSetNumvfs n s := rfl
@[simp] theorem exec_vfEnableClear (s : State) : exec .vfEnableClear s = execVfEnableClear s := rfl
@[simp] theorem exec_vfFlr {fn} (s : State) : exec (.vfFlr fn) s = execVfFlr fn s := rfl
@[simp] theorem exec_pfFlr (s : State) : exec .pfFlr s = execPfFlr s := rfl
@[simp] theorem exec_bar2Read {fn addr len wrong} (s : State) : exec (.bar2Read fn addr len wrong) s = execBar2Read fn addr len wrong s := rfl
@[simp] theorem exec_bar2Write {fn addr data fault inStream wrong} (s : State) : exec (.bar2Write fn addr data fault inStream wrong) s = execBar2Write fn addr data fault inStream wrong s := rfl
@[simp] theorem exec_msixUnmask {fn act} (s : State) : exec (.msixUnmask fn act) s = execMsixUnmask fn act s := rfl
@[simp] theorem exec_ideKm {fn km} (s : State) : exec (.ideKm fn km) s = execIdeKm fn km s := rfl
@[simp] theorem exec_create {h part rings regions} (s : State) : exec (.create h part rings regions) s = execCreate h part rings regions s := rfl
@[simp] theorem exec_teardown {h part} (s : State) : exec (.teardown h part) s = execTeardown h part s := rfl
@[simp] theorem exec_teardownHaltTimeout {part} (s : State) : exec (.teardownHaltTimeout part) s = execTeardownHaltTimeout part s := rfl
@[simp] theorem exec_partitions {h} (s : State) : exec (.partitions h) s = execPartitions h s := rfl
@[simp] theorem exec_hello {sess tick} (s : State) : exec (.hello sess tick) s = execHello sess tick s := rfl
@[simp] theorem exec_certs {sess chain} (s : State) : exec (.certs sess chain) s = execCerts sess chain s := rfl
@[simp] theorem exec_keyshare {sess share} (s : State) : exec (.keyshare sess share) s = execKeyshare sess share s := rfl
@[simp] theorem exec_finish {sess transcript tick} (s : State) : exec (.finish sess transcript tick) s = execFinish sess transcript tick s := rfl
@[simp] theorem exec_sessionTimeout {sess tick} (s : State) : exec (.sessionTimeout sess tick) s = execSessionTimeout sess tick s := rfl
@[simp] theorem exec_fwChunk {h offset data last image cut} (s : State) : exec (.fwChunk h offset data last image cut) s = execFwChunk h offset data last image s cut := rfl
@[simp] theorem exec_svnCommit {h} (s : State) : exec (.svnCommit h) s = execSvnCommit h s := rfl
@[simp] theorem exec_reset {h} (s : State) : exec (.reset h) s = execReset h s := rfl
@[simp] theorem exec_lifecycle {h target ecdsaOk hssOk serialOk token} (s : State) : exec (.lifecycle h target ecdsaOk hssOk serialOk token) s = execLifecycle h target ecdsaOk hssOk serialOk s token := rfl
@[simp] theorem exec_anchor {h cert signedByCurrent} (s : State) : exec (.anchor h cert signedByCurrent) s = execAnchor h cert signedByCurrent s := rfl
@[simp] theorem exec_scrub {h regions} (s : State) : exec (.scrub h regions) s = execScrub h regions s := rfl
@[simp] theorem exec_telemetry {h page} (s : State) : exec (.telemetry h page) s = execTelemetry h page s := rfl
@[simp] theorem exec_eventlog {h first} (s : State) : exec (.eventlog h first) s = execEventlog h first s := rfl
@[simp] theorem exec_meterRecord {h seq} (s : State) : exec (.meterRecord h seq) s = execMeterRecord h seq s := rfl
@[simp] theorem exec_meterReg {h offset} (s : State) : exec (.meterReg h offset) s = execMeterReg h offset s := rfl
@[simp] theorem exec_dkRpcmdRemapRow {h span ch bank row} (s : State) : exec (.dkRpcmdRemapRow h span ch bank row) s = execDkRpcmdRemapRow h span ch bank row s := rfl
@[simp] theorem exec_dkRpcmdReturnChannel {h span ch} (s : State) : exec (.dkRpcmdReturnChannel h span ch) s = execDkRpcmdReturnChannel h span ch s := rfl
@[simp] theorem exec_dkRpcmdReinstateRegion {h span region} (s : State) : exec (.dkRpcmdReinstateRegion h span region) s = execDkRpcmdReinstateRegion h span region s := rfl
@[simp] theorem exec_bdcapWrite {offset bytes} (s : State) : exec (.bdcapWrite offset bytes) s = execBdcapWrite offset s bytes := rfl
@[simp] theorem exec_i3cDynamicAddress {setdasa staticAddr addr} (s : State) : exec (.i3cDynamicAddress setdasa staticAddr addr) s = execI3cDynamicAddress setdasa staticAddr addr s := rfl
@[simp] theorem exec_sadd {i rd ra rb} (s : State) : exec (.sadd i rd ra rb) s = execSadd i rd ra rb s := rfl
@[simp] theorem exec_ssub {i rd ra rb} (s : State) : exec (.ssub i rd ra rb) s = execSsub i rd ra rb s := rfl
@[simp] theorem exec_sand {i rd ra rb} (s : State) : exec (.sand i rd ra rb) s = execSand i rd ra rb s := rfl
@[simp] theorem exec_sor {i rd ra rb} (s : State) : exec (.sor i rd ra rb) s = execSor i rd ra rb s := rfl
@[simp] theorem exec_sxor {i rd ra rb} (s : State) : exec (.sxor i rd ra rb) s = execSxor i rd ra rb s := rfl
@[simp] theorem exec_sshl {i rd ra rb} (s : State) : exec (.sshl i rd ra rb) s = execSshl i rd ra rb s := rfl
@[simp] theorem exec_sshr {i rd ra rb} (s : State) : exec (.sshr i rd ra rb) s = execSshr i rd ra rb s := rfl
@[simp] theorem exec_ssra {i rd ra rb} (s : State) : exec (.ssra i rd ra rb) s = execSsra i rd ra rb s := rfl
@[simp] theorem exec_smul {i rd ra rb} (s : State) : exec (.smul i rd ra rb) s = execSmul i rd ra rb s := rfl
@[simp] theorem exec_smin {i rd ra rb} (s : State) : exec (.smin i rd ra rb) s = execSmin i rd ra rb s := rfl
@[simp] theorem exec_smax {i rd ra rb} (s : State) : exec (.smax i rd ra rb) s = execSmax i rd ra rb s := rfl
@[simp] theorem exec_sslt {i rd ra rb} (s : State) : exec (.sslt i rd ra rb) s = execSslt i rd ra rb s := rfl
@[simp] theorem exec_saddi {i rd ra imm} (s : State) : exec (.saddi i rd ra imm) s = execSaddi i rd ra imm s := rfl
@[simp] theorem exec_sli {i rd imm} (s : State) : exec (.sli i rd imm) s = execSli i rd imm s := rfl
@[simp] theorem exec_slih {i rd imm} (s : State) : exec (.slih i rd imm) s = execSlih i rd imm s := rfl
@[simp] theorem exec_sld {i rd ra imm} (s : State) : exec (.sld i rd ra imm) s = execSld i rd ra imm s := rfl
@[simp] theorem exec_sst {i rb ra imm} (s : State) : exec (.sst i rb ra imm) s = execSst i rb ra imm s := rfl
@[simp] theorem exec_srds {i rd off} (s : State) : exec (.srds i rd off) s = execSrds i rd off s := rfl
@[simp] theorem exec_swrs {i ra off} (s : State) : exec (.swrs i ra off) s = execSwrs i ra off s := rfl
@[simp] theorem exec_br {i target} (s : State) : exec (.br i target) s = execBr i target s := rfl
@[simp] theorem exec_beq {i ra rb target} (s : State) : exec (.beq i ra rb target) s = execBeq i ra rb target s := rfl
@[simp] theorem exec_bne {i ra rb target} (s : State) : exec (.bne i ra rb target) s = execBne i ra rb target s := rfl
@[simp] theorem exec_blt {i ra rb target} (s : State) : exec (.blt i ra rb target) s = execBlt i ra rb target s := rfl
@[simp] theorem exec_bnzd {i ra target} (s : State) : exec (.bnzd i ra target) s = execBnzd i ra target s := rfl
@[simp] theorem exec_vsetvl {i rd ra w} (s : State) : exec (.vsetvl i rd ra w) s = execVsetvl i rd ra w s := rfl
@[simp] theorem exec_lpre {i leg} (s : State) : exec (.lpre i leg) s = execLpre i leg s := rfl
@[simp] theorem exec_legStaged {ring cycle} (s : State) : exec (.legStaged ring cycle) s = execLegStaged ring cycle s := rfl
@[simp] theorem exec_vadd {i p f} (s : State) : exec (.vadd i p f) s = execVadd i p f s := rfl
@[simp] theorem exec_vsub {i p f} (s : State) : exec (.vsub i p f) s = execVsub i p f s := rfl
@[simp] theorem exec_vmul {i p f} (s : State) : exec (.vmul i p f) s = execVmul i p f s := rfl
@[simp] theorem exec_vfma {i p f} (s : State) : exec (.vfma i p f) s = execVfma i p f s := rfl
@[simp] theorem exec_vfms {i p f} (s : State) : exec (.vfms i p f) s = execVfms i p f s := rfl
@[simp] theorem exec_vfnma {i p f} (s : State) : exec (.vfnma i p f) s = execVfnma i p f s := rfl
@[simp] theorem exec_vdiv {i p f} (s : State) : exec (.vdiv i p f) s = execVdiv i p f s := rfl
@[simp] theorem exec_vsqrt {i p f} (s : State) : exec (.vsqrt i p f) s = execVsqrt i p f s := rfl
@[simp] theorem exec_vwmul {i p f} (s : State) : exec (.vwmul i p f) s = execVwmul i p f s := rfl
@[simp] theorem exec_vdot2Bf {i p f} (s : State) : exec (.vdot2Bf i p f) s = execVdot2Bf i p f s := rfl
@[simp] theorem exec_vdot4 {i p f} (s : State) : exec (.vdot4 i p f) s = execVdot4 i p f s := rfl
@[simp] theorem exec_vand {i f} (s : State) : exec (.vand i f) s = execVand i f s := rfl
@[simp] theorem exec_vor {i f} (s : State) : exec (.vor i f) s = execVor i f s := rfl
@[simp] theorem exec_vxor {i f} (s : State) : exec (.vxor i f) s = execVxor i f s := rfl
@[simp] theorem exec_vnot {i f} (s : State) : exec (.vnot i f) s = execVnot i f s := rfl
@[simp] theorem exec_vshl {i f} (s : State) : exec (.vshl i f) s = execVshl i f s := rfl
@[simp] theorem exec_vshr {i f} (s : State) : exec (.vshr i f) s = execVshr i f s := rfl
@[simp] theorem exec_vsra {i f} (s : State) : exec (.vsra i f) s = execVsra i f s := rfl
@[simp] theorem exec_vmin {i f} (s : State) : exec (.vmin i f) s = execVmin i f s := rfl
@[simp] theorem exec_vmax {i f} (s : State) : exec (.vmax i f) s = execVmax i f s := rfl
@[simp] theorem exec_vcmp {i f} (s : State) : exec (.vcmp i f) s = execVcmp i f s := rfl
@[simp] theorem exec_vsel {i f} (s : State) : exec (.vsel i f) s = execVsel i f s := rfl
@[simp] theorem exec_vcvt {i f} (s : State) : exec (.vcvt i f) s = execVcvt i f s := rfl
@[simp] theorem exec_vqblk {i f} (s : State) : exec (.vqblk i f) s = execVqblk i f s := rfl
@[simp] theorem exec_vdqblk {i f} (s : State) : exec (.vdqblk i f) s = execVdqblk i f s := rfl
@[simp] theorem exec_vexp2 {i f} (s : State) : exec (.vexp2 i f) s = execVexp2 i f s := rfl
@[simp] theorem exec_vrcp {i f} (s : State) : exec (.vrcp i f) s = execVrcp i f s := rfl
@[simp] theorem exec_vrsum {i f} (s : State) : exec (.vrsum i f) s = execVrsum i f s := rfl
@[simp] theorem exec_vmvsx {i f} (s : State) : exec (.vmvsx i f) s = execVmvsx i f s := rfl
@[simp] theorem exec_mand {i f} (s : State) : exec (.mand i f) s = execMand i f s := rfl
@[simp] theorem exec_mor {i f} (s : State) : exec (.mor i f) s = execMor i f s := rfl
@[simp] theorem exec_mxor {i f} (s : State) : exec (.mxor i f) s = execMxor i f s := rfl
@[simp] theorem exec_mnot {i f} (s : State) : exec (.mnot i f) s = execMnot i f s := rfl
@[simp] theorem exec_mpop {i f} (s : State) : exec (.mpop i f) s = execMpop i f s := rfl
@[simp] theorem exec_vaccRd {i f} (s : State) : exec (.vaccRd i f) s = execVaccRd i f s := rfl
@[simp] theorem exec_vld {i f} (s : State) : exec (.vld i f) s = execVld i f s := rfl
@[simp] theorem exec_vst {i f} (s : State) : exec (.vst i f) s = execVst i f s := rfl
@[simp] theorem exec_vld2 {i f} (s : State) : exec (.vld2 i f) s = execVld2 i f s := rfl
@[simp] theorem exec_vld3 {i f} (s : State) : exec (.vld3 i f) s = execVld3 i f s := rfl
@[simp] theorem exec_vld4 {i f} (s : State) : exec (.vld4 i f) s = execVld4 i f s := rfl
@[simp] theorem exec_vst2 {i f} (s : State) : exec (.vst2 i f) s = execVst2 i f s := rfl
@[simp] theorem exec_vst3 {i f} (s : State) : exec (.vst3 i f) s = execVst3 i f s := rfl
@[simp] theorem exec_vst4 {i f} (s : State) : exec (.vst4 i f) s = execVst4 i f s := rfl
@[simp] theorem exec_vectorResultWrite {i} (s : State) : exec (.vectorResultWrite i) s = execVectorResultWrite i s := rfl
@[simp] theorem exec_freeBankAccess {cl who cycle wrong} (s : State) : exec (.freeBankAccess cl who cycle wrong) s = execFreeBankAccess cl who cycle wrong s := rfl
@[simp] theorem exec_mmul {i f} (s : State) : exec (.mmul i f) s = execMmul i f s := rfl
@[simp] theorem exec_accumulatorJoin {i} (s : State) : exec (.accumulatorJoin i) s = execAccumulatorJoin i s := rfl
@[simp] theorem exec_mstart {i} (s : State) : exec (.mstart i) s = execMstart i s := rfl
@[simp] theorem exec_mstop {i} (s : State) : exec (.mstop i) s = execMstop i s := rfl
@[simp] theorem exec_rampStep {i} (s : State) : exec (.rampStep i) s = execRampStep i s := rfl
@[simp] theorem exec_mldw {i sd} (s : State) : exec (.mldw i sd) s = execMldw i sd s := rfl
@[simp] theorem exec_mldwComplete {i} (s : State) : exec (.mldwComplete i) s = execMldwComplete i s := rfl
@[simp] theorem exec_mswap {i} (s : State) : exec (.mswap i) s = execMswap i s := rfl
@[simp] theorem exec_mwr {i f} (s : State) : exec (.mwr i f) s = execMwr i f s := rfl
@[simp] theorem exec_columnCheckMismatch {cl cycle col} (s : State) : exec (.columnCheckMismatch cl cycle col) s = execColumnCheckMismatch cl cycle col s := rfl
@[simp] theorem exec_mbr {i ra rb flush} (s : State) : exec (.mbr i ra rb flush) s = execMbr i ra rb flush s := rfl
@[simp] theorem exec_batchLimitExpiry {i} (s : State) : exec (.batchLimitExpiry i) s = execBatchLimitExpiry i s := rfl
@[simp] theorem exec_batchComplete {i} (s : State) : exec (.batchComplete i) s = execBatchComplete i s := rfl
@[simp] theorem exec_coast {i count} (s : State) : exec (.coast i count) s = execCoast i count s := rfl
@[simp] theorem exec_coastEnd {i} (s : State) : exec (.coastEnd i) s = execCoastEnd i s := rfl
@[simp] theorem exec_tpost {i scope name count} (s : State) : exec (.tpost i scope name count) s = execTpost i scope name count s := rfl
@[simp] theorem exec_tokenPostApplied {i} (s : State) : exec (.tokenPostApplied i) s = execTokenPostApplied i s := rfl
@[simp] theorem exec_twait {i scope name count} (s : State) : exec (.twait i scope name count) s = execTwait i scope name count s := rfl
@[simp] theorem exec_swait {i mask} (s : State) : exec (.swait i mask) s = execSwait i mask s := rfl
@[simp] theorem exec_leg {i target} (s : State) : exec (.leg i target) s = execLeg i target s := rfl
@[simp] theorem exec_endHold {i} (s : State) : exec (.endHold i) s = execEndHold i s := rfl
@[simp] theorem exec_holdRelease {i} (s : State) : exec (.holdRelease i) s = execHoldRelease i s := rfl
@[simp] theorem exec_holdLimitExpiry {i} (s : State) : exec (.holdLimitExpiry i) s = execHoldLimitExpiry i s := rfl
@[simp] theorem exec_startHold {i} (s : State) : exec (.startHold i) s = execStartHold i s := rfl
@[simp] theorem exec_ringHalted {i} (s : State) : exec (.ringHalted i) s = execRingHalted i s := rfl
@[simp] theorem exec_stgo {i eng pslot sr} (s : State) : exec (.stgo i eng pslot sr) s = execStgo i eng pslot sr s := rfl
@[simp] theorem exec_strel {i eng} (s : State) : exec (.strel i eng) s = execStrel i eng s := rfl
@[simp] theorem exec_sthalt {i eng} (s : State) : exec (.sthalt i eng) s = execSthalt i eng s := rfl
@[simp] theorem exec_sCfg {e dir half base} (s : State) : exec (.sCfg e dir half base) s = execSCfg e dir half base s := rfl
@[simp] theorem exec_sPar {e da} (s : State) : exec (.sPar e da) s = execSPar e da s := rfl
@[simp] theorem exec_sLi {e da imm} (s : State) : exec (.sLi e da imm) s = execSLi e da imm s := rfl
@[simp] theorem exec_sAddi {e da sa imm} (s : State) : exec (.sAddi e da sa imm) s = execSAddi e da sa imm s := rfl
@[simp] theorem exec_sAdd {e da sa} (s : State) : exec (.sAdd e da sa) s = execSAdd e da sa s := rfl
@[simp] theorem exec_sLoop {e count n} (s : State) : exec (.sLoop e count n) s = execSLoop e count n s := rfl
@[simp] theorem exec_sGet {e sa len inc} (s : State) : exec (.sGet e sa len inc) s = execSGet e sa len inc s := rfl
@[simp] theorem exec_sPut {e sa len inc} (s : State) : exec (.sPut e sa len inc) s = execSPut e sa len inc s := rfl
@[simp] theorem exec_sFlip {e} (s : State) : exec (.sFlip e) s = execSFlip e s := rfl
@[simp] theorem exec_sPost {e scope name} (s : State) : exec (.sPost e scope name) s = execSPost e scope name s := rfl
@[simp] theorem exec_sEnd {e} (s : State) : exec (.sEnd e) s = execSEnd e s := rfl
@[simp] theorem exec_streamHalfFull {e half} (s : State) : exec (.streamHalfFull e half) s = execStreamHalfFull e half s := rfl
@[simp] theorem exec_xget {i sd tscope tname} (s : State) : exec (.xget i sd tscope tname) s = execXget i sd tscope tname s := rfl
@[simp] theorem exec_xput {i sd tscope tname} (s : State) : exec (.xput i sd tscope tname) s = execXput i sd tscope tname s := rfl
@[simp] theorem exec_xmove {i sd tscope tname} (s : State) : exec (.xmove i sd tscope tname) s = execXmove i sd tscope tname s := rfl
@[simp] theorem exec_transferComplete {cl idx cycle} (s : State) : exec (.transferComplete cl idx cycle) s = execTransferComplete cl idx cycle s := rfl
@[simp] theorem exec_trestleSubmit {i value} (s : State) : exec (.trestleSubmit i value) s = execTrestleSubmit i value s := rfl
@[simp] theorem exec_trestleRequestStart {ring cycle} (s : State) : exec (.trestleRequestStart ring cycle) s = execTrestleRequestStart ring cycle s := rfl
@[simp] theorem exec_residualKernelIssue {cl pipe cycle} (s : State) : exec (.residualKernelIssue cl pipe cycle) s = execResidualKernelIssue cl pipe cycle s := rfl
@[simp] theorem exec_trestleDeadline {ring cycle iters} (s : State) : exec (.trestleDeadline ring cycle iters) s = execTrestleDeadline ring cycle iters s := rfl
@[simp] theorem exec_trestleComplete {ring cycle} (s : State) : exec (.trestleComplete ring cycle) s = execTrestleComplete ring cycle s := rfl
@[simp] theorem exec_scheduleCopy {ring} (s : State) : exec (.scheduleCopy ring) s = execScheduleCopy ring s := rfl
@[simp] theorem exec_faultReport {ring cycle} (s : State) : exec (.faultReport ring cycle) s = execFaultReport ring cycle s := rfl
@[simp] theorem exec_recovery {part tests badEntries} (s : State) : exec (.recovery part tests badEntries) s = execRecovery part tests badEntries s := rfl
@[simp] theorem exec_commit {part} (s : State) : exec (.commit part) s = execCommit part s := rfl
@[simp] theorem exec_journaledWrite {acc data mask} (s : State) : exec (.journaledWrite acc data mask) s = execJournaledWrite acc data mask s := rfl
@[simp] theorem exec_journalEntryStored {siding} (s : State) : exec (.journalEntryStored siding) s = execJournalEntryStored siding s := rfl
@[simp] theorem exec_checkpointStopEnd {part badExtent} (s : State) : exec (.checkpointStopEnd part badExtent) s = execCheckpointStopEnd part badExtent s := rfl
@[simp] theorem exec_checkpointAck {part dest} (s : State) : exec (.checkpointAck part dest) s = execCheckpointAck part dest s := rfl
@[simp] theorem exec_destinationTimeout {part dest} (s : State) : exec (.destinationTimeout part dest) s = execDestinationTimeout part dest s := rfl
@[simp] theorem exec_bulkFrameReceive {port half f} (s : State) : exec (.bulkFrameReceive port half f) s = execBulkFrameReceive port half f s := rfl
@[simp] theorem exec_deckRead {acc wrong} (s : State) : exec (.deckRead acc wrong) s = execDeckRead acc wrong s := rfl
@[simp] theorem exec_deckWrite {acc data mask cycle wrong} (s : State) : exec (.deckWrite acc data mask cycle wrong) s = execDeckWrite acc data mask cycle wrong s := rfl
@[simp] theorem exec_writeBufferDrain {span ch cycle} (s : State) : exec (.writeBufferDrain span ch cycle) s = execWriteBufferDrain span ch cycle s := rfl
@[simp] theorem exec_refresh {span ch temp waiting} (s : State) : exec (.refresh span ch temp waiting) s = execRefresh span ch temp waiting s := rfl
@[simp] theorem exec_scrubWrite {span addr} (s : State) : exec (.scrubWrite span addr) s = execScrubWrite span addr s := rfl
@[simp] theorem exec_scrubComplete {span} (s : State) : exec (.scrubComplete span) s = execScrubComplete span s := rfl
@[simp] theorem exec_calibrationStep {span at_ checkOk} (s : State) : exec (.calibrationStep span at_ checkOk) s = execCalibrationStep span at_ checkOk s := rfl
@[simp] theorem exec_channelRetrain {span ch errors} (s : State) : exec (.channelRetrain span ch errors) s = execChannelRetrain span ch errors s := rfl
@[simp] theorem exec_channelRetrainDone {span} (s : State) : exec (.channelRetrainDone span) s = execChannelRetrainDone span s := rfl
@[simp] theorem exec_channelOffline {span} (s : State) : exec (.channelOffline span) s = execChannelOffline span s := rfl
@[simp] theorem exec_flitReceive {at_ inEdge f} (s : State) : exec (.flitReceive at_ inEdge f) s = execFlitReceive at_ inEdge f s := rfl
@[simp] theorem exec_flitReplay {edge n fc} (s : State) : exec (.flitReplay edge n fc) s = execFlitReplay edge n fc s := rfl
@[simp] theorem exec_edgeRetrain {edge fc} (s : State) : exec (.edgeRetrain edge fc) s = execEdgeRetrain edge fc s := rfl
@[simp] theorem exec_edgeRetrainDone {die side failing} (s : State) : exec (.edgeRetrainDone die side failing) s = execEdgeRetrainDone die side failing s := rfl
@[simp] theorem exec_naridFrameReceive {port half f fec tag fc} (s : State) : exec (.naridFrameReceive port half f fec tag fc) s = execNaridFrameReceive port half f fec tag fc s := rfl
@[simp] theorem exec_naridNak {port half seq} (s : State) : exec (.naridNak port half seq) s = execNaridNak port half seq s := rfl
@[simp] theorem exec_farEndDetected {port half} (s : State) : exec (.farEndDetected port half) s = execFarEndDetected port half s := rfl
@[simp] theorem exec_cableDetached {port half} (s : State) : exec (.cableDetached port half) s = execCableDetached port half s := rfl
@[simp] theorem exec_trainingDone {port half ok} (s : State) : exec (.trainingDone port half ok) s = execTrainingDone port half ok s := rfl
@[simp] theorem exec_naridHandshake {port half certsOk lifecycleField agreed} (s : State) : exec (.naridHandshake port half certsOk lifecycleField agreed) s = execNaridHandshake port half certsOk lifecycleField agreed s := rfl
@[simp] theorem exec_naridRekey {link agreed certsOk lifecycleField} (s : State) : exec (.naridRekey link agreed certsOk lifecycleField) s = execNaridRekey link agreed s certsOk lifecycleField := rfl
@[simp] theorem exec_linkIdle {port half} (s : State) : exec (.linkIdle port half) s = execLinkIdle port half s := rfl
@[simp] theorem exec_linkSleep {port half} (s : State) : exec (.linkSleep port half) s = execLinkSleep port half s := rfl
@[simp] theorem exec_linkFrameReady {port half} (s : State) : exec (.linkFrameReady port half) s = execLinkFrameReady port half s := rfl
@[simp] theorem exec_linkRetrain {link seen} (s : State) : exec (.linkRetrain link seen) s = execLinkRetrain link seen s := rfl
@[simp] theorem exec_linkRetrainDone {port half ok} (s : State) : exec (.linkRetrainDone port half ok) s = execLinkRetrainDone port half ok s := rfl
@[simp] theorem exec_invocationStart {group bucket fc} (s : State) : exec (.invocationStart group bucket fc) s = execInvocationStart group bucket fc s := rfl
@[simp] theorem exec_rootJoin {group bucket chunk} (s : State) : exec (.rootJoin group bucket chunk) s = execRootJoin group bucket chunk s := rfl
@[simp] theorem exec_resultReceive {group bucket chunk} (s : State) : exec (.resultReceive group bucket chunk) s = execResultReceive group bucket chunk s := rfl
@[simp] theorem exec_digestCheck {group bucket chunk} (s : State) : exec (.digestCheck group bucket chunk) s = execDigestCheck group bucket chunk s := rfl
@[simp] theorem exec_memberVerdict {group bucket} (s : State) : exec (.memberVerdict group bucket) s = execMemberVerdict group bucket s := rfl
@[simp] theorem exec_groupVerdictSend {group bucket} (s : State) : exec (.groupVerdictSend group bucket) s = execGroupVerdictSend group bucket s := rfl
@[simp] theorem exec_groupVerdict {group bucket v} (s : State) : exec (.groupVerdict group bucket v) s = execGroupVerdict group bucket v s := rfl
@[simp] theorem exec_collectiveTimeout {group bucket fc} (s : State) : exec (.collectiveTimeout group bucket fc) s = execCollectiveTimeout group bucket fc s := rfl
@[simp] theorem exec_capEvaluation {milliwatts dieTemps deckTemps} (s : State) : exec (.capEvaluation milliwatts dieTemps deckTemps) s = execCapEvaluation milliwatts dieTemps deckTemps s := rfl
@[simp] theorem exec_ringClockStep {ring} (s : State) : exec (.ringClockStep ring) s = execRingClockStep ring s := rfl
@[simp] theorem exec_thermalTrip {span} (s : State) : exec (.thermalTrip span) s = execThermalTrip span s := rfl
@[simp] theorem exec_ringSleep {ring} (s : State) : exec (.ringSleep ring) s = execRingSleep ring s := rfl
@[simp] theorem exec_ringWake {ring tests} (s : State) : exec (.ringWake ring tests) s = execRingWake ring tests s := rfl
@[simp] theorem exec_uncoreOff (s : State) : exec .uncoreOff s = execUncoreOff s := rfl
@[simp] theorem exec_uncoreOn (s : State) : exec .uncoreOn s = execUncoreOn s := rfl
@[simp] theorem exec_coresSleep (s : State) : exec .coresSleep s = execCoresSleep s := rfl
@[simp] theorem exec_coresWake {cause} (s : State) : exec (.coresWake cause) s = execCoresWake cause s := rfl
@[simp] theorem exec_pwrok (s : State) : exec .pwrok s = execPwrok s := rfl
@[simp] theorem exec_powerOnReset (s : State) : exec .powerOnReset s = execPowerOnReset s := rfl
@[simp] theorem exec_perst (s : State) : exec .perst s = execPerst s := rfl
@[simp] theorem exec_sysRstN {low} (s : State) : exec (.sysRstN low) s = execSysRstN low s := rfl
@[simp] theorem exec_deviceReset {cause} (s : State) : exec (.deviceReset cause) s = execDeviceReset cause s := rfl
@[simp] theorem exec_referenceLoss (s : State) : exec .referenceLoss s = execReferenceLoss s := rfl
@[simp] theorem exec_referenceReturn (s : State) : exec .referenceReturn s = execReferenceReturn s := rfl
@[simp] theorem exec_boot {slotA slotB idCertOk repairOk} (s : State) : exec (.boot slotA slotB idCertOk repairOk) s = execBoot slotA slotB idCertOk repairOk s := rfl
@[simp] theorem exec_lockstepMismatch (s : State) : exec .lockstepMismatch s = execLockstepMismatch s := rfl
@[simp] theorem exec_lmsTreeGenerated (s : State) : exec .lmsTreeGenerated s = execLmsTreeGenerated s := rfl
@[simp] theorem exec_workFrameSend {span} (s : State) : exec (.workFrameSend span) s = execWorkFrameSend span s := rfl
@[simp] theorem exec_workFrameReceive {f} (s : State) : exec (.workFrameReceive f) s = execWorkFrameReceive f s := rfl
@[simp] theorem exec_worklossTimeout {span} (s : State) : exec (.worklossTimeout span) s = execWorklossTimeout span s := rfl
@[simp] theorem exec_partitionEventFrame {ev part rings seq ms} (s : State) : exec (.partitionEventFrame ev part rings seq ms) s = execPartitionEventFrame ev part rings seq ms s := rfl
@[simp] theorem exec_snapshotFrame {comes formed crcOk ms} (s : State) : exec (.snapshotFrame comes formed crcOk ms) s = execSnapshotFrame comes formed crcOk ms s := rfl
@[simp] theorem exec_intervalBoundary {ms} (s : State) : exec (.intervalBoundary ms) s = execIntervalBoundary ms s := rfl
@[simp] theorem exec_hourRecord {ms} (s : State) : exec (.hourRecord ms) s = execHourRecord ms s := rfl
@[simp] theorem exec_sealBreakAssert {ms} (s : State) : exec (.sealBreakAssert ms) s = execSealBreakAssert ms s := rfl
@[simp] theorem exec_sealBreakRelease {ms} (s : State) : exec (.sealBreakRelease ms) s = execSealBreakRelease ms s := rfl
@[simp] theorem exec_meterSupplyFail (s : State) : exec .meterSupplyFail s = execMeterSupplyFail s := rfl
@[simp] theorem exec_meterStart {start} (s : State) : exec (.meterStart start) s = execMeterStart start s := rfl
@[simp] theorem exec_crystalFail (s : State) : exec .crystalFail s = execCrystalFail s := rfl
@[simp] theorem exec_crystalReturn (s : State) : exec .crystalReturn s = execCrystalReturn s := rfl
@[simp] theorem exec_mailboxOutput (s : State) : exec .mailboxOutput s = execMailboxOutput s := rfl
@[simp] theorem exec_meterMailboxReceive (s : State) : exec .meterMailboxReceive s = execMeterMailboxReceive s := rfl
@[simp] theorem exec_getReg {offset} (s : State) : exec (.getReg offset) s = execGetReg offset s := rfl
@[simp] theorem exec_getRecord {seq} (s : State) : exec (.getRecord seq) s = execGetRecord seq s := rfl
@[simp] theorem exec_getCert (s : State) : exec .getCert s = execGetCert s := rfl
@[simp] theorem exec_getNonce (s : State) : exec .getNonce s = execGetNonce s := rfl
@[simp] theorem exec_change {o} (s : State) : exec (.change o) s = execChange o s := rfl
@[simp] theorem exec_extest {cells} (s : State) : exec (.extest cells) s = execExtest s cells := rfl
@[simp] theorem exec_idcode (s : State) : exec .idcode s = execIdcode s := rfl
@[simp] theorem exec_samplePreload {preload} (s : State) : exec (.samplePreload preload) s = execSamplePreload preload s := rfl
@[simp] theorem exec_clamp (s : State) : exec .clamp s = execClamp s := rfl
@[simp] theorem exec_highz (s : State) : exec .highz s = execHighz s := rfl
@[simp] theorem exec_extestPulse {cells} (s : State) : exec (.extestPulse cells) s = execExtestPulse s cells := rfl
@[simp] theorem exec_extestTrain {cells} (s : State) : exec (.extestTrain cells) s = execExtestTrain s cells := rfl
@[simp] theorem exec_bypass (s : State) : exec .bypass s = execBypass s := rfl
@[simp] theorem exec_testLogicReset {by_} (s : State) : exec (.testLogicReset by_) s = execTestLogicReset s by_ := rfl
@[simp] theorem exec_imageValidationEnd {part hwFault wrong} (s : State) : exec (.imageValidationEnd part hwFault wrong) s = execImageValidationEnd part hwFault wrong s := rfl
@[simp] theorem exec_restoreComplete {part exts data hwFault} (s : State) : exec (.restoreComplete part exts data hwFault) s = execRestoreComplete part exts data hwFault s := rfl
@[simp] theorem exec_naridPortConfiguration {h port value} (s : State) : exec (.naridPortConfiguration h port value) s = execNaridPortConfiguration h port value s := rfl
@[simp] theorem exec_spdmKeyExchange {fn ok} (s : State) : exec (.spdmKeyExchange fn ok) s = execSpdmKeyExchange fn ok s := rfl
@[simp] theorem exec_energySample {samples} (s : State) : exec (.energySample samples) s = execEnergySample samples s := rfl

end Sys2Proof.Machine
end

