-- ==== Sys2Proof/Laws/Tab.lean ====
section
/-! SUPPORT. Sparse tables: what a read gives after a write, and the canonical form kept by every operation. -/

namespace Sys2Proof.Machine

variable {α : Type}

/-- Keys below every key of a table read as the default. -/
theorem Tab.get_of_lt [DecidableEq α] (d : α) (m : Tab α) (lo i : Nat) (h : Tab.wfFrom d lo m = true) (hi : i < lo) :
    Tab.get d m i = d := by
  induction m generalizing lo with
  | nil => rfl
  | cons p m ih =>
    simp only [Tab.wfFrom, Bool.and_eq_true, decide_eq_true_eq] at h
    rw [Tab.get, if_neg (by omega), if_pos (by omega)]

/-- After `ins`, the key reads as the value put there. -/
@[simp] theorem Tab.get_ins_same (d : α) (m : Tab α) (i : Nat) (x : α) : Tab.get d (Tab.ins i x m) i = x := by
  induction m with
  | nil => simp [Tab.ins, Tab.get]
  | cons p m ih =>
    obtain ⟨k, v⟩ := p
    rw [Tab.ins]
    split
    · simp [Tab.get]
    · split
      · simp [Tab.get]
      · rw [Tab.get, if_neg (by omega), if_neg (by omega), ih]

/-- After `ins`, every other key reads as before. -/
theorem Tab.get_ins_ne (d : α) (m : Tab α) (i j : Nat) (x : α) (h : j ≠ i) : Tab.get d (Tab.ins i x m) j = Tab.get d m j := by
  induction m with
  | nil =>
    simp [Tab.ins, Tab.get, h]
  | cons p m ih =>
    obtain ⟨k, v⟩ := p
    rw [Tab.ins]
    split
    · rw [Tab.get, if_neg h]
      split
      · rw [Tab.get, if_neg (by omega), if_pos (by omega)]
      · rfl
    · split
      · subst_vars
        rw [Tab.get, Tab.get, if_neg h, if_neg h]
      · simp only [Tab.get, ih]

/-- `ins` keeps the canonical form where the value is not the default. -/
theorem Tab.wfFrom_ins [DecidableEq α] (d : α) (m : Tab α) (lo i : Nat) (x : α) (h : Tab.wfFrom d lo m = true) (hi : lo ≤ i)
    (hx : x ≠ d) : Tab.wfFrom d lo (Tab.ins i x m) = true := by
  induction m generalizing lo with
  | nil => simp [Tab.ins, Tab.wfFrom, hi, hx]
  | cons p m ih =>
    obtain ⟨k, v⟩ := p
    simp only [Tab.wfFrom, Bool.and_eq_true, decide_eq_true_eq] at h
    obtain ⟨⟨h1, h2⟩, h3⟩ := h
    rw [Tab.ins]
    split
    · simp only [Tab.wfFrom, Bool.and_eq_true, decide_eq_true_eq]
      exact ⟨⟨hi, hx⟩, ⟨by omega, h2⟩, h3⟩
    · split
      · subst_vars
        simp only [Tab.wfFrom, Bool.and_eq_true, decide_eq_true_eq]
        exact ⟨⟨hi, hx⟩, h3⟩
      · simp only [Tab.wfFrom, Bool.and_eq_true, decide_eq_true_eq]
        exact ⟨⟨h1, h2⟩, ih (k + 1) h3 (by omega)⟩

/-- A table canonical from a key is canonical from every lower one. -/
theorem Tab.wfFrom_mono [DecidableEq α] (d : α) (m : Tab α) (lo lo' : Nat) (h : Tab.wfFrom d lo m = true) (hl : lo' ≤ lo) :
    Tab.wfFrom d lo' m = true := by
  cases m with
  | nil => rfl
  | cons p m =>
    obtain ⟨k, v⟩ := p
    simp only [Tab.wfFrom, Bool.and_eq_true, decide_eq_true_eq] at h ⊢
    exact ⟨⟨by omega, h.1.2⟩, h.2⟩

/-- `del` keeps the canonical form. -/
theorem Tab.wfFrom_del [DecidableEq α] (d : α) (m : Tab α) (lo i : Nat) (h : Tab.wfFrom d lo m = true) :
    Tab.wfFrom d lo (Tab.del i m) = true := by
  induction m generalizing lo with
  | nil => rfl
  | cons p m ih =>
    obtain ⟨k, v⟩ := p
    have h' := h
    simp only [Tab.wfFrom, Bool.and_eq_true, decide_eq_true_eq] at h
    rw [Tab.del]
    split
    · exact Tab.wfFrom_mono d m (k + 1) lo h.2 (by omega)
    · split
      · exact h'
      · simp only [Tab.wfFrom, Bool.and_eq_true, decide_eq_true_eq]
        exact ⟨h.1, ih (k + 1) h.2⟩

/-- `set` keeps the canonical form. -/
theorem Tab.wf_set [DecidableEq α] (d : α) (m : Tab α) (i : Nat) (x : α) (h : Tab.wf d m = true) :
    Tab.wf d (Tab.set d m i x) = true := by
  rw [Tab.set]
  split
  · exact Tab.wfFrom_del d m 0 i h
  · exact Tab.wfFrom_ins d m 0 i x h (Nat.zero_le i) (by assumption)

/-- A run of writes keeps the canonical form. -/
theorem Tab.wf_setRun [DecidableEq α] (d : α) (l : List α) (m : Tab α) (i : Nat) (h : Tab.wf d m = true) :
    Tab.wf d (Tab.setRun d m i l) = true := by
  induction l generalizing m i with
  | nil => exact h
  | cons x xs ih => exact ih (Tab.set d m i x) (i + 1) (Tab.wf_set d m i x h)

/-- Dropping entries keeps the canonical form. -/
theorem Tab.wfFrom_filter [DecidableEq α] (d : α) (q : Nat × α → Bool) (m : Tab α) (lo : Nat) (h : Tab.wfFrom d lo m = true) :
    Tab.wfFrom d lo (m.filter q) = true := by
  induction m generalizing lo with
  | nil => rfl
  | cons p m ih =>
    obtain ⟨k, v⟩ := p
    simp only [Tab.wfFrom, Bool.and_eq_true, decide_eq_true_eq] at h
    rw [List.filter_cons]
    split
    · simp only [Tab.wfFrom, Bool.and_eq_true, decide_eq_true_eq]
      exact ⟨h.1, ih (k + 1) h.2⟩
    · exact Tab.wfFrom_mono d _ (k + 1) lo (ih (k + 1) h.2) (by omega)

theorem Tab.wf_clear [DecidableEq α] (d : α) (m : Tab α) (lo n : Nat) (h : Tab.wf d m = true) :
    Tab.wf d (Tab.clear m lo n) = true := Tab.wfFrom_filter d _ m 0 h

/-- After `del`, a canonical table's key reads as the default. -/
theorem Tab.get_del_same [DecidableEq α] (d : α) (m : Tab α) (lo i : Nat) (h : Tab.wfFrom d lo m = true) :
    Tab.get d (Tab.del i m) i = d := by
  induction m generalizing lo with
  | nil => rfl
  | cons p m ih =>
    obtain ⟨k, v⟩ := p
    have h' := h
    simp only [Tab.wfFrom, Bool.and_eq_true, decide_eq_true_eq] at h
    rw [Tab.del]
    split
    · exact Tab.get_of_lt d m (k + 1) i h.2 (by omega)
    · split
      · exact Tab.get_of_lt d _ k i (by simpa [Tab.wfFrom] using ⟨h.1.2, h.2⟩) (by omega)
      · rw [Tab.get, if_neg (by omega), if_neg (by omega), ih (k + 1) h.2]

/-- After `del`, every other key of a canonical table reads as before. -/
theorem Tab.get_del_ne [DecidableEq α] (d : α) (m : Tab α) (lo i j : Nat) (h : Tab.wfFrom d lo m = true) (hj : j ≠ i) :
    Tab.get d (Tab.del i m) j = Tab.get d m j := by
  induction m generalizing lo with
  | nil => rfl
  | cons p m ih =>
    obtain ⟨k, v⟩ := p
    simp only [Tab.wfFrom, Bool.and_eq_true, decide_eq_true_eq] at h
    rw [Tab.del]
    split
    · subst_vars
      rw [Tab.get, if_neg hj]
      split
      · exact Tab.get_of_lt d m (k + 1) j h.2 (by omega)
      · rfl
    · split
      · rfl
      · simp only [Tab.get, ih (k + 1) h.2]

/-- A read of the key written. -/
theorem Tab.get_set_same [DecidableEq α] (d : α) (m : Tab α) (i : Nat) (x : α) (h : Tab.wf d m = true) :
    Tab.get d (Tab.set d m i x) i = x := by
  rw [Tab.set]
  split
  · rw [Tab.get_del_same d m 0 i h]
    exact Eq.symm (by assumption)
  · exact Tab.get_ins_same d m i x

/-- A read of another key. -/
theorem Tab.get_set_ne [DecidableEq α] (d : α) (m : Tab α) (i j : Nat) (x : α) (h : Tab.wf d m = true) (hj : j ≠ i) :
    Tab.get d (Tab.set d m i x) j = Tab.get d m j := by
  rw [Tab.set]
  split
  · exact Tab.get_del_ne d m 0 i j h hj
  · exact Tab.get_ins_ne d m i j x hj

/-- A read outside a run of writes. -/
theorem Tab.get_setRun_ne [DecidableEq α] (d : α) (l : List α) (m : Tab α) (i j : Nat) (h : Tab.wf d m = true)
    (hj : j < i ∨ i + l.length ≤ j) : Tab.get d (Tab.setRun d m i l) j = Tab.get d m j := by
  induction l generalizing m i with
  | nil => rfl
  | cons x xs ih =>
    simp only [List.length_cons] at hj
    rw [Tab.setRun, ih (Tab.set d m i x) (i + 1) (Tab.wf_set d m i x h) (by omega), Tab.get_set_ne d m i j x h (by omega)]

/-- A read of a byte of a run of writes. -/
theorem Tab.get_setRun_in [DecidableEq α] (d : α) (l : List α) (m : Tab α) (i k : Nat) (h : Tab.wf d m = true)
    (hk : k < l.length) : Tab.get d (Tab.setRun d m i l) (i + k) = l[k] := by
  induction l generalizing m i k with
  | nil => simp at hk
  | cons x xs ih =>
    rw [Tab.setRun]
    cases k with
    | zero =>
      rw [Tab.get_setRun_ne d xs _ (i + 1) (i + 0) (Tab.wf_set d m i x h) (by omega)]
      exact Tab.get_set_same d m i x h
    | succ k =>
      have := ih (Tab.set d m i x) (i + 1) k (Tab.wf_set d m i x h) (by simpa using hk)
      rw [show i + (k + 1) = i + 1 + k by omega, this]
      rfl

end Sys2Proof.Machine
end

