-- ==== Sys2Proof/Laws/State.lean ====
section
/-! SUPPORT. One lemma per field per update of the state, and what each table reads after a write. -/

namespace Sys2Proof.Machine

/-! ## `setRing` -/

@[simp] theorem State.setRing_pending (s : State) (i : Nat) (r : Ring) : (s.setRing i r).pending = s.pending := rfl
@[simp] theorem State.setRing_spans (s : State) (i : Nat) (r : Ring) : (s.setRing i r).spans = s.spans := rfl
@[simp] theorem State.setRing_edges (s : State) (i : Nat) (r : Ring) : (s.setRing i r).edges = s.edges := rfl
@[simp] theorem State.setRing_ctlDrops (s : State) (i : Nat) (r : Ring) : (s.setRing i r).ctlDrops = s.ctlDrops := rfl
@[simp] theorem State.setRing_opens (s : State) (i : Nat) (r : Ring) : (s.setRing i r).opens = s.opens := rfl
@[simp] theorem State.setRing_stalled (s : State) (i : Nat) (r : Ring) : (s.setRing i r).stalled = s.stalled := rfl
@[simp] theorem State.setRing_colls (s : State) (i : Nat) (r : Ring) : (s.setRing i r).colls = s.colls := rfl
@[simp] theorem State.setRing_mem (s : State) (i : Nat) (r : Ring) : (s.setRing i r).mem = s.mem := rfl
@[simp] theorem State.setRing_parts (s : State) (i : Nat) (r : Ring) : (s.setRing i r).parts = s.parts := rfl
@[simp] theorem State.setRing_sidings (s : State) (i : Nat) (r : Ring) : (s.setRing i r).sidings = s.sidings := rfl
@[simp] theorem State.setRing_ports (s : State) (i : Nat) (r : Ring) : (s.setRing i r).ports = s.ports := rfl
@[simp] theorem State.setRing_groups (s : State) (i : Nat) (r : Ring) : (s.setRing i r).groups = s.groups := rfl
@[simp] theorem State.setRing_bulkw (s : State) (i : Nat) (r : Ring) : (s.setRing i r).bulkw = s.bulkw := rfl
@[simp] theorem State.setRing_fns (s : State) (i : Nat) (r : Ring) : (s.setRing i r).fns = s.fns := rfl
@[simp] theorem State.setRing_host (s : State) (i : Nat) (r : Ring) : (s.setRing i r).host = s.host := rfl
@[simp] theorem State.setRing_il (s : State) (i : Nat) (r : Ring) : (s.setRing i r).il = s.il := rfl
@[simp] theorem State.setRing_power (s : State) (i : Nat) (r : Ring) : (s.setRing i r).power = s.power := rfl
@[simp] theorem State.setRing_meter (s : State) (i : Nat) (r : Ring) : (s.setRing i r).meter = s.meter := rfl
@[simp] theorem State.setRing_mirror (s : State) (i : Nat) (r : Ring) : (s.setRing i r).mirror = s.mirror := rfl
@[simp] theorem State.setRing_tap (s : State) (i : Nat) (r : Ring) : (s.setRing i r).tap = s.tap := rfl
@[simp] theorem State.setRing_lands (s : State) (i : Nat) (r : Ring) : (s.setRing i r).lands = s.lands := rfl
@[simp] theorem State.setRing_i3c (s : State) (i : Nat) (r : Ring) : (s.setRing i r).i3c = s.i3c := rfl
@[simp] theorem State.setRing_repair (s : State) (i : Nat) (r : Ring) : (s.setRing i r).repair = s.repair := rfl
@[simp] theorem State.setRing_srCopy (s : State) (i : Nat) (r : Ring) : (s.setRing i r).srCopy = s.srCopy := rfl
@[simp] theorem State.setRing_log (s : State) (i : Nat) (r : Ring) : (s.setRing i r).log = s.log := rfl
@[simp] theorem State.setRing_outbox (s : State) (i : Nat) (r : Ring) : (s.setRing i r).outbox = s.outbox := rfl
@[simp] theorem State.setRing_evseq (s : State) (i : Nat) (r : Ring) : (s.setRing i r).evseq = s.evseq := rfl
@[simp] theorem State.setRing_free (s : State) (i : Nat) (r : Ring) : (s.setRing i r).free = s.free := rfl

/-! ## `setSpan` -/

@[simp] theorem State.setSpan_pending (s : State) (i : Nat) (x : Span) : (s.setSpan i x).pending = s.pending := rfl
@[simp] theorem State.setSpan_rings (s : State) (i : Nat) (x : Span) : (s.setSpan i x).rings = s.rings := rfl
@[simp] theorem State.setSpan_edges (s : State) (i : Nat) (x : Span) : (s.setSpan i x).edges = s.edges := rfl
@[simp] theorem State.setSpan_ctlDrops (s : State) (i : Nat) (x : Span) : (s.setSpan i x).ctlDrops = s.ctlDrops := rfl
@[simp] theorem State.setSpan_opens (s : State) (i : Nat) (x : Span) : (s.setSpan i x).opens = s.opens := rfl
@[simp] theorem State.setSpan_stalled (s : State) (i : Nat) (x : Span) : (s.setSpan i x).stalled = s.stalled := rfl
@[simp] theorem State.setSpan_colls (s : State) (i : Nat) (x : Span) : (s.setSpan i x).colls = s.colls := rfl
@[simp] theorem State.setSpan_mem (s : State) (i : Nat) (x : Span) : (s.setSpan i x).mem = s.mem := rfl
@[simp] theorem State.setSpan_parts (s : State) (i : Nat) (x : Span) : (s.setSpan i x).parts = s.parts := rfl
@[simp] theorem State.setSpan_sidings (s : State) (i : Nat) (x : Span) : (s.setSpan i x).sidings = s.sidings := rfl
@[simp] theorem State.setSpan_ports (s : State) (i : Nat) (x : Span) : (s.setSpan i x).ports = s.ports := rfl
@[simp] theorem State.setSpan_groups (s : State) (i : Nat) (x : Span) : (s.setSpan i x).groups = s.groups := rfl
@[simp] theorem State.setSpan_bulkw (s : State) (i : Nat) (x : Span) : (s.setSpan i x).bulkw = s.bulkw := rfl
@[simp] theorem State.setSpan_fns (s : State) (i : Nat) (x : Span) : (s.setSpan i x).fns = s.fns := rfl
@[simp] theorem State.setSpan_host (s : State) (i : Nat) (x : Span) : (s.setSpan i x).host = s.host := rfl
@[simp] theorem State.setSpan_il (s : State) (i : Nat) (x : Span) : (s.setSpan i x).il = s.il := rfl
@[simp] theorem State.setSpan_power (s : State) (i : Nat) (x : Span) : (s.setSpan i x).power = s.power := rfl
@[simp] theorem State.setSpan_meter (s : State) (i : Nat) (x : Span) : (s.setSpan i x).meter = s.meter := rfl
@[simp] theorem State.setSpan_mirror (s : State) (i : Nat) (x : Span) : (s.setSpan i x).mirror = s.mirror := rfl
@[simp] theorem State.setSpan_tap (s : State) (i : Nat) (x : Span) : (s.setSpan i x).tap = s.tap := rfl
@[simp] theorem State.setSpan_lands (s : State) (i : Nat) (x : Span) : (s.setSpan i x).lands = s.lands := rfl
@[simp] theorem State.setSpan_i3c (s : State) (i : Nat) (x : Span) : (s.setSpan i x).i3c = s.i3c := rfl
@[simp] theorem State.setSpan_repair (s : State) (i : Nat) (x : Span) : (s.setSpan i x).repair = s.repair := rfl
@[simp] theorem State.setSpan_srCopy (s : State) (i : Nat) (x : Span) : (s.setSpan i x).srCopy = s.srCopy := rfl
@[simp] theorem State.setSpan_log (s : State) (i : Nat) (x : Span) : (s.setSpan i x).log = s.log := rfl
@[simp] theorem State.setSpan_outbox (s : State) (i : Nat) (x : Span) : (s.setSpan i x).outbox = s.outbox := rfl
@[simp] theorem State.setSpan_evseq (s : State) (i : Nat) (x : Span) : (s.setSpan i x).evseq = s.evseq := rfl
@[simp] theorem State.setSpan_free (s : State) (i : Nat) (x : Span) : (s.setSpan i x).free = s.free := rfl

/-! ## `setDeck` -/

@[simp] theorem State.setDeck_pending (s : State) (i : Nat) (d : Deck) : (s.setDeck i d).pending = s.pending := rfl
@[simp] theorem State.setDeck_rings (s : State) (i : Nat) (d : Deck) : (s.setDeck i d).rings = s.rings := rfl
@[simp] theorem State.setDeck_edges (s : State) (i : Nat) (d : Deck) : (s.setDeck i d).edges = s.edges := rfl
@[simp] theorem State.setDeck_ctlDrops (s : State) (i : Nat) (d : Deck) : (s.setDeck i d).ctlDrops = s.ctlDrops := rfl
@[simp] theorem State.setDeck_opens (s : State) (i : Nat) (d : Deck) : (s.setDeck i d).opens = s.opens := rfl
@[simp] theorem State.setDeck_stalled (s : State) (i : Nat) (d : Deck) : (s.setDeck i d).stalled = s.stalled := rfl
@[simp] theorem State.setDeck_colls (s : State) (i : Nat) (d : Deck) : (s.setDeck i d).colls = s.colls := rfl
@[simp] theorem State.setDeck_mem (s : State) (i : Nat) (d : Deck) : (s.setDeck i d).mem = s.mem := rfl
@[simp] theorem State.setDeck_parts (s : State) (i : Nat) (d : Deck) : (s.setDeck i d).parts = s.parts := rfl
@[simp] theorem State.setDeck_sidings (s : State) (i : Nat) (d : Deck) : (s.setDeck i d).sidings = s.sidings := rfl
@[simp] theorem State.setDeck_ports (s : State) (i : Nat) (d : Deck) : (s.setDeck i d).ports = s.ports := rfl
@[simp] theorem State.setDeck_groups (s : State) (i : Nat) (d : Deck) : (s.setDeck i d).groups = s.groups := rfl
@[simp] theorem State.setDeck_bulkw (s : State) (i : Nat) (d : Deck) : (s.setDeck i d).bulkw = s.bulkw := rfl
@[simp] theorem State.setDeck_fns (s : State) (i : Nat) (d : Deck) : (s.setDeck i d).fns = s.fns := rfl
@[simp] theorem State.setDeck_host (s : State) (i : Nat) (d : Deck) : (s.setDeck i d).host = s.host := rfl
@[simp] theorem State.setDeck_il (s : State) (i : Nat) (d : Deck) : (s.setDeck i d).il = s.il := rfl
@[simp] theorem State.setDeck_power (s : State) (i : Nat) (d : Deck) : (s.setDeck i d).power = s.power := rfl
@[simp] theorem State.setDeck_meter (s : State) (i : Nat) (d : Deck) : (s.setDeck i d).meter = s.meter := rfl
@[simp] theorem State.setDeck_mirror (s : State) (i : Nat) (d : Deck) : (s.setDeck i d).mirror = s.mirror := rfl
@[simp] theorem State.setDeck_tap (s : State) (i : Nat) (d : Deck) : (s.setDeck i d).tap = s.tap := rfl
@[simp] theorem State.setDeck_lands (s : State) (i : Nat) (d : Deck) : (s.setDeck i d).lands = s.lands := rfl
@[simp] theorem State.setDeck_i3c (s : State) (i : Nat) (d : Deck) : (s.setDeck i d).i3c = s.i3c := rfl
@[simp] theorem State.setDeck_repair (s : State) (i : Nat) (d : Deck) : (s.setDeck i d).repair = s.repair := rfl
@[simp] theorem State.setDeck_srCopy (s : State) (i : Nat) (d : Deck) : (s.setDeck i d).srCopy = s.srCopy := rfl
@[simp] theorem State.setDeck_log (s : State) (i : Nat) (d : Deck) : (s.setDeck i d).log = s.log := rfl
@[simp] theorem State.setDeck_outbox (s : State) (i : Nat) (d : Deck) : (s.setDeck i d).outbox = s.outbox := rfl
@[simp] theorem State.setDeck_evseq (s : State) (i : Nat) (d : Deck) : (s.setDeck i d).evseq = s.evseq := rfl
@[simp] theorem State.setDeck_free (s : State) (i : Nat) (d : Deck) : (s.setDeck i d).free = s.free := rfl

/-! ## `setEdge` -/

@[simp] theorem State.setEdge_pending (s : State) (i j : Nat) (e : Edge) : (s.setEdge i j e).pending = s.pending := rfl
@[simp] theorem State.setEdge_rings (s : State) (i j : Nat) (e : Edge) : (s.setEdge i j e).rings = s.rings := rfl
@[simp] theorem State.setEdge_spans (s : State) (i j : Nat) (e : Edge) : (s.setEdge i j e).spans = s.spans := rfl
@[simp] theorem State.setEdge_ctlDrops (s : State) (i j : Nat) (e : Edge) : (s.setEdge i j e).ctlDrops = s.ctlDrops := rfl
@[simp] theorem State.setEdge_opens (s : State) (i j : Nat) (e : Edge) : (s.setEdge i j e).opens = s.opens := rfl
@[simp] theorem State.setEdge_stalled (s : State) (i j : Nat) (e : Edge) : (s.setEdge i j e).stalled = s.stalled := rfl
@[simp] theorem State.setEdge_colls (s : State) (i j : Nat) (e : Edge) : (s.setEdge i j e).colls = s.colls := rfl
@[simp] theorem State.setEdge_mem (s : State) (i j : Nat) (e : Edge) : (s.setEdge i j e).mem = s.mem := rfl
@[simp] theorem State.setEdge_parts (s : State) (i j : Nat) (e : Edge) : (s.setEdge i j e).parts = s.parts := rfl
@[simp] theorem State.setEdge_sidings (s : State) (i j : Nat) (e : Edge) : (s.setEdge i j e).sidings = s.sidings := rfl
@[simp] theorem State.setEdge_ports (s : State) (i j : Nat) (e : Edge) : (s.setEdge i j e).ports = s.ports := rfl
@[simp] theorem State.setEdge_groups (s : State) (i j : Nat) (e : Edge) : (s.setEdge i j e).groups = s.groups := rfl
@[simp] theorem State.setEdge_bulkw (s : State) (i j : Nat) (e : Edge) : (s.setEdge i j e).bulkw = s.bulkw := rfl
@[simp] theorem State.setEdge_fns (s : State) (i j : Nat) (e : Edge) : (s.setEdge i j e).fns = s.fns := rfl
@[simp] theorem State.setEdge_host (s : State) (i j : Nat) (e : Edge) : (s.setEdge i j e).host = s.host := rfl
@[simp] theorem State.setEdge_il (s : State) (i j : Nat) (e : Edge) : (s.setEdge i j e).il = s.il := rfl
@[simp] theorem State.setEdge_power (s : State) (i j : Nat) (e : Edge) : (s.setEdge i j e).power = s.power := rfl
@[simp] theorem State.setEdge_meter (s : State) (i j : Nat) (e : Edge) : (s.setEdge i j e).meter = s.meter := rfl
@[simp] theorem State.setEdge_mirror (s : State) (i j : Nat) (e : Edge) : (s.setEdge i j e).mirror = s.mirror := rfl
@[simp] theorem State.setEdge_tap (s : State) (i j : Nat) (e : Edge) : (s.setEdge i j e).tap = s.tap := rfl
@[simp] theorem State.setEdge_lands (s : State) (i j : Nat) (e : Edge) : (s.setEdge i j e).lands = s.lands := rfl
@[simp] theorem State.setEdge_i3c (s : State) (i j : Nat) (e : Edge) : (s.setEdge i j e).i3c = s.i3c := rfl
@[simp] theorem State.setEdge_repair (s : State) (i j : Nat) (e : Edge) : (s.setEdge i j e).repair = s.repair := rfl
@[simp] theorem State.setEdge_srCopy (s : State) (i j : Nat) (e : Edge) : (s.setEdge i j e).srCopy = s.srCopy := rfl
@[simp] theorem State.setEdge_log (s : State) (i j : Nat) (e : Edge) : (s.setEdge i j e).log = s.log := rfl
@[simp] theorem State.setEdge_outbox (s : State) (i j : Nat) (e : Edge) : (s.setEdge i j e).outbox = s.outbox := rfl
@[simp] theorem State.setEdge_evseq (s : State) (i j : Nat) (e : Edge) : (s.setEdge i j e).evseq = s.evseq := rfl
@[simp] theorem State.setEdge_free (s : State) (i j : Nat) (e : Edge) : (s.setEdge i j e).free = s.free := rfl

/-! ## `setPart` -/

@[simp] theorem State.setPart_pending (s : State) (i : Nat) (p : Partition) : (s.setPart i p).pending = s.pending := rfl
@[simp] theorem State.setPart_rings (s : State) (i : Nat) (p : Partition) : (s.setPart i p).rings = s.rings := rfl
@[simp] theorem State.setPart_spans (s : State) (i : Nat) (p : Partition) : (s.setPart i p).spans = s.spans := rfl
@[simp] theorem State.setPart_edges (s : State) (i : Nat) (p : Partition) : (s.setPart i p).edges = s.edges := rfl
@[simp] theorem State.setPart_ctlDrops (s : State) (i : Nat) (p : Partition) : (s.setPart i p).ctlDrops = s.ctlDrops := rfl
@[simp] theorem State.setPart_opens (s : State) (i : Nat) (p : Partition) : (s.setPart i p).opens = s.opens := rfl
@[simp] theorem State.setPart_stalled (s : State) (i : Nat) (p : Partition) : (s.setPart i p).stalled = s.stalled := rfl
@[simp] theorem State.setPart_colls (s : State) (i : Nat) (p : Partition) : (s.setPart i p).colls = s.colls := rfl
@[simp] theorem State.setPart_mem (s : State) (i : Nat) (p : Partition) : (s.setPart i p).mem = s.mem := rfl
@[simp] theorem State.setPart_sidings (s : State) (i : Nat) (p : Partition) : (s.setPart i p).sidings = s.sidings := rfl
@[simp] theorem State.setPart_ports (s : State) (i : Nat) (p : Partition) : (s.setPart i p).ports = s.ports := rfl
@[simp] theorem State.setPart_groups (s : State) (i : Nat) (p : Partition) : (s.setPart i p).groups = s.groups := rfl
@[simp] theorem State.setPart_bulkw (s : State) (i : Nat) (p : Partition) : (s.setPart i p).bulkw = s.bulkw := rfl
@[simp] theorem State.setPart_fns (s : State) (i : Nat) (p : Partition) : (s.setPart i p).fns = s.fns := rfl
@[simp] theorem State.setPart_host (s : State) (i : Nat) (p : Partition) : (s.setPart i p).host = s.host := rfl
@[simp] theorem State.setPart_il (s : State) (i : Nat) (p : Partition) : (s.setPart i p).il = s.il := rfl
@[simp] theorem State.setPart_power (s : State) (i : Nat) (p : Partition) : (s.setPart i p).power = s.power := rfl
@[simp] theorem State.setPart_meter (s : State) (i : Nat) (p : Partition) : (s.setPart i p).meter = s.meter := rfl
@[simp] theorem State.setPart_mirror (s : State) (i : Nat) (p : Partition) : (s.setPart i p).mirror = s.mirror := rfl
@[simp] theorem State.setPart_tap (s : State) (i : Nat) (p : Partition) : (s.setPart i p).tap = s.tap := rfl
@[simp] theorem State.setPart_lands (s : State) (i : Nat) (p : Partition) : (s.setPart i p).lands = s.lands := rfl
@[simp] theorem State.setPart_i3c (s : State) (i : Nat) (p : Partition) : (s.setPart i p).i3c = s.i3c := rfl
@[simp] theorem State.setPart_repair (s : State) (i : Nat) (p : Partition) : (s.setPart i p).repair = s.repair := rfl
@[simp] theorem State.setPart_srCopy (s : State) (i : Nat) (p : Partition) : (s.setPart i p).srCopy = s.srCopy := rfl
@[simp] theorem State.setPart_log (s : State) (i : Nat) (p : Partition) : (s.setPart i p).log = s.log := rfl
@[simp] theorem State.setPart_outbox (s : State) (i : Nat) (p : Partition) : (s.setPart i p).outbox = s.outbox := rfl
@[simp] theorem State.setPart_evseq (s : State) (i : Nat) (p : Partition) : (s.setPart i p).evseq = s.evseq := rfl
@[simp] theorem State.setPart_free (s : State) (i : Nat) (p : Partition) : (s.setPart i p).free = s.free := rfl

/-! ## `setSiding` -/

@[simp] theorem State.setSiding_pending (s : State) (i : Nat) (x : Siding) : (s.setSiding i x).pending = s.pending := rfl
@[simp] theorem State.setSiding_rings (s : State) (i : Nat) (x : Siding) : (s.setSiding i x).rings = s.rings := rfl
@[simp] theorem State.setSiding_spans (s : State) (i : Nat) (x : Siding) : (s.setSiding i x).spans = s.spans := rfl
@[simp] theorem State.setSiding_edges (s : State) (i : Nat) (x : Siding) : (s.setSiding i x).edges = s.edges := rfl
@[simp] theorem State.setSiding_ctlDrops (s : State) (i : Nat) (x : Siding) : (s.setSiding i x).ctlDrops = s.ctlDrops := rfl
@[simp] theorem State.setSiding_opens (s : State) (i : Nat) (x : Siding) : (s.setSiding i x).opens = s.opens := rfl
@[simp] theorem State.setSiding_stalled (s : State) (i : Nat) (x : Siding) : (s.setSiding i x).stalled = s.stalled := rfl
@[simp] theorem State.setSiding_colls (s : State) (i : Nat) (x : Siding) : (s.setSiding i x).colls = s.colls := rfl
@[simp] theorem State.setSiding_mem (s : State) (i : Nat) (x : Siding) : (s.setSiding i x).mem = s.mem := rfl
@[simp] theorem State.setSiding_parts (s : State) (i : Nat) (x : Siding) : (s.setSiding i x).parts = s.parts := rfl
@[simp] theorem State.setSiding_ports (s : State) (i : Nat) (x : Siding) : (s.setSiding i x).ports = s.ports := rfl
@[simp] theorem State.setSiding_groups (s : State) (i : Nat) (x : Siding) : (s.setSiding i x).groups = s.groups := rfl
@[simp] theorem State.setSiding_bulkw (s : State) (i : Nat) (x : Siding) : (s.setSiding i x).bulkw = s.bulkw := rfl
@[simp] theorem State.setSiding_fns (s : State) (i : Nat) (x : Siding) : (s.setSiding i x).fns = s.fns := rfl
@[simp] theorem State.setSiding_host (s : State) (i : Nat) (x : Siding) : (s.setSiding i x).host = s.host := rfl
@[simp] theorem State.setSiding_il (s : State) (i : Nat) (x : Siding) : (s.setSiding i x).il = s.il := rfl
@[simp] theorem State.setSiding_power (s : State) (i : Nat) (x : Siding) : (s.setSiding i x).power = s.power := rfl
@[simp] theorem State.setSiding_meter (s : State) (i : Nat) (x : Siding) : (s.setSiding i x).meter = s.meter := rfl
@[simp] theorem State.setSiding_mirror (s : State) (i : Nat) (x : Siding) : (s.setSiding i x).mirror = s.mirror := rfl
@[simp] theorem State.setSiding_tap (s : State) (i : Nat) (x : Siding) : (s.setSiding i x).tap = s.tap := rfl
@[simp] theorem State.setSiding_lands (s : State) (i : Nat) (x : Siding) : (s.setSiding i x).lands = s.lands := rfl
@[simp] theorem State.setSiding_i3c (s : State) (i : Nat) (x : Siding) : (s.setSiding i x).i3c = s.i3c := rfl
@[simp] theorem State.setSiding_repair (s : State) (i : Nat) (x : Siding) : (s.setSiding i x).repair = s.repair := rfl
@[simp] theorem State.setSiding_srCopy (s : State) (i : Nat) (x : Siding) : (s.setSiding i x).srCopy = s.srCopy := rfl
@[simp] theorem State.setSiding_log (s : State) (i : Nat) (x : Siding) : (s.setSiding i x).log = s.log := rfl
@[simp] theorem State.setSiding_outbox (s : State) (i : Nat) (x : Siding) : (s.setSiding i x).outbox = s.outbox := rfl
@[simp] theorem State.setSiding_evseq (s : State) (i : Nat) (x : Siding) : (s.setSiding i x).evseq = s.evseq := rfl
@[simp] theorem State.setSiding_free (s : State) (i : Nat) (x : Siding) : (s.setSiding i x).free = s.free := rfl

/-! ## `setPort` -/

@[simp] theorem State.setPort_pending (s : State) (i : Nat) (p : Port) : (s.setPort i p).pending = s.pending := rfl
@[simp] theorem State.setPort_rings (s : State) (i : Nat) (p : Port) : (s.setPort i p).rings = s.rings := rfl
@[simp] theorem State.setPort_spans (s : State) (i : Nat) (p : Port) : (s.setPort i p).spans = s.spans := rfl
@[simp] theorem State.setPort_edges (s : State) (i : Nat) (p : Port) : (s.setPort i p).edges = s.edges := rfl
@[simp] theorem State.setPort_ctlDrops (s : State) (i : Nat) (p : Port) : (s.setPort i p).ctlDrops = s.ctlDrops := rfl
@[simp] theorem State.setPort_opens (s : State) (i : Nat) (p : Port) : (s.setPort i p).opens = s.opens := rfl
@[simp] theorem State.setPort_stalled (s : State) (i : Nat) (p : Port) : (s.setPort i p).stalled = s.stalled := rfl
@[simp] theorem State.setPort_colls (s : State) (i : Nat) (p : Port) : (s.setPort i p).colls = s.colls := rfl
@[simp] theorem State.setPort_mem (s : State) (i : Nat) (p : Port) : (s.setPort i p).mem = s.mem := rfl
@[simp] theorem State.setPort_parts (s : State) (i : Nat) (p : Port) : (s.setPort i p).parts = s.parts := rfl
@[simp] theorem State.setPort_sidings (s : State) (i : Nat) (p : Port) : (s.setPort i p).sidings = s.sidings := rfl
@[simp] theorem State.setPort_groups (s : State) (i : Nat) (p : Port) : (s.setPort i p).groups = s.groups := rfl
@[simp] theorem State.setPort_bulkw (s : State) (i : Nat) (p : Port) : (s.setPort i p).bulkw = s.bulkw := rfl
@[simp] theorem State.setPort_fns (s : State) (i : Nat) (p : Port) : (s.setPort i p).fns = s.fns := rfl
@[simp] theorem State.setPort_host (s : State) (i : Nat) (p : Port) : (s.setPort i p).host = s.host := rfl
@[simp] theorem State.setPort_il (s : State) (i : Nat) (p : Port) : (s.setPort i p).il = s.il := rfl
@[simp] theorem State.setPort_power (s : State) (i : Nat) (p : Port) : (s.setPort i p).power = s.power := rfl
@[simp] theorem State.setPort_meter (s : State) (i : Nat) (p : Port) : (s.setPort i p).meter = s.meter := rfl
@[simp] theorem State.setPort_mirror (s : State) (i : Nat) (p : Port) : (s.setPort i p).mirror = s.mirror := rfl
@[simp] theorem State.setPort_tap (s : State) (i : Nat) (p : Port) : (s.setPort i p).tap = s.tap := rfl
@[simp] theorem State.setPort_lands (s : State) (i : Nat) (p : Port) : (s.setPort i p).lands = s.lands := rfl
@[simp] theorem State.setPort_i3c (s : State) (i : Nat) (p : Port) : (s.setPort i p).i3c = s.i3c := rfl
@[simp] theorem State.setPort_repair (s : State) (i : Nat) (p : Port) : (s.setPort i p).repair = s.repair := rfl
@[simp] theorem State.setPort_srCopy (s : State) (i : Nat) (p : Port) : (s.setPort i p).srCopy = s.srCopy := rfl
@[simp] theorem State.setPort_log (s : State) (i : Nat) (p : Port) : (s.setPort i p).log = s.log := rfl
@[simp] theorem State.setPort_outbox (s : State) (i : Nat) (p : Port) : (s.setPort i p).outbox = s.outbox := rfl
@[simp] theorem State.setPort_evseq (s : State) (i : Nat) (p : Port) : (s.setPort i p).evseq = s.evseq := rfl
@[simp] theorem State.setPort_free (s : State) (i : Nat) (p : Port) : (s.setPort i p).free = s.free := rfl

/-! ## `setGroup` -/

@[simp] theorem State.setGroup_pending (s : State) (i : Nat) (g : Group) : (s.setGroup i g).pending = s.pending := rfl
@[simp] theorem State.setGroup_rings (s : State) (i : Nat) (g : Group) : (s.setGroup i g).rings = s.rings := rfl
@[simp] theorem State.setGroup_spans (s : State) (i : Nat) (g : Group) : (s.setGroup i g).spans = s.spans := rfl
@[simp] theorem State.setGroup_edges (s : State) (i : Nat) (g : Group) : (s.setGroup i g).edges = s.edges := rfl
@[simp] theorem State.setGroup_ctlDrops (s : State) (i : Nat) (g : Group) : (s.setGroup i g).ctlDrops = s.ctlDrops := rfl
@[simp] theorem State.setGroup_opens (s : State) (i : Nat) (g : Group) : (s.setGroup i g).opens = s.opens := rfl
@[simp] theorem State.setGroup_stalled (s : State) (i : Nat) (g : Group) : (s.setGroup i g).stalled = s.stalled := rfl
@[simp] theorem State.setGroup_colls (s : State) (i : Nat) (g : Group) : (s.setGroup i g).colls = s.colls := rfl
@[simp] theorem State.setGroup_mem (s : State) (i : Nat) (g : Group) : (s.setGroup i g).mem = s.mem := rfl
@[simp] theorem State.setGroup_parts (s : State) (i : Nat) (g : Group) : (s.setGroup i g).parts = s.parts := rfl
@[simp] theorem State.setGroup_sidings (s : State) (i : Nat) (g : Group) : (s.setGroup i g).sidings = s.sidings := rfl
@[simp] theorem State.setGroup_ports (s : State) (i : Nat) (g : Group) : (s.setGroup i g).ports = s.ports := rfl
@[simp] theorem State.setGroup_bulkw (s : State) (i : Nat) (g : Group) : (s.setGroup i g).bulkw = s.bulkw := rfl
@[simp] theorem State.setGroup_fns (s : State) (i : Nat) (g : Group) : (s.setGroup i g).fns = s.fns := rfl
@[simp] theorem State.setGroup_host (s : State) (i : Nat) (g : Group) : (s.setGroup i g).host = s.host := rfl
@[simp] theorem State.setGroup_il (s : State) (i : Nat) (g : Group) : (s.setGroup i g).il = s.il := rfl
@[simp] theorem State.setGroup_power (s : State) (i : Nat) (g : Group) : (s.setGroup i g).power = s.power := rfl
@[simp] theorem State.setGroup_meter (s : State) (i : Nat) (g : Group) : (s.setGroup i g).meter = s.meter := rfl
@[simp] theorem State.setGroup_mirror (s : State) (i : Nat) (g : Group) : (s.setGroup i g).mirror = s.mirror := rfl
@[simp] theorem State.setGroup_tap (s : State) (i : Nat) (g : Group) : (s.setGroup i g).tap = s.tap := rfl
@[simp] theorem State.setGroup_lands (s : State) (i : Nat) (g : Group) : (s.setGroup i g).lands = s.lands := rfl
@[simp] theorem State.setGroup_i3c (s : State) (i : Nat) (g : Group) : (s.setGroup i g).i3c = s.i3c := rfl
@[simp] theorem State.setGroup_repair (s : State) (i : Nat) (g : Group) : (s.setGroup i g).repair = s.repair := rfl
@[simp] theorem State.setGroup_srCopy (s : State) (i : Nat) (g : Group) : (s.setGroup i g).srCopy = s.srCopy := rfl
@[simp] theorem State.setGroup_log (s : State) (i : Nat) (g : Group) : (s.setGroup i g).log = s.log := rfl
@[simp] theorem State.setGroup_outbox (s : State) (i : Nat) (g : Group) : (s.setGroup i g).outbox = s.outbox := rfl
@[simp] theorem State.setGroup_evseq (s : State) (i : Nat) (g : Group) : (s.setGroup i g).evseq = s.evseq := rfl
@[simp] theorem State.setGroup_free (s : State) (i : Nat) (g : Group) : (s.setGroup i g).free = s.free := rfl

/-! ## `setFn` -/

@[simp] theorem State.setFn_pending (s : State) (i : Nat) (f : Fn) : (s.setFn i f).pending = s.pending := rfl
@[simp] theorem State.setFn_rings (s : State) (i : Nat) (f : Fn) : (s.setFn i f).rings = s.rings := rfl
@[simp] theorem State.setFn_spans (s : State) (i : Nat) (f : Fn) : (s.setFn i f).spans = s.spans := rfl
@[simp] theorem State.setFn_edges (s : State) (i : Nat) (f : Fn) : (s.setFn i f).edges = s.edges := rfl
@[simp] theorem State.setFn_ctlDrops (s : State) (i : Nat) (f : Fn) : (s.setFn i f).ctlDrops = s.ctlDrops := rfl
@[simp] theorem State.setFn_opens (s : State) (i : Nat) (f : Fn) : (s.setFn i f).opens = s.opens := rfl
@[simp] theorem State.setFn_stalled (s : State) (i : Nat) (f : Fn) : (s.setFn i f).stalled = s.stalled := rfl
@[simp] theorem State.setFn_colls (s : State) (i : Nat) (f : Fn) : (s.setFn i f).colls = s.colls := rfl
@[simp] theorem State.setFn_mem (s : State) (i : Nat) (f : Fn) : (s.setFn i f).mem = s.mem := rfl
@[simp] theorem State.setFn_parts (s : State) (i : Nat) (f : Fn) : (s.setFn i f).parts = s.parts := rfl
@[simp] theorem State.setFn_sidings (s : State) (i : Nat) (f : Fn) : (s.setFn i f).sidings = s.sidings := rfl
@[simp] theorem State.setFn_ports (s : State) (i : Nat) (f : Fn) : (s.setFn i f).ports = s.ports := rfl
@[simp] theorem State.setFn_groups (s : State) (i : Nat) (f : Fn) : (s.setFn i f).groups = s.groups := rfl
@[simp] theorem State.setFn_bulkw (s : State) (i : Nat) (f : Fn) : (s.setFn i f).bulkw = s.bulkw := rfl
@[simp] theorem State.setFn_host (s : State) (i : Nat) (f : Fn) : (s.setFn i f).host = s.host := rfl
@[simp] theorem State.setFn_il (s : State) (i : Nat) (f : Fn) : (s.setFn i f).il = s.il := rfl
@[simp] theorem State.setFn_power (s : State) (i : Nat) (f : Fn) : (s.setFn i f).power = s.power := rfl
@[simp] theorem State.setFn_meter (s : State) (i : Nat) (f : Fn) : (s.setFn i f).meter = s.meter := rfl
@[simp] theorem State.setFn_mirror (s : State) (i : Nat) (f : Fn) : (s.setFn i f).mirror = s.mirror := rfl
@[simp] theorem State.setFn_tap (s : State) (i : Nat) (f : Fn) : (s.setFn i f).tap = s.tap := rfl
@[simp] theorem State.setFn_lands (s : State) (i : Nat) (f : Fn) : (s.setFn i f).lands = s.lands := rfl
@[simp] theorem State.setFn_i3c (s : State) (i : Nat) (f : Fn) : (s.setFn i f).i3c = s.i3c := rfl
@[simp] theorem State.setFn_repair (s : State) (i : Nat) (f : Fn) : (s.setFn i f).repair = s.repair := rfl
@[simp] theorem State.setFn_srCopy (s : State) (i : Nat) (f : Fn) : (s.setFn i f).srCopy = s.srCopy := rfl
@[simp] theorem State.setFn_log (s : State) (i : Nat) (f : Fn) : (s.setFn i f).log = s.log := rfl
@[simp] theorem State.setFn_outbox (s : State) (i : Nat) (f : Fn) : (s.setFn i f).outbox = s.outbox := rfl
@[simp] theorem State.setFn_evseq (s : State) (i : Nat) (f : Fn) : (s.setFn i f).evseq = s.evseq := rfl
@[simp] theorem State.setFn_free (s : State) (i : Nat) (f : Fn) : (s.setFn i f).free = s.free := rfl

/-! ## `setCluster` -/

@[simp] theorem State.setCluster_pending (s : State) (i : Nat) (c : Cluster) : (s.setCluster i c).pending = s.pending := rfl
@[simp] theorem State.setCluster_spans (s : State) (i : Nat) (c : Cluster) : (s.setCluster i c).spans = s.spans := rfl
@[simp] theorem State.setCluster_edges (s : State) (i : Nat) (c : Cluster) : (s.setCluster i c).edges = s.edges := rfl
@[simp] theorem State.setCluster_ctlDrops (s : State) (i : Nat) (c : Cluster) : (s.setCluster i c).ctlDrops = s.ctlDrops := rfl
@[simp] theorem State.setCluster_opens (s : State) (i : Nat) (c : Cluster) : (s.setCluster i c).opens = s.opens := rfl
@[simp] theorem State.setCluster_stalled (s : State) (i : Nat) (c : Cluster) : (s.setCluster i c).stalled = s.stalled := rfl
@[simp] theorem State.setCluster_colls (s : State) (i : Nat) (c : Cluster) : (s.setCluster i c).colls = s.colls := rfl
@[simp] theorem State.setCluster_mem (s : State) (i : Nat) (c : Cluster) : (s.setCluster i c).mem = s.mem := rfl
@[simp] theorem State.setCluster_parts (s : State) (i : Nat) (c : Cluster) : (s.setCluster i c).parts = s.parts := rfl
@[simp] theorem State.setCluster_sidings (s : State) (i : Nat) (c : Cluster) : (s.setCluster i c).sidings = s.sidings := rfl
@[simp] theorem State.setCluster_ports (s : State) (i : Nat) (c : Cluster) : (s.setCluster i c).ports = s.ports := rfl
@[simp] theorem State.setCluster_groups (s : State) (i : Nat) (c : Cluster) : (s.setCluster i c).groups = s.groups := rfl
@[simp] theorem State.setCluster_bulkw (s : State) (i : Nat) (c : Cluster) : (s.setCluster i c).bulkw = s.bulkw := rfl
@[simp] theorem State.setCluster_fns (s : State) (i : Nat) (c : Cluster) : (s.setCluster i c).fns = s.fns := rfl
@[simp] theorem State.setCluster_host (s : State) (i : Nat) (c : Cluster) : (s.setCluster i c).host = s.host := rfl
@[simp] theorem State.setCluster_il (s : State) (i : Nat) (c : Cluster) : (s.setCluster i c).il = s.il := rfl
@[simp] theorem State.setCluster_power (s : State) (i : Nat) (c : Cluster) : (s.setCluster i c).power = s.power := rfl
@[simp] theorem State.setCluster_meter (s : State) (i : Nat) (c : Cluster) : (s.setCluster i c).meter = s.meter := rfl
@[simp] theorem State.setCluster_mirror (s : State) (i : Nat) (c : Cluster) : (s.setCluster i c).mirror = s.mirror := rfl
@[simp] theorem State.setCluster_tap (s : State) (i : Nat) (c : Cluster) : (s.setCluster i c).tap = s.tap := rfl
@[simp] theorem State.setCluster_lands (s : State) (i : Nat) (c : Cluster) : (s.setCluster i c).lands = s.lands := rfl
@[simp] theorem State.setCluster_i3c (s : State) (i : Nat) (c : Cluster) : (s.setCluster i c).i3c = s.i3c := rfl
@[simp] theorem State.setCluster_repair (s : State) (i : Nat) (c : Cluster) : (s.setCluster i c).repair = s.repair := rfl
@[simp] theorem State.setCluster_srCopy (s : State) (i : Nat) (c : Cluster) : (s.setCluster i c).srCopy = s.srCopy := rfl
@[simp] theorem State.setCluster_log (s : State) (i : Nat) (c : Cluster) : (s.setCluster i c).log = s.log := rfl
@[simp] theorem State.setCluster_outbox (s : State) (i : Nat) (c : Cluster) : (s.setCluster i c).outbox = s.outbox := rfl
@[simp] theorem State.setCluster_evseq (s : State) (i : Nat) (c : Cluster) : (s.setCluster i c).evseq = s.evseq := rfl
@[simp] theorem State.setCluster_free (s : State) (i : Nat) (c : Cluster) : (s.setCluster i c).free = s.free := rfl

/-! ## `emit` -/

@[simp] theorem State.emit_pending (s : State) (o : Output) : (s.emit o).pending = s.pending := rfl
@[simp] theorem State.emit_rings (s : State) (o : Output) : (s.emit o).rings = s.rings := rfl
@[simp] theorem State.emit_spans (s : State) (o : Output) : (s.emit o).spans = s.spans := rfl
@[simp] theorem State.emit_edges (s : State) (o : Output) : (s.emit o).edges = s.edges := rfl
@[simp] theorem State.emit_ctlDrops (s : State) (o : Output) : (s.emit o).ctlDrops = s.ctlDrops := rfl
@[simp] theorem State.emit_opens (s : State) (o : Output) : (s.emit o).opens = s.opens := rfl
@[simp] theorem State.emit_stalled (s : State) (o : Output) : (s.emit o).stalled = s.stalled := rfl
@[simp] theorem State.emit_colls (s : State) (o : Output) : (s.emit o).colls = s.colls := rfl
@[simp] theorem State.emit_mem (s : State) (o : Output) : (s.emit o).mem = s.mem := rfl
@[simp] theorem State.emit_parts (s : State) (o : Output) : (s.emit o).parts = s.parts := rfl
@[simp] theorem State.emit_sidings (s : State) (o : Output) : (s.emit o).sidings = s.sidings := rfl
@[simp] theorem State.emit_ports (s : State) (o : Output) : (s.emit o).ports = s.ports := rfl
@[simp] theorem State.emit_groups (s : State) (o : Output) : (s.emit o).groups = s.groups := rfl
@[simp] theorem State.emit_bulkw (s : State) (o : Output) : (s.emit o).bulkw = s.bulkw := rfl
@[simp] theorem State.emit_fns (s : State) (o : Output) : (s.emit o).fns = s.fns := rfl
@[simp] theorem State.emit_host (s : State) (o : Output) : (s.emit o).host = s.host := rfl
@[simp] theorem State.emit_il (s : State) (o : Output) : (s.emit o).il = s.il := rfl
@[simp] theorem State.emit_power (s : State) (o : Output) : (s.emit o).power = s.power := rfl
@[simp] theorem State.emit_meter (s : State) (o : Output) : (s.emit o).meter = s.meter := rfl
@[simp] theorem State.emit_mirror (s : State) (o : Output) : (s.emit o).mirror = s.mirror := rfl
@[simp] theorem State.emit_tap (s : State) (o : Output) : (s.emit o).tap = s.tap := rfl
@[simp] theorem State.emit_lands (s : State) (o : Output) : (s.emit o).lands = s.lands := rfl
@[simp] theorem State.emit_i3c (s : State) (o : Output) : (s.emit o).i3c = s.i3c := rfl
@[simp] theorem State.emit_repair (s : State) (o : Output) : (s.emit o).repair = s.repair := rfl
@[simp] theorem State.emit_srCopy (s : State) (o : Output) : (s.emit o).srCopy = s.srCopy := rfl
@[simp] theorem State.emit_log (s : State) (o : Output) : (s.emit o).log = s.log := rfl
@[simp] theorem State.emit_evseq (s : State) (o : Output) : (s.emit o).evseq = s.evseq := rfl
@[simp] theorem State.emit_free (s : State) (o : Output) : (s.emit o).free = s.free := rfl

/-! ## `note` -/

@[simp] theorem State.note_pending (s : State) (a b c d : Nat) : (s.note a b c d).pending = s.pending := rfl
@[simp] theorem State.note_rings (s : State) (a b c d : Nat) : (s.note a b c d).rings = s.rings := rfl
@[simp] theorem State.note_spans (s : State) (a b c d : Nat) : (s.note a b c d).spans = s.spans := rfl
@[simp] theorem State.note_edges (s : State) (a b c d : Nat) : (s.note a b c d).edges = s.edges := rfl
@[simp] theorem State.note_ctlDrops (s : State) (a b c d : Nat) : (s.note a b c d).ctlDrops = s.ctlDrops := rfl
@[simp] theorem State.note_opens (s : State) (a b c d : Nat) : (s.note a b c d).opens = s.opens := rfl
@[simp] theorem State.note_stalled (s : State) (a b c d : Nat) : (s.note a b c d).stalled = s.stalled := rfl
@[simp] theorem State.note_colls (s : State) (a b c d : Nat) : (s.note a b c d).colls = s.colls := rfl
@[simp] theorem State.note_mem (s : State) (a b c d : Nat) : (s.note a b c d).mem = s.mem := rfl
@[simp] theorem State.note_parts (s : State) (a b c d : Nat) : (s.note a b c d).parts = s.parts := rfl
@[simp] theorem State.note_sidings (s : State) (a b c d : Nat) : (s.note a b c d).sidings = s.sidings := rfl
@[simp] theorem State.note_ports (s : State) (a b c d : Nat) : (s.note a b c d).ports = s.ports := rfl
@[simp] theorem State.note_groups (s : State) (a b c d : Nat) : (s.note a b c d).groups = s.groups := rfl
@[simp] theorem State.note_bulkw (s : State) (a b c d : Nat) : (s.note a b c d).bulkw = s.bulkw := rfl
@[simp] theorem State.note_fns (s : State) (a b c d : Nat) : (s.note a b c d).fns = s.fns := rfl
@[simp] theorem State.note_host (s : State) (a b c d : Nat) : (s.note a b c d).host = s.host := rfl
@[simp] theorem State.note_il (s : State) (a b c d : Nat) : (s.note a b c d).il = s.il := rfl
@[simp] theorem State.note_power (s : State) (a b c d : Nat) : (s.note a b c d).power = s.power := rfl
@[simp] theorem State.note_meter (s : State) (a b c d : Nat) : (s.note a b c d).meter = s.meter := rfl
@[simp] theorem State.note_mirror (s : State) (a b c d : Nat) : (s.note a b c d).mirror = s.mirror := rfl
@[simp] theorem State.note_tap (s : State) (a b c d : Nat) : (s.note a b c d).tap = s.tap := rfl
@[simp] theorem State.note_lands (s : State) (a b c d : Nat) : (s.note a b c d).lands = s.lands := rfl
@[simp] theorem State.note_i3c (s : State) (a b c d : Nat) : (s.note a b c d).i3c = s.i3c := rfl
@[simp] theorem State.note_repair (s : State) (a b c d : Nat) : (s.note a b c d).repair = s.repair := rfl
@[simp] theorem State.note_srCopy (s : State) (a b c d : Nat) : (s.note a b c d).srCopy = s.srCopy := rfl
@[simp] theorem State.note_outbox (s : State) (a b c d : Nat) : (s.note a b c d).outbox = s.outbox := rfl
@[simp] theorem State.note_evseq (s : State) (a b c d : Nat) : (s.note a b c d).evseq = s.evseq := rfl
@[simp] theorem State.note_free (s : State) (a b c d : Nat) : (s.note a b c d).free = s.free := rfl

/-! ## `putBytes` -/

@[simp] theorem State.putBytes_pending (s : State) (a : Nat) (l : List Byte) : (s.putBytes a l).pending = s.pending := rfl
@[simp] theorem State.putBytes_rings (s : State) (a : Nat) (l : List Byte) : (s.putBytes a l).rings = s.rings := rfl
@[simp] theorem State.putBytes_spans (s : State) (a : Nat) (l : List Byte) : (s.putBytes a l).spans = s.spans := rfl
@[simp] theorem State.putBytes_edges (s : State) (a : Nat) (l : List Byte) : (s.putBytes a l).edges = s.edges := rfl
@[simp] theorem State.putBytes_ctlDrops (s : State) (a : Nat) (l : List Byte) : (s.putBytes a l).ctlDrops = s.ctlDrops := rfl
@[simp] theorem State.putBytes_opens (s : State) (a : Nat) (l : List Byte) : (s.putBytes a l).opens = s.opens := rfl
@[simp] theorem State.putBytes_stalled (s : State) (a : Nat) (l : List Byte) : (s.putBytes a l).stalled = s.stalled := rfl
@[simp] theorem State.putBytes_colls (s : State) (a : Nat) (l : List Byte) : (s.putBytes a l).colls = s.colls := rfl
@[simp] theorem State.putBytes_parts (s : State) (a : Nat) (l : List Byte) : (s.putBytes a l).parts = s.parts := rfl
@[simp] theorem State.putBytes_sidings (s : State) (a : Nat) (l : List Byte) : (s.putBytes a l).sidings = s.sidings := rfl
@[simp] theorem State.putBytes_ports (s : State) (a : Nat) (l : List Byte) : (s.putBytes a l).ports = s.ports := rfl
@[simp] theorem State.putBytes_groups (s : State) (a : Nat) (l : List Byte) : (s.putBytes a l).groups = s.groups := rfl
@[simp] theorem State.putBytes_bulkw (s : State) (a : Nat) (l : List Byte) : (s.putBytes a l).bulkw = s.bulkw := rfl
@[simp] theorem State.putBytes_fns (s : State) (a : Nat) (l : List Byte) : (s.putBytes a l).fns = s.fns := rfl
@[simp] theorem State.putBytes_host (s : State) (a : Nat) (l : List Byte) : (s.putBytes a l).host = s.host := rfl
@[simp] theorem State.putBytes_il (s : State) (a : Nat) (l : List Byte) : (s.putBytes a l).il = s.il := rfl
@[simp] theorem State.putBytes_power (s : State) (a : Nat) (l : List Byte) : (s.putBytes a l).power = s.power := rfl
@[simp] theorem State.putBytes_meter (s : State) (a : Nat) (l : List Byte) : (s.putBytes a l).meter = s.meter := rfl
@[simp] theorem State.putBytes_mirror (s : State) (a : Nat) (l : List Byte) : (s.putBytes a l).mirror = s.mirror := rfl
@[simp] theorem State.putBytes_tap (s : State) (a : Nat) (l : List Byte) : (s.putBytes a l).tap = s.tap := rfl
@[simp] theorem State.putBytes_lands (s : State) (a : Nat) (l : List Byte) : (s.putBytes a l).lands = s.lands := rfl
@[simp] theorem State.putBytes_i3c (s : State) (a : Nat) (l : List Byte) : (s.putBytes a l).i3c = s.i3c := rfl
@[simp] theorem State.putBytes_repair (s : State) (a : Nat) (l : List Byte) : (s.putBytes a l).repair = s.repair := rfl
@[simp] theorem State.putBytes_srCopy (s : State) (a : Nat) (l : List Byte) : (s.putBytes a l).srCopy = s.srCopy := rfl
@[simp] theorem State.putBytes_log (s : State) (a : Nat) (l : List Byte) : (s.putBytes a l).log = s.log := rfl
@[simp] theorem State.putBytes_outbox (s : State) (a : Nat) (l : List Byte) : (s.putBytes a l).outbox = s.outbox := rfl
@[simp] theorem State.putBytes_evseq (s : State) (a : Nat) (l : List Byte) : (s.putBytes a l).evseq = s.evseq := rfl
@[simp] theorem State.putBytes_free (s : State) (a : Nat) (l : List Byte) : (s.putBytes a l).free = s.free := rfl

/-! ## `putBook` -/

@[simp] theorem State.putBook_pending (s : State) (f o : Nat) (l : List Byte) : (s.putBook f o l).pending = s.pending := rfl
@[simp] theorem State.putBook_rings (s : State) (f o : Nat) (l : List Byte) : (s.putBook f o l).rings = s.rings := rfl
@[simp] theorem State.putBook_spans (s : State) (f o : Nat) (l : List Byte) : (s.putBook f o l).spans = s.spans := rfl
@[simp] theorem State.putBook_edges (s : State) (f o : Nat) (l : List Byte) : (s.putBook f o l).edges = s.edges := rfl
@[simp] theorem State.putBook_ctlDrops (s : State) (f o : Nat) (l : List Byte) : (s.putBook f o l).ctlDrops = s.ctlDrops := rfl
@[simp] theorem State.putBook_opens (s : State) (f o : Nat) (l : List Byte) : (s.putBook f o l).opens = s.opens := rfl
@[simp] theorem State.putBook_stalled (s : State) (f o : Nat) (l : List Byte) : (s.putBook f o l).stalled = s.stalled := rfl
@[simp] theorem State.putBook_colls (s : State) (f o : Nat) (l : List Byte) : (s.putBook f o l).colls = s.colls := rfl
@[simp] theorem State.putBook_mem (s : State) (f o : Nat) (l : List Byte) : (s.putBook f o l).mem = s.mem := rfl
@[simp] theorem State.putBook_parts (s : State) (f o : Nat) (l : List Byte) : (s.putBook f o l).parts = s.parts := rfl
@[simp] theorem State.putBook_sidings (s : State) (f o : Nat) (l : List Byte) : (s.putBook f o l).sidings = s.sidings := rfl
@[simp] theorem State.putBook_ports (s : State) (f o : Nat) (l : List Byte) : (s.putBook f o l).ports = s.ports := rfl
@[simp] theorem State.putBook_groups (s : State) (f o : Nat) (l : List Byte) : (s.putBook f o l).groups = s.groups := rfl
@[simp] theorem State.putBook_bulkw (s : State) (f o : Nat) (l : List Byte) : (s.putBook f o l).bulkw = s.bulkw := rfl
@[simp] theorem State.putBook_host (s : State) (f o : Nat) (l : List Byte) : (s.putBook f o l).host = s.host := rfl
@[simp] theorem State.putBook_il (s : State) (f o : Nat) (l : List Byte) : (s.putBook f o l).il = s.il := rfl
@[simp] theorem State.putBook_power (s : State) (f o : Nat) (l : List Byte) : (s.putBook f o l).power = s.power := rfl
@[simp] theorem State.putBook_meter (s : State) (f o : Nat) (l : List Byte) : (s.putBook f o l).meter = s.meter := rfl
@[simp] theorem State.putBook_mirror (s : State) (f o : Nat) (l : List Byte) : (s.putBook f o l).mirror = s.mirror := rfl
@[simp] theorem State.putBook_tap (s : State) (f o : Nat) (l : List Byte) : (s.putBook f o l).tap = s.tap := rfl
@[simp] theorem State.putBook_lands (s : State) (f o : Nat) (l : List Byte) : (s.putBook f o l).lands = s.lands := rfl
@[simp] theorem State.putBook_i3c (s : State) (f o : Nat) (l : List Byte) : (s.putBook f o l).i3c = s.i3c := rfl
@[simp] theorem State.putBook_repair (s : State) (f o : Nat) (l : List Byte) : (s.putBook f o l).repair = s.repair := rfl
@[simp] theorem State.putBook_srCopy (s : State) (f o : Nat) (l : List Byte) : (s.putBook f o l).srCopy = s.srCopy := rfl
@[simp] theorem State.putBook_log (s : State) (f o : Nat) (l : List Byte) : (s.putBook f o l).log = s.log := rfl
@[simp] theorem State.putBook_outbox (s : State) (f o : Nat) (l : List Byte) : (s.putBook f o l).outbox = s.outbox := rfl
@[simp] theorem State.putBook_evseq (s : State) (f o : Nat) (l : List Byte) : (s.putBook f o l).evseq = s.evseq := rfl
@[simp] theorem State.putBook_free (s : State) (f o : Nat) (l : List Byte) : (s.putBook f o l).free = s.free := rfl

/-! ## Reads after writes -/

@[simp] theorem State.ring_setRing (s : State) (i : Nat) (r : Ring) : (s.setRing i r).ring i = r :=
  Tab.get_ins_same _ _ _ _
theorem State.ring_setRing_ne (s : State) (i j : Nat) (r : Ring) (h : j ≠ i) : (s.setRing i r).ring j = s.ring j :=
  Tab.get_ins_ne _ _ _ _ _ h
@[simp] theorem State.span_setSpan (s : State) (i : Nat) (x : Span) : (s.setSpan i x).span i = x := Tab.get_ins_same _ _ _ _
theorem State.span_setSpan_ne (s : State) (i j : Nat) (x : Span) (h : j ≠ i) : (s.setSpan i x).span j = s.span j :=
  Tab.get_ins_ne _ _ _ _ _ h
@[simp] theorem State.deck_setDeck (s : State) (i : Nat) (d : Deck) : (s.setDeck i d).deck i = d := by
  simp [State.setDeck, State.deck]
theorem State.deck_setDeck_ne (s : State) (i j : Nat) (d : Deck) (h : j ≠ i) : (s.setDeck i d).deck j = s.deck j := by
  simp [State.setDeck, State.deck, State.span_setSpan_ne _ _ _ _ h]
@[simp] theorem State.edge_setEdge (s : State) (i j : Nat) (e : Edge) : (s.setEdge i j e).edge i j = e :=
  Tab.get_ins_same _ _ _ _
@[simp] theorem State.part_setPart (s : State) (i : Nat) (p : Partition) : (s.setPart i p).part i = p :=
  Tab.get_ins_same _ _ _ _
theorem State.part_setPart_ne (s : State) (i j : Nat) (p : Partition) (h : j ≠ i) : (s.setPart i p).part j = s.part j :=
  Tab.get_ins_ne _ _ _ _ _ h
@[simp] theorem State.siding_setSiding (s : State) (i : Nat) (x : Siding) : (s.setSiding i x).siding i = x :=
  Tab.get_ins_same _ _ _ _
@[simp] theorem State.port_setPort (s : State) (i : Nat) (p : Port) : (s.setPort i p).port i = p := Tab.get_ins_same _ _ _ _
theorem State.port_setPort_ne (s : State) (i j : Nat) (p : Port) (h : j ≠ i) : (s.setPort i p).port j = s.port j :=
  Tab.get_ins_ne _ _ _ _ _ h
@[simp] theorem State.fn_setFn (s : State) (i : Nat) (f : Fn) : (s.setFn i f).fn i = f := Tab.get_ins_same _ _ _ _
theorem State.fn_setFn_ne (s : State) (i j : Nat) (f : Fn) (h : j ≠ i) : (s.setFn i f).fn j = s.fn j :=
  Tab.get_ins_ne _ _ _ _ _ h
@[simp] theorem State.ring_setPart (s : State) (i j : Nat) (p : Partition) : (s.setPart i p).ring j = s.ring j := rfl
@[simp] theorem State.part_setRing (s : State) (i j : Nat) (r : Ring) : (s.setRing i r).part j = s.part j := rfl
@[simp] theorem State.deck_setPart (s : State) (i j : Nat) (p : Partition) : (s.setPart i p).deck j = s.deck j := rfl
@[simp] theorem State.deck_setRing (s : State) (i j : Nat) (r : Ring) : (s.setRing i r).deck j = s.deck j := rfl
@[simp] theorem State.partOf_setRing (s : State) (i j : Nat) (r : Ring) : (s.setRing i r).partOf j = s.partOf j := rfl

/-- Writing deck bytes keeps the memory's canonical form. -/
theorem State.memWf_putBytes (s : State) (a : Nat) (l : List Byte) (h : s.memWf = true) : (s.putBytes a l).memWf = true :=
  Tab.wf_setRun deckFill l s.mem a h

/-- A deck byte outside the bytes written reads as before. -/
theorem State.byte_putBytes_ne (s : State) (a b : Nat) (l : List Byte) (h : s.memWf = true)
    (hb : b < a ∨ a + l.length ≤ b) : Tab.get deckFill (s.putBytes a l).mem b = Tab.get deckFill s.mem b :=
  Tab.get_setRun_ne deckFill l s.mem a b h hb

/-- A deck byte that is written reads as written. -/
theorem State.byte_putBytes_in (s : State) (a k : Nat) (l : List Byte) (h : s.memWf = true) (hk : k < l.length) :
    Tab.get deckFill (s.putBytes a l).mem (a + k) = l[k] :=
  Tab.get_setRun_in deckFill l s.mem a k h hk

end Sys2Proof.Machine
end

