-- ==== Sys2Proof/Laws/Gates.lean ====
section
/-! SUPPORT. What taking an order and admitting a message leave as it is, and what comes after them. -/

namespace Sys2Proof.Machine

/-! ## Taking an order -/

@[simp] theorem State.takeOrder_part (s : State) (f k p : Nat) : (s.takeOrder f k).part p = s.part p := rfl
@[simp] theorem State.takeOrder_parts (s : State) (f k : Nat) : (s.takeOrder f k).parts = s.parts := rfl
@[simp] theorem State.takeOrder_ring (s : State) (f k r : Nat) : (s.takeOrder f k).ring r = s.ring r := rfl
@[simp] theorem State.takeOrder_deck (s : State) (f k r : Nat) : (s.takeOrder f k).deck r = s.deck r := rfl
@[simp] theorem State.takeOrder_mem (s : State) (f k : Nat) : (s.takeOrder f k).mem = s.mem := rfl
@[simp] theorem State.takeOrder_il (s : State) (f k : Nat) : (s.takeOrder f k).il = s.il := rfl
@[simp] theorem State.takeOrder_groups (s : State) (f k : Nat) : (s.takeOrder f k).groups = s.groups := rfl
@[simp] theorem State.takeOrder_siding (s : State) (f k i : Nat) : (s.takeOrder f k).siding i = s.siding i := rfl
@[simp] theorem State.takeOrder_tenant (s : State) (f k v : Nat) : (s.takeOrder f k).tenant v = s.tenant v := rfl
@[simp] theorem State.takeOrder_boundPart (s : State) (f k v : Nat) : (s.takeOrder f k).boundPart v = s.boundPart v := rfl
@[simp] theorem State.takeOrder_vfNamed (s : State) (f k v : Nat) : (s.takeOrder f k).vfNamed v = s.vfNamed v := rfl
@[simp] theorem State.takeOrder_maps (s : State) (f k p a n : Nat) (w : Bool) :
    (s.takeOrder f k).maps p a n w = s.maps p a n w := rfl
@[simp] theorem State.takeOrder_translate (s : State) (f k p a : Nat) :
    (s.takeOrder f k).translate p a = s.translate p a := rfl
@[simp] theorem State.takeOrder_anyPoison (s : State) (f k a n : Nat) :
    (s.takeOrder f k).anyPoison a n = s.anyPoison a n := rfl
@[simp] theorem State.takeOrder_deckBytes (s : State) (f k a n : Nat) :
    (s.takeOrder f k).deckBytes a n = s.deckBytes a n := rfl
@[simp] theorem State.takeOrder_readPart (s : State) (f k p a n : Nat) :
    (s.takeOrder f k).readPart p a n = s.readPart p a n := by
  unfold State.readPart
  simp only [State.takeOrder_translate, State.takeOrder_anyPoison, State.takeOrder_deckBytes]
  congr 1
@[simp] theorem State.takeOrder_boxMaps (s : State) (f k p a n : Nat) (w : Bool) :
    (s.takeOrder f k).boxMaps p a n w = s.boxMaps p a n w := rfl
@[simp] theorem State.takeOrder_readArea (s : State) (f k p a n : Nat) :
    (s.takeOrder f k).readArea p a n = s.readArea p a n := by
  simp only [State.readArea, State.takeOrder_boxMaps, State.takeOrder_readPart]
@[simp] theorem State.takeOrder_locateReg (s : State) (f k : Nat) (r : RegRole) (a w : Nat) (b : Bool) :
    (s.takeOrder f k).locateReg r a w b = s.locateReg r a w b := rfl
@[simp] theorem State.takeOrder_allStill (s : State) (f k p : Nat) : (s.takeOrder f k).allStill p = s.allStill p := rfl

/-- A function's IDE state is not touched when one of its orders is taken. -/
@[simp] theorem State.takeOrder_ideActive (s : State) (f k g : Nat) :
    ((s.takeOrder f k).fn g).ideActive = (s.fn g).ideActive := by
  show ((s.putBook f (slotAt k) [2]).fn g).ideActive = _
  by_cases h : g = f
  · subst h; simp [State.putBook]
  · simp [State.putBook, State.fn, State.setFn, Tab.get_ins_ne _ _ _ _ _ h]

@[simp] theorem State.takeOrder_ideBars (s : State) (f k g p : Nat) : (s.takeOrder f k).ideBars g p = s.ideBars g p := by
  simp [State.ideBars]

/-- An order that a tenant may have carried out goes on with its partition. -/
theorem State.vfOrder_of (s : State) (f k part : Nat) (cert : Bool) (g : State → Nat → State)
    (h : TenantOrder s f k part) : s.vfOrder f k true cert g = g (s.takeOrder f k) part := by
  obtain ⟨h1, h2, h3, h4, h5⟩ := h
  simp [State.vfOrder, h1, h2, h3, h4, h5]

/-- One whose arguments do not check is answered with FORMAT. -/
theorem State.vfOrder_bad (s : State) (f k part : Nat) (cert : Bool) (g : State → Nat → State)
    (h : TenantOrder s f k part) :
    s.vfOrder f k false cert g = (s.takeOrder f k).completeBad f k part stFormat := by
  obtain ⟨h1, h2, h3, h4, h5⟩ := h
  simp [State.vfOrder, h1, h2, h3]

/-- An order of the PF that may be carried out goes on. -/
theorem State.pfOrder_of (s : State) (k : Nat) (g : State → State) (h : HostOrder s k) :
    s.pfOrder 0 k true g = g (s.takeOrder 0 k) := by
  simp [State.pfOrder, h.1, h.2]

/-! ## Admitting a message -/

@[simp] theorem heard_part (s : State) (h : Mgmt) (x : Session) (p : Nat) : (heard s h x).part p = s.part p := rfl
@[simp] theorem heard_parts (s : State) (h : Mgmt) (x : Session) : (heard s h x).parts = s.parts := rfl
@[simp] theorem heard_ring (s : State) (h : Mgmt) (x : Session) (r : Nat) : (heard s h x).ring r = s.ring r := rfl
@[simp] theorem heard_deck (s : State) (h : Mgmt) (x : Session) (d : Nat) : (heard s h x).deck d = s.deck d := rfl
@[simp] theorem heard_port (s : State) (h : Mgmt) (x : Session) (n : Nat) : (heard s h x).port n = s.port n := rfl
@[simp] theorem heard_mem (s : State) (h : Mgmt) (x : Session) : (heard s h x).mem = s.mem := rfl
@[simp] theorem heard_log (s : State) (h : Mgmt) (x : Session) : (heard s h x).log = s.log := rfl
@[simp] theorem heard_mirror (s : State) (h : Mgmt) (x : Session) : (heard s h x).mirror = s.mirror := rfl
@[simp] theorem heard_regionHolder (s : State) (h : Mgmt) (x : Session) (a b : Nat) :
    (heard s h x).regionHolder a b = s.regionHolder a b := rfl
@[simp] theorem heard_repairable (s : State) (h : Mgmt) (x : Session) (d : Nat) :
    (heard s h x).repairable d = s.repairable d := rfl
@[simp] theorem heard_svn (s : State) (h : Mgmt) (x : Session) : (heard s h x).il.svn = s.il.svn := rfl
@[simp] theorem heard_floor (s : State) (h : Mgmt) (x : Session) : (heard s h x).il.floor = s.il.floor := rfl
@[simp] theorem heard_attested (s : State) (h : Mgmt) (x : Session) : (heard s h x).il.attested = s.il.attested := rfl
@[simp] theorem heard_createBad (s : State) (h : Mgmt) (x : Session) (w : Nat) (l : List Nat) (m : List (Nat × Nat)) :
    (heard s h x).createBad w l m = s.createBad w l m := rfl
@[simp] theorem heard_newIdent (s : State) (h : Mgmt) (x : Session) (w : Nat) : (heard s h x).newIdent w = s.newIdent w := rfl
@[simp] theorem heard_lifecycleBad (s : State) (h : Mgmt) (x : Session) (t : Nat) (a b : Bool) :
    (heard s h x).lifecycleBad t a b = s.lifecycleBad t a b := rfl
@[simp] theorem heard_allStill (s : State) (h : Mgmt) (x : Session) (p : Nat) : (heard s h x).allStill p = s.allStill p := rfl

/-- A message that is admitted is carried out. -/
theorem State.command_of (s : State) (h : Mgmt) (lk rc : Bool) (x : Session) (g : State → State)
    (ha : Admitted s h lk rc x) : s.command h lk rc g = g (heard s h x) := by
  obtain ⟨h1, h2, h3, h4, h5, h6, h7, h8, h9⟩ := ha
  have hn : ¬ (2 ^ 32 ≤ x.count + 1) := by omega
  have e1 : (s.il.locked && !lk) = false := by
    cases hk : s.il.locked <;> simp_all
  have e2 : (s.il.boot == BootSt.recovery && !rc) = false := by
    cases hk : s.il.boot <;> simp_all
  have h2' : s.rouse.session h.sess.val = some x := h2
  simp only [State.command, h1, h2', if_false]
  rw [if_neg (by simp [h3]), if_neg (Nat.not_le.mpr h4), if_neg, if_neg hn]
  · show (if (s.il.locked && !lk) = true then _ else if (s.il.boot == BootSt.recovery && !rc) = true then _ else _) = _
    rw [e1, e2]
    rfl
  · cases hx : x.rx with
    | none => simp [h5]
    | some r => simp [h5, Nat.not_le.mpr (h6 r hx)]

end Sys2Proof.Machine
end

