-- ==== Sys2Proof/Laws/Slots.lean ====
section
/-! SUPPORT. What the operations that carry bundle slots, ring events and stream instructions do, wherever they act. -/

namespace Sys2Proof.Machine

/-- A slot of a bundle that issues acts on its ring at the start of the ring cycle. -/
theorem State.slotOp_of (s : State) (i : Issue) (k : Nat) (c : Instr) (f : Nat → Ring → Ring) (hs : Issues s i k c) :
    s.slotOp i k c f = .next (afterRing s i.ring.val (f (cycleAt s i) (ringAt s i k))) := by
  obtain ⟨ha, he⟩ := hs
  simp only [settledRing, cycleAt] at he
  simp [State.slotOp, State.atRing, afterRing, Ring.issue, ha, he, cycleAt]

/-- Two changes that agree on a ring's clusters change the ring alike. -/
theorem Ring.each_congr (r : Ring) (f g : Nat → Cluster → Cluster) (h : ∀ k, ∀ c ∈ r.cl, f k c = g k c) :
    r.each f = r.each g := by
  simp only [Ring.each]
  congr 1
  exact List.map_congr_left (fun p hp => h _ _ (List.of_mem_zip hp).2)

/-- A slot that does the same in each cluster, given what holds in each. -/
theorem State.eachOp_of (s : State) (i : Issue) (k : Nat) (c : Instr) (f g : Nat → Cluster → Cluster)
    (hs : Issues s i k c) (h : ∀ x ∈ (ringAt s i k).cl, f (cycleAt s i) x = g (cycleAt s i) x) :
    s.eachOp i k c f = .next (slotNext s i k g) := by
  rw [State.eachOp, State.slotOp_of _ _ _ _ _ hs, slotNext]
  exact congrArg (fun r => Host.Outcome.next (afterRing s i.ring.val r)) (Ring.each_congr _ _ _ (fun _ c hc => h c hc))

/-- A command of one change per cluster does that change wherever it issues. -/
theorem SlotDoes.of (c : Instr) (i : Issue) (k : Nat) (f : Nat → Cluster → Cluster)
    (h : ∀ s, exec c s = s.eachOp i k c f) : SlotDoes c i k f := by
  intro s hs
  rw [h, State.eachOp_of s i k c f f hs (fun _ _ => rfl)]

/-- A command of one change per cluster does what that change comes to under a condition on each. -/
theorem ClusterDoes.of (c : Instr) (i : Issue) (k : Nat) (ok : Nat → Cluster → Prop) (f g : Nat → Cluster → Cluster)
    (he : ∀ s, exec c s = s.eachOp i k c f) (h : ∀ t x, ok t x → f t x = g t x) : ClusterDoes c i k ok g := by
  intro s hs hp
  rw [he, State.eachOp_of s i k c f g hs (fun x hx => h _ _ (hp x hx))]

/-- An event of an awake ring acts on it at the start of the ring cycle. -/
theorem State.event_of (s : State) (i : Issue) (f : Nat → Ring → Ring) (h : (s.ring i.ring.val).awake = true) :
    s.atRing i.ring.val (fun r => r.event i.ring.val i.cycle f) =
      afterRing s i.ring.val (f (cycleAt s i) (settledRing s i)) := by
  simp [State.atRing, afterRing, Ring.event, h, cycleAt, settledRing]

/-- The instruction an engine comes to executes on its cluster once its ring is settled. -/
theorem State.streamOp_of (s : State) (e : EngAt) (i : Instr) (f : State → Nat → Nat → Bool → Cluster → Cluster)
    (part : Nat) (h : Executes s e i part) :
    s.streamOp e i f = streamNext s e (f (engState s e) part (engRing s e).now (engRing s e).optph
      ((engState s e).cluster e.cl.val)) := by
  obtain ⟨h1, h2, h3⟩ := h
  simp only [engRing, engState, settled] at h1 h2 h3
  simp [State.streamOp, engRing, engState, settled, streamNext, h1, h2, h3]

end Sys2Proof.Machine
end

