-- ==== Sys2Proof/Machine/LandMap.lean ====
section
/-! DEFINITION. The land grid: names of rows, the assignment of every position, the lanes, and the lands of the boundary register
in their order (R425 to R428, R432, Tables 18.1 to 18.3). -/

namespace Sys2Proof.Machine

/-! ## Names (R425) -/

/-- The row letters, which stand for the values 1 to 19. -/
def rowLetters : List Char := "ABCDEFGHJKLMNPTUVWY".toList

def rowLetter (v : Nat) : List Char := (rowLetters[v - 1]?).toList

/-- The name of row `r`, 1 to 150. -/
def rowName (r : Nat) : List Char :=
  if r ≤ 19 then rowLetter r else rowLetter ((r - 20) / 19 + 1) ++ rowLetter ((r - 20) % 19 + 1)

/-! ## Assignment (R426) -/

inductive Rail where
  | ring | unc | jn | lane | sd | sb | io | qm | vss
  deriving DecidableEq, Repr

/-- What a position holds: no land, a supply, one wire of a lane (`tx` drives the board, `p` is its positive wire), of the PCI
Express reference clock, a land of Table 18.3 by name, or nothing connected. -/
inductive Land where
  | none_
  | supply (r : Rail)
  | narid (port lane : Nat) (tx p : Bool)
  | pcie (lane : Nat) (tx p : Bool)
  | refclk (p : Bool)
  | named (name : String)
  | dnc
  deriving DecidableEq, Repr

/-- The lane whose two lands lie at `c` and `c + 1` along a side, with the port's number modulo 4 (R427). -/
def laneAt (x : Nat) : Option (Nat × Nat × Bool) :=
  let r := (x - 16) % 28
  if x < 16 ∨ 112 ≤ x - 16 ∨ 24 ≤ r ∨ r % 3 = 2 then none else some ((x - 16) / 28, r / 3, r % 3 == 0)

/-- A position of a side's transmit or receive row; what no lane takes is VSS. -/
def sideLane (first : Nat) (tx : Bool) (x : Nat) : Land :=
  match laneAt x with
  | some (k, l, p) => .narid (first + k) l tx p
  | none => .supply .vss

/-- The north strip by its row, the west strip by its column. -/
def stripLand (first n x : Nat) : Land :=
  match n with
  | 5 => sideLane first true x
  | 7 => .supply .lane
  | 9 => sideLane first false x
  | 11 | 13 | 15 => .supply .jn
  | _ => .supply .vss

def eastLand (col x : Nat) : Land :=
  match col with
  | 142 => sideLane 4 false x
  | 144 => .supply .lane
  | 146 => sideLane 4 true x
  | 147 => .supply .jn
  | _ => .supply .vss

/-- A PCI Express lane along its row (R427). -/
def pcieLane (tx : Bool) (col : Nat) : Land :=
  let r := (col - 40) % 3
  if col < 40 ∨ 48 ≤ col - 40 ∨ r = 2 then .supply .vss else .pcie ((col - 40) / 3) tx (r == 0)

/-- Lands of Table 18.3 with names of their own: row, first column, names in order of the columns. -/
def namedLands : List (Nat × Nat × List String) :=
  [(144, 60, ["I3C_SCL", "I3C_SDA", "MDC", "MDIO"]),
   (144, 66, ["SGMII_TXP", "SGMII_TXN"]), (144, 69, ["SGMII_RXP", "SGMII_RXN"]),
   (145, 60, ["PERST#", "PWROK", "SYS_RST_N", "THERMTRIP_N", "PROV_EN"]),
   (145, 66, ["REFCLK25", "SB_MBX"]),
   (145, 70, ["SNS_RING_P", "SNS_RING_N", "SNS_UNC_P", "SNS_UNC_N", "SNS_JN_P", "SNS_JN_N", "SNS_SD_P", "SNS_SD_N",
     "SNS_SB_P", "SNS_SB_N", "SNS_LANE_P", "SNS_LANE_N", "SNS_IO_P", "SNS_IO_N"]),
   (146, 144, ["QM_XI", "QM_XO"]),
   (147, 60, ["TCK", "TMS", "TDI", "TDO", "TRST_N"]),
   (147, 70, ["XSPI_CLK", "XSPI_CS_N", "XSPI_DQS", "XSPI_DQ0", "XSPI_DQ1", "XSPI_DQ2", "XSPI_DQ3", "XSPI_DQ4", "XSPI_DQ5",
     "XSPI_DQ6", "XSPI_DQ7", "XSPI_RST_N"]),
   (147, 144, ["QM_TXD", "QM_RXD", "SEAL_N", "QM_MBX"])]

def landNamed (row col : Nat) : Option String :=
  namedLands.findSome? (fun x => if x.1 = row ∧ x.2.1 ≤ col then x.2.2[col - x.2.1]? else none)

/-- Rows GL, GM and GP, and the meter crystal's lands of GN (R428). -/
def tableLand (row col : Nat) : Land :=
  match landNamed row col with
  | some n => .named n
  | none =>
    if (row = 144 ∨ row = 147) ∧ 40 ≤ col ∧ col ≤ 51 then .supply .io
    else if (row = 144 ∨ row = 145) ∧ 144 ≤ col then .supply .qm
    else if row = 147 ∧ 84 ≤ col ∧ col ≤ 101 then .dnc
    else if row = 146 then sideLane 8 true col
    else .supply .vss

def southLand (row col : Nat) : Land :=
  match row with
  | 130 | 134 => .supply .sd
  | 132 => .supply .sb
  | 136 => if col = 90 then .refclk true else if col = 91 then .refclk false else pcieLane true col
  | 137 | 143 => .supply .lane
  | 138 => pcieLane false col
  | 140 => .supply .jn
  | 142 => sideLane 8 false col
  | 144 | 145 | 146 | 147 => tableLand row col
  | _ => .supply .vss

def coreLand (row col : Nat) : Land :=
  if (row + col) % 2 = 0 then .supply .vss else if col % 8 ≤ 1 then .supply .unc else .supply .ring

/-- What the position at a row and a column holds (Table 18.1). -/
def landAt (row col : Nat) : Land :=
  if row < 4 ∨ 147 < row ∨ col < 4 ∨ 147 < col then .none_
  else if row ≤ 15 then stripLand 0 row col
  else if 130 ≤ row then southLand row col
  else if col ≤ 15 then stripLand 12 col row
  else if 142 ≤ col then eastLand col row
  else coreLand row col

/-! ## The boundary register (R432) -/

/-- Lands of Table 18.3 that have boundary cells, in their order, with the number of cells: one for an input, two for an output,
three for a bidirectional land; the SGMII transmit pair has two, the receive pair one. -/
def scanLands : List (String × Nat) :=
  [("I3C_SCL", 3), ("I3C_SDA", 3), ("MDC", 2), ("MDIO", 3), ("SGMII_TX", 2), ("SGMII_RX", 1),
   ("PERST#", 1), ("PWROK", 1), ("SYS_RST_N", 1), ("THERMTRIP_N", 2), ("PROV_EN", 1), ("REFCLK25", 1), ("SB_MBX", 1),
   ("XSPI_CLK", 2), ("XSPI_CS_N", 2), ("XSPI_DQS", 3), ("XSPI_DQ0", 3), ("XSPI_DQ1", 3), ("XSPI_DQ2", 3), ("XSPI_DQ3", 3),
   ("XSPI_DQ4", 3), ("XSPI_DQ5", 3), ("XSPI_DQ6", 3), ("XSPI_DQ7", 3), ("XSPI_RST_N", 2)]

/-- First cell of a lane's pair: the Narid lanes by port and lane, then the PCI Express lanes, each transmit then receive, two
cells a pair. -/
def naridCell (port lane : Nat) (tx : Bool) : Nat := (port * 8 + lane) * 4 + (if tx then 0 else 2)
def pcieCell (lane : Nat) (tx : Bool) : Nat := 512 + lane * 4 + (if tx then 0 else 2)

/-- First cell of a land of the list. -/
def scanCell (name : String) : Nat :=
  576 + ((scanLands.takeWhile (fun x => x.1 != name)).map (·.2)).sum

end Sys2Proof.Machine
end

