-- ==== Sys2Proof/Machine/MgmtWire.lean ====
section
/-! DEFINITION. Management messages as bytes: types, header, tag (R421, Table 17.8). The commands carry what a message says, and
whether its tag verifies (log entry 13); Table 17.8 gives no widths inside a body. -/

namespace Sys2Proof.Machine

/-- The TYPE of the message a command stands for (Table 17.8). -/
def messageType : Instr → Option Nat
  | .hello _ _ => some 0x01
  | .certs _ _ => some 0x02
  | .keyshare _ _ => some 0x03
  | .finish _ _ _ => some 0x04
  | .create _ _ _ _ => some 0x10
  | .teardown _ _ => some 0x11
  | .halt (.mgmt _) _ => some 0x12
  | .partitions _ => some 0x13
  | .registerRead (.mgmt _) _ _ => some 0x20
  | .registerWrite (.mgmt _) _ _ _ => some 0x21
  | .dkRpcmdRemapRow _ _ _ _ _ => some 0x21
  | .dkRpcmdReturnChannel _ _ _ => some 0x21
  | .dkRpcmdReinstateRegion _ _ _ => some 0x21
  | .naridPortConfiguration _ _ _ => some 0x21
  | .fwChunk _ _ _ _ _ _ => some 0x30
  | .svnCommit _ => some 0x31
  | .reset _ => some 0x32
  | .lifecycle _ _ _ _ _ _ => some 0x33
  | .anchor _ _ _ => some 0x34
  | .scrub _ _ => some 0x40
  | .telemetry _ _ => some 0x50
  | .eventlog _ _ => some 0x51
  | .meterRecord _ _ => some 0x52
  | .meterReg _ _ => some 0x53
  | _ => none

/-- The body of a register write of 32 bits. -/
def writeBody (addr value : Nat) : List Byte :=
  toLe 8 addr ++ [4, 0, 0, 0, 0, 0, 0, 0] ++ toLe 8 value

/-- The body of a write of `DK_RPCMD` (R262): operation, channel, bank, row or region. -/
def repairBody (span op ch bank low : Nat) : List Byte :=
  writeBody (0x020001210030 + 0x1000 * span) (op * 2 ^ 28 + ch * 2 ^ 22 + bank * 2 ^ 18 + low * 2 ^ 7)

/-- The body of a message, where Table 17.8 says what it holds. DESIGN CHOICE (log entry 41): numbers the table gives no width
take the width of the field that they name. -/
def messageBody : Instr → List Byte
  | .create _ part rings regions =>
    part :: (toLe 32 (rings.foldl (fun a k => a ||| 2 ^ k) 0) ++ toLe 2 regions.length ++
      regions.flatMap (fun x => [BitVec.ofNat 8 x.1, BitVec.ofNat 8 x.2]))
  | .teardown _ part => [BitVec.ofNat 8 part.val]
  | .halt _ part => [BitVec.ofNat 8 part.val]
  | .registerRead _ addr width => toLe 8 addr.toNat ++ [width, 0, 0, 0, 0, 0, 0, 0]
  | .registerWrite _ addr width value => toLe 8 addr.toNat ++ [width, 0, 0, 0, 0, 0, 0, 0] ++ toLe 8 value.toNat
  | .dkRpcmdRemapRow _ span ch bank row => repairBody span.val 1 ch.val bank.val row.val
  | .dkRpcmdReturnChannel _ span ch => repairBody span.val 2 ch.val 0 0
  | .dkRpcmdReinstateRegion _ span region => repairBody span.val 3 0 0 region.val
  | .naridPortConfiguration _ port value =>
    writeBody (0x020001221000 + 0x4000 * (port.val / 4) + 0x40 * (port.val % 4)) value.toNat
  | .fwChunk _ offset data last _ _ => toLe 8 offset ++ [if last then 1 else 0] ++ data
  | .lifecycle _ _ _ _ _ token => token
  | .anchor _ cert _ => cert
  | .scrub _ regions => regions.flatMap (fun x => [BitVec.ofNat 8 x.1, BitVec.ofNat 8 x.2])
  | .telemetry _ page => [page]
  | .eventlog _ first => toLe 8 first
  | .meterRecord _ seq => toLe 4 seq
  | .meterReg _ offset => toLe 4 offset
  | _ => []

def messageBytes (key : List Byte) (type seq : Nat) (body : List Byte) : List Byte :=
  messageHeader type body.length seq ++ body ++ messageTag key type seq body

/-- What the bytes of a message say: TYPE, sequence number, body. -/
structure Message where
  type : Nat
  seq : Nat
  body : List Byte
  deriving DecidableEq, Repr

/-- A message taken apart; none where the header is not one, the length does not fit, or the tag does not verify. -/
def readMessage (key l : List Byte) : Option Message :=
  let m : Message := ⟨leAt l 5 1, leAt l 12 8, slice l 32 (leAt l 8 4)⟩
  if l = messageBytes key m.type m.seq m.body then some m else none

/-- The reply of a session as bytes, under the last number sent. -/
def State.replyBytes (s : State) (sess seq code : Nat) (data : List Byte) : Option (List Byte) :=
  (s.session sess).map (fun x => messageBytes x.key replyType x.tx (replyBody seq code data))

end Sys2Proof.Machine
end

