-- ==== Sys2Proof/Machine/Package.lean ====
section
/-! DEFINITION. The package and the board's side as tables: outline, supply rails, land counts, thermal limits, clocks, wake
latencies, ordering codes (R393, R396, R399, R405, R406, R424, R429 to R431, R435). No command reads or changes them;
nor the PCI Express options of Table 17.1 (R411) that no command of the table acts on. -/

namespace Sys2Proof.Machine

/-! ## Outline (R424), in µm -/

def substrateUm : Nat := 132000
def heightUm : Nat := 7200
def lidUm : Nat := 124000
def pitchUm : Nat := 850
def landUm : Nat := 550
def gridRows : Nat := 150

/-- Between the centres of the outer positions. -/
def spanUm : Nat := (gridRows - 1) * pitchUm

/-! ## PCI Express options (R411, Table 17.1) -/

/-- Rates in MT/s and widths in lanes that the link trains to, and its power states. -/
def pcieRates : List Nat := [64000, 32000, 16000, 8000, 5000, 2500]
def pcieWidths : List Nat := [16, 8, 4, 2, 1]

inductive LinkPower where
  | l0 | l1 | l0p
  deriving DecidableEq, Repr

/-- Reference clocks that the device takes: common, or separate without spread spectrum, in Hz. -/
def pcieRefHz : Nat := 100000000

/-- Tag bits, non-posted requests outstanding at most, and the largest payload and read request in bytes. -/
def pcieTagBits : Nat := 10
def pcieOutstanding : Nat := 768
def pcieMaxPayload : Nat := 512
def pcieMaxRead : Nat := 4096

/-- Ordering attributes of the device's own requests: Relaxed Ordering and ID-Based Ordering are set on none. -/
def pcieOwnOrdering : Bool × Bool := (false, false)

/-! ## Supplies (R406, R429) -/

/-- The nominal voltage of a rail in mV, and the meter groups it belongs to; VDD_IO is not metered, VDD_QM the meter's own. -/
def Rail.nominal : Rail → Nat × List Nat
  | .ring => (700, [0, 1])
  | .unc => (750, [2, 3])
  | .jn => (750, [4])
  | .sd => (750, [5])
  | .sb => (750, [6])
  | .lane => (1200, [7])
  | .io => (1800, [])
  | .qm => (3300, [])
  | .vss => (0, [])

/-- Rated current of a rail in A (Table 18.4). -/
def Rail.rated : Rail → Option Nat
  | .ring => some 4800
  | .unc => some 1000
  | .jn => some 400
  | .lane => some 150
  | .sd => some 120
  | .sb => some 80
  | _ => none

/-- Lands of the grid that are a rail's. -/
def Rail.lands (r : Rail) : Nat :=
  ((List.range 150).map (fun i => ((List.range 150).filter (fun j => landAt (i + 1) (j + 1) == .supply r)).length)).sum

/-- The most a supply land carries, in mA. -/
def landMa : Nat := 1200

/-! ## Clocks and wakes (R396, R399) -/

/-- Clocks of Table 16.2 in Hz: the standing clock, and the ring clock at a device step, the fabric, deck and signal box clocks. -/
def standingHz : Nat := 25000000 * 256 / 3125
def ringHz (step : Nat) : Nat := (600 - 25 * step) * 1000000
def fabricHz : Nat := 1200000000
def deckHz : Nat := 1000000000
def sbHz : Nat := 1500000000

/-- Domains that wake, and from which state. -/
inductive Wakes where
  | ring | uncores | deckRefresh | deckOff | sidingMemory | sidingLogic | cores | linkStandby | linkSleep
  deriving DecidableEq, Repr

/-- Latencies of Table 16.3 in µs; a deck that was off is scrubbed after it, in 1,080 µs. -/
def Wakes.us : Wakes → Nat
  | .ring => 40
  | .uncores => 25
  | .deckRefresh => 20
  | .deckOff => 200
  | .sidingMemory => 20
  | .sidingLogic => 25
  | .cores => 15
  | .linkStandby => 2
  | .linkSleep => 150

/-- The most each part draws in IDLE, in tenths of a watt (Table 16.5). -/
def idleParts : List Nat := [128, 240, 40, 160, 200, 30, 20]

/-! ## Thermal limits (R430, R431) -/

/-- Limits of the span dies, decks, junction, siding and signal box dies, and the meter, in °C. -/
def dieLimit : Nat := 105
def deckLimit : Nat := 95
def meterLimit : Nat := 95

/-- The lid's temperature in tenths of a degree, from the coolant's and the power in W, at 0.008 K/W. -/
def lidTenths (coolant watts : Nat) : Nat := coolant + watts * 8 / 100

/-! ## Ordering codes (R435) -/

/-- The ordering code of a variant, and whether the meter authority's key digest is fused. -/
def orderingCode (ns : Bool) : String := if ns then "HLN-BK1-NS-B" else "HLN-BK1-SC-B"
def authorityFused (ns : Bool) : Bool := !ns

end Sys2Proof.Machine
end

