-- ==== Sys2Proof/Machine/Pages.lean ====
section
/-! DEFINITION. What the device shows without a command: the function pages of the host, the board page of the I3C target, the
event log as a tenant may see it, the device power state (R339, R341, R405, R413, R418, R422). Reading it changes nothing. -/

namespace Sys2Proof.Machine

/-- The board page, offsets 0x00 to 0x0D (Table 17.9); offset 0x01 is not listed. -/
def State.boardPage (s : State) : List Byte :=
  let p := s.power
  [1, 0] ++ toLe 2 p.power ++ toLe 2 p.cap ++ toLe 2 p.bdcap ++
    [BitVec.ofNat 8 p.hotDie, BitVec.ofNat 8 p.hotDeck,
     BitVec.ofNat 8 (b2n p.capsat + 2 * b2n p.thermFlag + 4 * b2n (p.rstcause == rstThermTrip)), BitVec.ofNat 8 p.step] ++
    toLe 2 s.i3c.status

/-- An I3C read of `n` bytes of the board page: from the offset that stands, which goes on by one a byte (R422). -/
def State.boardRead (s : State) (n : Nat) : List Byte × State :=
  ((List.range n).map (fun k => s.boardPage.getD ((s.i3c.ptr + k) % 256) 0),
    { s with i3c := { s.i3c with ptr := (s.i3c.ptr + n) % 256 } })

/-- The width class a status page shows: 1 where a cluster that serves a ring of the partition is of class 77 (R27, Table 17.6). -/
def State.widthClass (s : State) (part : Nat) : Nat :=
  b2n ((s.part part).rings.any (fun i => (List.range 16).any (fun n => (s.bypassOf i (s.physOf i n)).isSome)))

/-- The status page of a function, 0x20 bytes (Table 17.6). A function with no partition bound shows no partition. -/
def State.statusPage (s : State) (f : Nat) : List Byte :=
  match (if f = 0 then none else s.boundPart f) with
  | none => 0xFF :: List.replicate 15 0 ++ toLe 4 (s.fn f).prod ++ [0, 0, 0, 0] ++ toLe 8 s.power.tick
  | some q =>
    let p := s.part q
    let req : Bool := match p.key with
      | some k => k.idereq
      | none => false
    [BitVec.ofNat 8 q, BitVec.ofNat 8 p.st.code, BitVec.ofNat 8 (s.widthClass q),
      BitVec.ofNat 8 (b2n req + 2 * b2n (s.fn f).ideActive), 0, 0, 0, 0] ++ toLe 8 p.stepno ++ toLe 4 (s.fn f).prod ++
      [0, 0, 0, 0] ++ toLe 8 s.power.tick

/-- An entry of a notification ring (R418). -/
def Notice.bytes (n : Notice) : List Byte :=
  toLe 4 n.seq ++ [BitVec.ofNat 8 n.kind, 0, 0, 0] ++ toLe 8 n.arg ++ List.replicate 16 0

/-- The notification ring: an entry lies at its sequence number modulo 64. -/
def Fn.ringPage (x : Fn) : List Byte :=
  (List.range 64).flatMap (fun k => match x.notices.find? (fun n => n.seq % 64 == k) with
    | some n => n.bytes
    | none => List.replicate 32 0)

/-- A token counter as a VF's page shows it: span scope, then device scope; zero where the partition holds no ring. -/
def State.pageCounter (s : State) (f : Nat) (span : Option Nat) (name : Nat) : Nat :=
  match (if f = 0 then none else s.tenant f) with
  | none => 0
  | some q => match span with
    | some k => if (s.part q).ringOn k then (s.part q).counter k .span name else 0
    | none => (s.part q).counter 0 .device name

/-- A byte of the MSI-X table: address and data as the host wrote them, and the mask bit of the vector control. -/
def Msix.byte (m : Msix) (o : Nat) : Byte :=
  if o % 16 < 12 then Tab.get 0 m.table o
  else if o % 16 = 12 then BitVec.ofNat 8 (b2n (m.masked.contains (o / 16)))
  else 0

/-- Byte `x` of a function page (Table 17.3). -/
def State.pageByte (s : State) (f x : Nat) : Byte :=
  if x < 0x2000 then (s.bookBytes f x 1).headD 0
  else if x < 0x2020 then (s.statusPage f).getD (x - 0x2000) 0
  else if 0x3000 ≤ x ∧ x < 0x3800 then (s.fn f).ringPage.getD (x - 0x3000) 0
  else if 0x4000 ≤ x ∧ x < 0x8000 then
    (toLe 4 (s.pageCounter f (some ((x - 0x4000) / 1024)) ((x - 0x4000) % 1024 / 4))).getD (x % 4) 0
  else if 0x8000 ≤ x ∧ x < 0x8400 then (toLe 4 (s.pageCounter f none ((x - 0x8000) / 4))).getD (x % 4) 0
  else if 0xE000 ≤ x ∧ x < 0xE040 then (s.fn f).msix.byte (x - 0xE000)
  else if x = 0xF000 then BitVec.ofNat 8 (bitMap (s.fn f).msix.pend)
  else 0

/-- The event log's entries that the tenant of a partition reads (R341). -/
def State.tenantLog (s : State) (part : Nat) : List LogEntry := s.log.filter (fun e => e.part == part)

/-- What the telemetry of R339 shows the tenant of a partition: state, step number, and of every ring and every span with a region
of its own what the operator's pages show. Which physical slot serves a logical one stays with the operator (R21). -/
def State.tenantPage (s : State) (part : Nat) : List Nat :=
  let p := s.part part
  [p.st.code, p.stepno] ++
    p.rings.flatMap (fun i => [i, b2n (s.ring i).awake]) ++
    (dedup (p.regions.map (· / 256))).flatMap (fun k => [k, (s.deck k).pow.code, (s.deck k).readReg 0])

/-! ## Device power states (R405) -/

/-- The states of Table 16.4. -/
inductive DevicePower where
  | reset | boot | idle | active
  deriving DecidableEq, Repr

/-- Every ring asleep, uncores off with siding memory in self-refresh, decks in self-refresh or off, CORES asleep, every link
in SLEEP or DISABLED. -/
def State.domainsIdle (s : State) : Bool :=
  (List.range 256).all (fun i => !(s.ring i).awake) && !s.power.unc && !s.power.cores &&
    (List.range 16).all (fun k => ((s.deck k).pow == .off) || ((s.deck k).pow == .selfRefresh)) &&
    (List.range 16).all (fun n => [(s.port n).h0.st, (s.port n).h1.st].all (fun x => (x == .sleep) || (x == .disabled)))

/-- The device's state: BOOT from t0 on until Table 14.8 is done. -/
def State.devicePower (s : State) : DevicePower :=
  if s.il.boot = .none_ then (if s.released && s.lands.perst then .boot else .reset)
  else if s.domainsIdle then .idle else .active

end Sys2Proof.Machine
end

