-- ==== Sys2Proof/Tests/Slice0.lean ====
section
/-! SUPPORT. Tests of the model: worked examples of the manual, terms that are not well formed, and for every
obligation a state and operands that meet what it supposes. -/

namespace Sys2Proof.Tests

open Sys2Proof Sys2Proof.Machine

set_option Elab.async false

/-! ## Worked examples of the manual -/

/-- Examples 2.1 and 2.2: the vector engine keeps subnormals. -/
theorem test_fma_subnormal :
    fmaOp fp32 .rne false 0 false false 0x00400000 0x40000000 0 = (0x00800000, 0) ∧
    fmaOp fp32 .rne false 0 false false 0x9C800000 0x1C800000 0x80000000 = (0x80000200, 0) := by decide

/-- Example 2.4: FP32 to BX8 on a tie. -/
theorem test_convert_tie : convert (.flt fp32) (.flt bx8) .rne false 0 0x41780000 = (0x60, flNX) := by decide

/-- Example 2.5: FP32 to BX8 with overflow. -/
theorem test_convert_overflow :
    convert (.flt fp32) (.flt bx8) .rne false 0 0x437A0000 = (0x7F, flOF ||| flSAT ||| flNX) ∧
    convert (.flt fp32) (.flt bx8) .rtz false 0 0x437A0000 = (0x7F, flNX) := by decide

/-- Example 2.3: stochastic rounding. -/
theorem test_convert_sr :
    convert (.flt fp32) (.flt bx8) .sr false 0x3A1C05E7 0x41740000 = (0x60, flNX) ∧
    convert (.flt fp32) (.flt bx8) .sr false 0x9B000011 0x41740000 = (0x5F, flNX) := by decide

/-- Example 2.6: BX8 subnormal to FP16. -/
theorem test_convert_bx8_subnormal : convert (.flt bx8) (.flt fp16) .rne false 0 0x03 = (0x1A00, 0) := by decide

/-- Example 2.7: a signaling NaN. -/
theorem test_convert_snan :
    convert (.flt fp64) (.flt fp32) .rne false 0 0x7FF0000000000001 = (0x7FC00000, flNV ||| flNI) ∧
    convert (.flt fp64) (.int 32 true) .rne false 0 0x7FF0000000000001 = (0, flNV ||| flNI ||| flNX) ∧
    convert (.flt fp64) (.flt bx4) .rne false 0 0x7FF0000000000001 = (0, flNV ||| flNI ||| flNX) := by decide

def products (m : Mode) (l : List (Nat × Nat × Nat × Nat)) : Sum × Fl :=
  formGroup m.p (l.map (fun x => (mkProd (m.operand true x.1 x.2.1) (m.operand true x.2.2.1 x.2.2.2)).1))

/-- Example 3.1: an FP64 group joins a cleared entry and is read out. -/
theorem test_group_fp64 :
    let g := products .fp64 [(0x3FF8000000000000, 0, 0x4000000000000000, 0), (0x3FF4000000000000, 0, 0xBFE0000000000000, 0),
      (0x3C30000000000000, 0, 0xBC30000000000000, 0)]
    let a := joinAcc 160 .zero g.1
    a.1 = .fin 0x12FFFFFFFFFFFFFFFFFFFFFFFFFFF (-111) ∧
    readSingle (.flt fp64) .rne false 0 0x7F a.1 = (0x4003000000000000, flNX) ∧
    readSingle (.flt fp64) .rdn false 0 0x7F a.1 = (0x4002FFFFFFFFFFFF, flNX) ∧
    readPair fp64 false 0x7F a.1 = (0x4003000000000000, 0xB900000000000000, 0) := by decide

/-- Example 3.2: block scales beyond every short format. -/
theorem test_group_block :
    let g := products .bx8 [(0x44, 0xF0, 0xC8, 0xE0), (0x40, 0x7F, 0x40, 0x7F)]
    let a := joinAcc 96 .zero g.1
    a.1 = .fin (-24576) 197 ∧
    readSingle (.flt fp32) .rne false 0 0x7F a.1 = (0xFF800000, flOF ||| flNX) ∧
    readSingle (.flt bx8) .rne false 0 0x7F a.1 = (0xFF, flOF ||| flSAT ||| flNX) ∧
    readSingle (.flt fp64) .rne false 0 0x7F a.1 = (0xCD28000000000000, 0) ∧
    readSingle (.flt fp32) .rne false 0 0xFE a.1 = (0xE9C00000, 0) := by decide

/-- Example 3.4: a pair output at FP32 rate. -/
theorem test_group_pair :
    let g := products .fp32 [(0x3F800001, 0, 0x3F800001, 0), (0x3F800000, 0, 0xB0800000, 0)]
    let a := joinAcc 96 .zero g.1
    readSingle (.flt fp32) .rne false 0 0x7F a.1 = (0x3F800002, flNX) ∧
    readPair fp32 false 0x7F a.1 = (0x3F800002, 0xB07FFF00, 0) := by decide

/-- Examples 2.1 and 2.2: the matrix array reads a subnormal input as zero and delivers none. -/
theorem test_group_subnormal :
    readSingle (.flt fp32) .rne false 0 0x7F (joinAcc 96 .zero (products .fp32 [(0x00400000, 0, 0x40000000, 0)]).1).1 = (0, 0) ∧
    readSingle (.flt fp32) .rne false 0 0x7F (joinAcc 96 .zero (products .fp32 [(0x9C800000, 0, 0x1C800000, 0)]).1).1 =
      (0x80000000, flUF ||| flNX) := by decide

/-- Example 3.3: a NaN product makes the group NaN, with NI; the huge product raises nothing. -/
theorem test_group_nan :
    (mkProd (Mode.fp32.operand true 0x7FC01234 0) (Mode.fp32.operand true 0x3F800000 0)).2 = flNI ∧
    (products .fp32 [(0x71800000, 0, 0x71800000, 0), (0x7FC01234, 0, 0x3F800000, 0)]).1 = .nan := by decide

/-- Example 10.1: the channel, bank and row of a deck address. -/
theorem test_deck_map : (Deck.reset.channel 0x41234560) = 10 := by decide

set_option maxRecDepth 4000

/-- Example 10.2: check bytes of the Reed–Solomon code. -/
theorem test_rs_check : rsCheck (List.replicate 63 0 ++ [1]) = [0x3F, 0x01, 0xDA, 0x20, 0xE3, 0x26] := by decide

/-- The check value of each CRC over the digits 1 to 9 (the catalogues of their standards). -/
theorem test_crcs : crc16 (ascii "123456789") = 0x29B1 ∧ crc32 (ascii "123456789") = 0xCBF43926 ∧
    crc64 (ascii "123456789") = 0x6C40DF5F0B497347 := by decide

/-- FIPS 180-4's digests of "abc", which the manual's signatures and measurements rest on (log entry 13). -/
theorem test_hashes : beNat (sha256 (ascii "abc")) = 0xba7816bf8f01cfea414140de5dae2223b00361a396177a9cb410ff61f20015ad ∧
    beNat (sha384 (ascii "abc")) =
      0xcb00753f45a35e8bb5a03d699ac65007272c32ab0eded1631a8b605a43ff5bed8086072ba1e7cc2358baeca134c825a7 := by decide +kernel

/-- Example 12.1: the device results and the root's join of one element. -/
theorem test_collective_element :
    let join (l : List Nat) (F : FFmt) : Nat × Fl :=
      readSingle (.flt fp32) .rne false 0 0x7F (l.foldl (fun a x => (joinAcc 160 a (termOf F x).1).1) .zero)
    join [0x3FE8000000000000, 0x3FD0000000000000] fp64 = (0x3F800000, 0) ∧
    join [0x3E70000000000000, 0x3CD0000000000000] fp64 = (0x33800000, flNX) ∧
    join [0x3E60000000000000, 0x3E60000000000000] fp64 = (0x33800000, 0) ∧
    join [0x3F800000, 0x33800000, 0x33800000] fp32 = (0x3F800001, 0) := by decide

/-- Example 15.1: one interval of two accounts. -/
def meter15 : Meter :=
  { Meter.reset with
    st := .measure, alpha := [0x2000, 0, 0, 0, 0, 0, 0x10000, 0]
    raw := [1200000000 * 16000000, 0, 0, 0, 0, 0, 40000000 * 16000000, 0]
    accounts := [⟨41, 12, [80, 81, 82, 83], 0, 0, 0, 0⟩, ⟨37, 3, (List.range 32).map (· + 32), 0, 0, 0, 0⟩]
    seen := [(2 * 256 + 3, ⟨0, 0, 307200000000⟩), (5 * 256 + 12, ⟨0, 0, 19200000000⟩)] }

theorem test_interval :
    (meter15.endInterval 1000).accounts.map (fun x => x.energy) = [67077205, 1030735294] ∧
    (meter15.endInterval 1000).unalloc = 142187501 := by decide

/-! ## Terms that are not well formed -/

def badV : VSlot := ⟨4, 5, 63, 63, 63, 63, false, 0, 0, false⟩
def i0 : Issue := ⟨0, 0⟩
def e0 : EngAt := ⟨0, 0, 0⟩
def a0 : DeckAcc := ⟨0, 0, 0, .other, 0⟩

/-- Every field check of a vector command refuses formats that it does not take. -/
theorem test_wf_vector :
    [Instr.vadd i0 .va badV, .vsub i0 .va badV, .vmul i0 .va badV, .vfma i0 .va badV, .vfms i0 .va badV, .vfnma i0 .va badV,
      .vdiv i0 .va badV, .vsqrt i0 .va badV, .vwmul i0 .va badV, .vdot2Bf i0 .va badV, .vdot4 i0 .va badV, .vand i0 badV,
      .vor i0 badV, .vxor i0 badV, .vnot i0 badV, .vshl i0 badV, .vshr i0 badV, .vsra i0 badV, .vmin i0 badV, .vmax i0 badV,
      .vcmp i0 badV, .vsel i0 badV, .vcvt i0 badV, .vqblk i0 badV, .vdqblk i0 badV, .vexp2 i0 badV, .vrcp i0 badV,
      .vrsum i0 badV, .vmvsx i0 badV, .mand i0 badV, .mor i0 badV, .mxor i0 badV, .mnot i0 badV, .mpop i0 badV,
      .vaccRd i0 badV, .vld i0 badV, .vst i0 badV, .vld2 i0 badV, .vld3 i0 badV, .vld4 i0 badV, .vst2 i0 badV,
      .vst3 i0 badV, .vst4 i0 badV].all (fun c => !c.wf) = true := by decide

/-- Counts, masks, lengths and bases out of their ranges. -/
theorem test_wf_counts :
    [Instr.mwr i0 ⟨0, 15, 0, 0, false, false, false, 0x7F⟩, .mwr i0 ⟨0, 0, 0, 0, false, false, false, 0xFF⟩, .coast i0 0,
      .tpost i0 .cluster 0 0, .twait i0 .ring 0 0, .swait i0 0, .sCfg e0 .inbound 0 0, .sCfg e0 .inbound 16385 0,
      .sCfg e0 .inbound 1 32, .sLoop e0 0 1, .sLoop e0 1 0, .sGet e0 0 0 false, .sPut e0 0 0 false].all
        (fun c => !c.wf) = true := by decide

/-- Lists of the wrong length, or with members out of range. -/
theorem test_wf_lists :
    [Instr.orderPost 0 0 0 0 ⟨List.replicate 49 0, false⟩, .bar2Read 1 0 0 [], .bar2Write 1 0 [] .clean false [], .extest (some []), .extestPulse (some []), .extestTrain (some []),
      .ideKm 0 (.keyProg false []), .naridFrameReceive 0 false ⟨1, 0, 0, 0, 0, []⟩ (.corrected 0) [] 0,
      .create ⟨0, 0, true, 0⟩ 0 [256] [], .create ⟨0, 0, true, 0⟩ 0 [] [(16, 0)], .scrub ⟨0, 0, true, 0⟩ [(0, 256)],
      .journaledWrite a0 [0] [], .deckWrite a0 [0] [] 0 0, .capEvaluation 0 [] (List.replicate 16 0),
      .capEvaluation 0 (List.replicate 23 0) [], .workFrameReceive ⟨0, 64, 0, 0, 0, true⟩,
      .partitionEventFrame ⟨true, .creation⟩ 0 [256] 1 0,
      .intervalBoundary 1, .hourRecord 1000, .change ⟨true, ⟨[(1, 0)], none, 0, 0, true, true, true, true, 0⟩⟩,
      .samplePreload (some []), .energySample []].all (fun c => !c.wf) = true := by decide

/-- Terms that are well formed. -/
theorem test_wf_accepts :
    [Instr.vadd i0 .va ⟨1, 1, 0, 0, 0, 0, false, 0, 0, false⟩, .mwr i0 ⟨9, 0, 0, 0, false, false, true, 0x7F⟩, .coast i0 1,
      .swait i0 1, .sCfg e0 .inbound 16384 64, .sLoop e0 1 1, .create ⟨0, 0, true, 0⟩ 0xFF [255] [(15, 255)],
      .workFrameReceive ⟨0, 255, 0, 0, 0, true⟩, .hourRecord 3600000].all Instr.wf = true := by decide

/-- One field of a vector command wrong at a time. -/
theorem test_wf_vector_fields :
    [Instr.vadd i0 .va ⟨1, 0, 0, 0, 0, 0, false, 0, 0, false⟩, .vadd i0 .va ⟨1, 1, 31, 0, 0, 0, false, 0, 0, false⟩,
      .vadd i0 .va ⟨0, 0, 1, 0, 0, 0, false, 0, 0, false⟩, .vadd i0 .va ⟨0, 0, 32, 0, 0, 0, false, 0, 0, false⟩,
      .vmvsx i0 ⟨1, 1, 0, 0, 0, 0, false, 0, 0, false⟩, .vcmp i0 ⟨1, 1, 8, 0, 0, 0, false, 0, 0, false⟩,
      .vcmp i0 ⟨1, 1, 0, 0, 0, 7, false, 0, 0, false⟩, .vexp2 i0 ⟨0, 0, 0, 0, 0, 0, false, 0, 0, false⟩,
      .vld3 i0 ⟨1, 1, 28, 32, 32, 0, false, 0, 0, false⟩, .vst i0 ⟨1, 1, 1, 32, 32, 0, false, 0, 0, false⟩].all
        (fun c => !c.wf) = true := by decide

/-! ## States that meet what the obligations on rings suppose -/

/-- An awake ring of two clusters that issues. -/
def ring0 : Ring :=
  { Ring.reset with awake := true, cl := [.reset, .reset], tt := { RingTt.reset with run := .issuing } }

/-- The device with ring 0 so. -/
def withRing (r : Ring) : State := { State.reset with rings := [(0, r)] }

/-- Both clusters changed alike. -/
def withCl (f : Cluster → Cluster) : State := withRing { ring0 with cl := ring0.cl.map f }

/-- Registers with a value in s1. -/
def regs1 (v : BitVec 64) : Regs := { Regs.reset with s := Regs.reset.s.set 1 v }

/-- One command of each slot of a bundle. -/
def slotCmds : List (Nat × Instr) :=
  let f : VSlot := ⟨1, 1, 0, 0, 0, 0, false, 0, 0, false⟩
  [(0, .sadd i0 3 1 2), (0, .swrs i0 1 0x340), (0, .mbr i0 1 2 false), (2, .vadd i0 .va f), (3, .vmul i0 .vb f), (4, .vand i0 f),
    (5, .vld i0 f), (6, .xget i0 1 .ring 1), (7, .tpost i0 .span 1 1), (slotSwap, .mswap i0), (slotLoad, .mldw i0 1),
    (slotCompute, .mstart i0), (slotOut, .mwr i0 ⟨9, 0, 0, 0, false, false, true, 0x7F⟩), (20, .stgo i0 0 1 2),
    (23, .strel i0 3), (slotWhole, .coast i0 10)]

/-- O3, O6, O7, O9 to O15, O18, O19, O21, O24, O25: a slot of each kind issues, in the ring cycle of the ring and in a later one. -/
theorem witness_issues : ∀ p ∈ slotCmds, Issues (withRing ring0) i0 p.1 p.2 := by unfold Issues; decide

theorem witness_issues_later : Issues (withRing ring0) ⟨0, 3⟩ 0 (.sadd ⟨0, 3⟩ 3 1 2) := by unfold Issues; decide

/-- A ring whose leg holds one bundle. -/
def stored (b : Nat) : State := withRing { ring0 with tt := { ring0.tt with buf0 := ⟨0, true, [BitVec.ofNat 512 b]⟩ } }

/-- Table 7.3: SADDI with rd 7, ra 7, immediate 96, in the SEQ slot of an ordinary bundle (Table 7.1). -/
def saddiBundle : Nat := (0x0D * 2 ^ 56 + 7 * 2 ^ 51 + 7 * 2 ^ 46 + 96) * 2 ^ 440

/-- R153: of a bundle that the leg holds, the commands it encodes issue and no others. -/
theorem witness_stored_bundle : Issues (stored saddiBundle) i0 0 (.saddi i0 7 7 96) ∧ ¬ Issues (stored saddiBundle) i0 0 (.sadd i0 7 7 0) := by
  unfold Issues; decide +kernel

/-- Tables 7.1, 7.3, 7.5 and 8.2: words spelt out from their fields. -/
theorem test_decode_bundles :
    bundleInstrs i0 saddiBundle = [.saddi i0 7 7 96] ∧
    bundleInstrs i0 (2 * 2 ^ 510 + (3 * 2 ^ 37 + 1 * 2 ^ 33) * 2 ^ 64) = [.swait i0 1] ∧
    bundleInstrs i0 (2 * 2 ^ 510 + (4 * 2 ^ 37 + 8193 * 2 ^ 3) * 2 ^ 64) = [.leg i0 8193] ∧
    bundleInstrs i0 (1 * 2 ^ 510 + 83) = [.coast i0 83] ∧
    bundleInstrs i0 ((1 * 2 ^ 13 + 9 * 2 ^ 8 + 4 * 2 ^ 3) * 2 ^ 104 + (1 * 2 ^ 61 + 6 * 2 ^ 56 + 1 * 2 ^ 54 + 200 * 2 ^ 46)) =
      [.stgo i0 3 9 4, .xget i0 6 .ring 200] ∧
    streamInstr e0 (6 * 2 ^ 58 + 16 * 2 ^ 24 + 2) = some (.sLoop e0 16 2) ∧
    streamInstr e0 (0x10 * 2 ^ 58 + 5 * 2 ^ 52 + 1 * 2 ^ 47 + 64) = some (.sGet e0 5 64 true) := by decide +kernel

/-- O1, O2: any command and state do. -/
theorem witness_step : step { State.reset with pending := [.coresSleep] } = exec .coresSleep State.reset := rfl

/-- O4: exactly one result is due, of each kind. -/
theorem witness_results :
    let c (a : Act) : Cluster := { Cluster.reset with agenda := [⟨5, 4, 0, a⟩] }
    [Act.sreg 0 1, .sreg 31 1, .vreg 31 0 1, .mreg 7 1 1, .vl 16, .vfl flNV].all (fun a =>
      (c a).agenda.filter (fun d => decide (d.at_ ≤ 5) && d.act.phase == 0) == [⟨5, 4, 0, a⟩]) = true := by decide

/-- O4, O5: nothing else is due, on an empty agenda and beside an access still to come; two results of one ring cycle. -/
theorem witness_collision :
    let c : Cluster := { Cluster.reset with agenda := [⟨5, 4, 0, .lsw 0 []⟩] }
    (∀ d ∈ Cluster.reset.agenda, d.at_ ≤ 5 → d.act.phase ≠ 0) ∧ (∀ d ∈ c.agenda, d.at_ ≤ 5 → d.act.phase ≠ 0) ∧
      (2 ≤ 2 ∧ 2 ≤ 3 ∧ (4 < 5 ∨ (5 = 5 ∧ 2 < 3))) ∧ (0 < 31 ∧ 31 < 32) := by decide

/-- O4: the accesses of a ring cycle with no bank in conflict and no line in error: a store of bytes at different addresses, the
last one of the store's, and the join of a vector at the top of the accumulators. -/
theorem witness_access :
    let k : LsCtx := ⟨0, 0, 5, 0, []⟩
    k.bad = [] ∧ Cluster.reset.ls.upset = [] ∧ Tab.wf (0 : Byte) Cluster.reset.ls.bytes = true ∧ Tab.wf 0 Cluster.reset.acc = true ∧
      ([(0x1FFFFF, 7, 0xFF), (0, 8, 0xF0)] : List (Nat × Byte × Byte)).map (·.1) = [0x1FFFFF, 0] ∧
      ([0x1FFFFF, 0] : List Nat).Nodup ∧ 84 * Mode.fp64.entryWords ≤ 65536 := by decide

/-- O8: a slot that runs. -/
theorem witness_slot : slotRing (.sadd i0 1 2 3) = some i0 ∧ ∃ t, exec (.sadd i0 1 2 3) (withRing ring0) = .next t :=
  ⟨rfl, _, rfl⟩

/-- O9 to O13: a vector command issues where the pipe of one cluster is free and that of the other is busy; floating and integer
formats; addresses aligned and not. -/
theorem witness_pipes : ∀ k ∈ [2, 3, 4, 5],
    let s := withRing { ring0 with cl := [Cluster.reset, { Cluster.reset with vec := { VecSt.reset with va := 9, vb := 9, vc := 9, ls := 9 } }] }
    ∀ p ∈ slotCmds, p.1 = k → Issues s i0 k p.2 ∧
      ((ringAt s i0 k).cl.map (fun c => decide (0 < c.vec.until_ k))) = [false, true] := by unfold Issues; decide

theorem witness_formats : (⟨0, 0, 0, 0, 0, 0, false, 0, 0, false⟩ : VSlot).sf = .flt fp64 ∧
    (⟨3, 1, 0, 0, 0, 0, false, 0, 0, false⟩ : VSlot).sf = .flt bf16 ∧
    (⟨3, 1, 0, 0, 0, 0, false, 0, 0, false⟩ : VSlot).df = .flt fp32 ∧
    (⟨6, 8, 0, 0, 0, 0, false, 0, 0, false⟩ : VSlot).sf = .int 32 true := by decide

/-- O11, O12: VL is not 0, and the descriptor of VACC.RD is legal. -/
theorem witness_elements :
    let s := withCl (fun c => { c with r := { regs1 (0x7F00000 + 0x10000) with vl := 8 } })
    Issues s i0 4 (.vaccRd i0 ⟨1, 1, 0, 33, 0, 0, false, 0, 0, false⟩) ∧ (∀ c ∈ (ringAt s i0 4).cl, c.count 16 ≠ 0 ∧
      let desc := (c.r.getS (33 % 32)).toNat
      Mode.ofCode (bits desc 16 4) = some .fp32 ∧ bits desc 20 8 ≠ 0xFF ∧ bit desc 28 = false ∧
        readPermitted .fp32 1 false = true) := by unfold Issues; decide

/-- O12: descriptors of VACC.RD that are not legal: a mode that is none, the reserved exponent. -/
theorem witness_operand :
    let s := withCl (fun c => { c with r := { regs1 0xF0000 with vl := 8 } })
    Issues s i0 4 (.vaccRd i0 ⟨1, 1, 0, 33, 0, 0, false, 0, 0, false⟩) ∧ (∀ c ∈ (ringAt s i0 4).cl, c.count 16 ≠ 0 ∧
      Mode.ofCode (bits (c.r.getS (33 % 32)).toNat 16 4) = none) ∧ bits 0xFF10000 20 8 = 0xFF := by unfold Issues; decide

/-- O11: element 0 active, and masked off. -/
theorem witness_masked :
    let s := withCl (fun c => { c with r := { c.r with vl := 1 } })
    let f (men : Bool) : VSlot := ⟨1, 1, 0, 0, 0, 0, men, 0, 0, false⟩
    Issues s i0 4 (.vmvsx i0 (f false)) ∧
      (∀ c ∈ (ringAt s i0 4).cl, c.count 16 ≠ 0 ∧ c.active (f false) 0 = true) ∧
      (∀ c ∈ (ringAt s i0 4).cl, c.active (f true) 0 = false) := by unfold Issues; decide

/-- O13: an aligned address and one that is not. -/
theorem witness_addresses :
    (∀ c ∈ (ringAt (withCl (fun c => { c with r := regs1 0x1FFFFC })) i0 5).cl,
      ((c.r.getS 1) + (c.r.getS 0)).toNat % 2 ^ 21 % max 1 (32 / 8) = 0) ∧
    (∀ c ∈ (ringAt (withCl (fun c => { c with r := regs1 0x1FFFFD })) i0 5).cl,
      ((c.r.getS 1) + (c.r.getS 0)).toNat % 2 ^ 21 % max 1 (32 / 8) ≠ 0) := by decide

/-- O14: an array in each state, with a valid bank and without, loading or not; its pointers aligned or not. -/
theorem witness_array (st : ArrSt) :
    let s := withCl (fun c => { c with mx := { Matrix.reset with st := st, step := 1, rampNext := 8 } })
    Issues s i0 slotCompute (.mstart i0) ∧ Issues s i0 slotCompute (.mstop i0) ∧
      ∀ c ∈ (ringAt s i0 slotCompute).cl, c.bat.open_ = false ∧ c.mx.st = st := by
  cases st <;> (unfold Issues; decide)

theorem witness_load (l : Bool) :
    let s := withCl (fun c => { c with mx := { Matrix.reset with loading := l } })
    Issues s i0 slotLoad (.mldw i0 1) ∧ Issues s i0 slotSwap (.mswap i0) ∧
      ∀ k ∈ [slotLoad, slotSwap], ∀ c ∈ (ringAt s i0 k).cl, c.bat.open_ = false ∧ c.mx.loading = l ∧ c.mx.shadow.valid = false := by
  cases l <;> (unfold Issues; decide)

def fullBank : Bank := { Bank.empty with valid := true }

theorem witness_mmul :
    let s (v : BitVec 64) := withCl (fun c => { c with
      r := regs1 v, mx := { Matrix.reset with st := .on, step := 7, front := fullBank, shadow := fullBank } })
    Issues (s 8) i0 slotCompute (.mmul i0 ⟨false, false, 1, 2, 0⟩) ∧
    (∀ c ∈ (ringAt (s 8) i0 slotCompute).cl, c.bat.open_ = false ∧ c.mx.st = .on ∧ c.mx.front.valid = true ∧
      (c.mx.shadow.valid = true ∧ c.mx.loading = false) ∧
      (c.r.getS 1).toNat % 2 ^ 21 % max 1 (c.mx.front.mode.ewidth / 8) = 0) ∧
    (∀ c ∈ (ringAt (s 7) i0 slotCompute).cl, c.bat.open_ = false ∧ c.mx.st = .on ∧ c.mx.front.valid = true ∧
      (c.r.getS 1).toNat % 2 ^ 21 % max 1 (c.mx.front.mode.ewidth / 8) ≠ 0) := by unfold Issues; decide

theorem witness_mwr : Mode.ofCode (0 : BitVec 4).toNat = some .fp64 ∧
    (∀ c ∈ (ringAt (withRing ring0) i0 slotOut).cl, c.bat.open_ = false ∧ c.mx.outUntil ≤ 4) ∧
    (∀ c ∈ (ringAt (withCl (fun c => { c with mx := { Matrix.reset with outUntil := 5 } })) i0 slotOut).cl,
      c.bat.open_ = false ∧ 4 < c.mx.outUntil) := by decide

/-- O15: a window open, the batcher off, and on with and without a request. -/
theorem witness_batch :
    let s (en : Bool) (q : List RowReq) := withCl (fun c => { c with bat := { Batcher.reset with en := en, queue := q } })
    (∀ k ∈ [slotCompute, slotLoad, slotSwap, slotOut], ∀ c ∈ (ringAt (s true [⟨0, 0, 0⟩]) i0 k).cl, c.bat.open_ = true) ∧
    (∀ c ∈ (ringAt (s true [⟨0, 0, 0⟩]) i0 0).cl, (c.fireBatches 0).bat.queue ≠ []) ∧
    (∀ c ∈ (ringAt (s false []) i0 0).cl, (c.fireBatches 0).bat.queue = [] ∧ (c.fireBatches 0).bat.en = false) ∧
    (∀ c ∈ (ringAt (s true []) i0 0).cl, (c.fireBatches 0).bat.queue = [] ∧ (c.fireBatches 0).bat.en = true) := by decide

/-- O16: a ramp begun at its first and at its last step, its first and last ring cycles; an array in each state is O14's witness. -/
theorem witness_ramp : (1 ≤ 1 ∧ 1 ≤ 6 ∧ 0 < 7 - 1 ∧ 5 < 7 - 1 ∧ 0 < 8 ∧ 7 < 8) ∧ (6 ≤ 6 ∧ 0 < 7 - 6 ∧ 5 < 6) ∧
    ({ Matrix.reset with step := 7 } : Matrix).step < 8 := by decide

/-- O17: a column that the array clocks. -/
theorem witness_column :
    let s := withCl (fun c => { c with mx := { Matrix.reset with st := .on, step := 7 } })
    let c := (((s.ring 0).settle 0 0).get 1)
    (s.ring 0).awake = true ∧ 83 < 12 * c.mx.step ∧ c.mx.bypass ≠ some (83 / 7) ∧ (c.mx.narrow = true → 83 < 77) := by
  decide

/-- O18: a ring that coasts; a post at span scope whose writes have landed. -/
theorem witness_coast :
    let s := withRing { ring0 with tt := { RingTt.reset with run := .coasting, coastEnd := 9 } }
    (s.ring 0).awake = true ∧ (s.ring 0).tt.run = .coasting := by decide

def part0 : Partition := { Partition.reset with st := .running, rings := [0] }

theorem witness_post :
    let s := { withRing { ring0 with posts := [⟨.span, 255, 65535, 0, 5, 0, true⟩] } with parts := [(0, part0)] }
    let s1 := afterRing s 0 ((s.ring 0).settle 0 (cycleAt s ⟨0, 9⟩))
    (s.ring 0).awake = true ∧ (s1.ring 0).takePost.map (·.1) = some ⟨.span, 255, 65535, 0, 5, 0, true⟩ ∧ s1.partOf 0 = some 0 ∧
      (s1.part 0).counter 0 .span 255 + 65535 < 2 ^ 32 := by decide

/-- O19: with no report, and with one. -/
theorem witness_hold (b : Bool) :
    let s := withRing { ring0 with tt := { RingTt.reset with run := .issuing, report := b } }
    Issues s i0 slotWhole (.swait i0 1) ∧ (ringAt s i0 slotWhole).tt.report = b := by cases b <;> (unfold Issues; decide)

/-- O20: holds whose condition holds at the start of the ring cycle: tokens of a ring, of each cluster and of a
span, a staged leg, the last hold; and one that runs out of time. -/
def held (h : HoldKind) (f : Ring → Ring) : State :=
  { withRing (f { ring0 with tt := { RingTt.reset with run := .hold, hold := some ⟨h, 0, false⟩, limit := 4 } }) with
    parts := [(0, { part0 with spanTok := [(5, 9)] })] }

def releases (s : State) (c : Nat) : Bool :=
  let s1 := State.seekFree 0 c (c + 1) (settled s 0 0)
  let r := s1.ring 0
  match r.tt.hold with
  | some h => r.awake && r.tt.run == .hold && !r.tt.report && !h.expired && decide (h.since ≤ r.now) &&
      decide (r.now < h.since + r.tt.limit) && decide (r.ended ≤ r.now) && (match h.kind with
        | .twait sc name _ => !(r.gone.1 == r.now && r.gone.2.contains (sc, name))
        | _ => true) && r.condition r.now (s1.sharedOf 0) h.kind
  | none => false

theorem witness_release :
    releases (held (.twait .ring 5 9) (fun r => { r with tok := [(5, 9)] })) 3 = true ∧
    releases (held (.twait .cluster 5 9) (fun r => { r with cl := r.cl.map (fun c => { c with tok := [(5, 9)] }) })) 0 = true ∧
    releases (held (.twait .span 5 9) id) 0 = true ∧
    releases (held .fin id) 3 = true ∧
    releases (held (.swait 1) (fun r => { r with cl := r.cl.map (fun c => c.setEngine 0 { StreamEng.reset with
      st := .running, h0 := .full }) })) 0 = true ∧
    releases (held (.leg 8193) (fun r => { r with tt := { r.tt with buf0 := ⟨1, true, []⟩, cur := true } })) 0 = true := by
  decide

theorem witness_expiry (n : Fin 2) :
    let s := held (.twait .ring 5 9) (fun r => { r with tok := [(5, 8 + n.val)] })
    let last := 0 + (s.ring 0).tt.limit - 1
    let s2 := State.seekFree 0 last (last + 1) (settled s 0 0)
    let q := s2.ring 0
    (s.ring 0).tt.hold = some ⟨.twait .ring 5 9, 0, false⟩ ∧ q.awake = true ∧ q.tt.run = .hold ∧ q.tt.report = false ∧
      s2.frees 0 = decide (n = 1) := by
  revert n; decide

/-- O20: a ring that has been served in the ring cycle bars the others that share its counter. -/
theorem witness_served : ({ Ring.reset with gone := (0, [(.span, 5)]) } : Ring).mayTest (.twait .span 5 9) = false ∧
    ({ Ring.reset with gone := (0, [(.span, 5)]) } : Ring).mayTest (.twait .span 6 9) = true := by decide

/-- Cluster 0 with one engine changed. -/
def withEng (e : StreamEng) : State :=
  { withCl (fun c => c.setEngine 1 e) with
    parts := [(0, { part0 with st := .ready, regions := [0], vf := some 1 })], spans := [(0, { Span.reset with
      deck := { Deck.reset with pow := .on, owner := [(0, 1)] } })] }

/-- O21: an engine stopped; running with a full half inbound; with an owned half outbound. -/
theorem witness_engines :
    (∀ c ∈ (ringAt (withEng .reset) i0 21).cl, (c.engine 1).st = .stopped) ∧
    (∀ c ∈ (ringAt (withEng { StreamEng.reset with st := .running, h0 := .full }) i0 21).cl,
      (c.engine 1).st ≠ .stopped ∧ (c.engine 1).dir = .inbound ∧ (c.engine 1).halfSt (c.engine 1).owed = .full) ∧
    (∀ c ∈ (ringAt (withEng { StreamEng.reset with st := .running }) i0 21).cl,
      (c.engine 1).dir = .inbound ∧ ¬ (c.engine 1).halfSt (c.engine 1).owed = .full) ∧
    (∀ c ∈ (ringAt (withEng { StreamEng.reset with st := .ending, dir := .outbound, h0 := .owned }) i0 21).cl,
      (c.engine 1).st ≠ .stopped ∧ (c.engine 1).dir = .outbound ∧ (c.engine 1).halfSt (c.engine 1).owed = .owned) := by
  decide

def at1 : EngAt := ⟨0, 1, 2⟩

/-- Instructions that the program of an engine may have come to. -/
def program (d : Dir) : List Instr :=
  [.sCfg at1 d 1 0, .sLi at1 0 0, match d with | .inbound => .sGet at1 0 64 false | .outbound => .sPut at1 0 64 false]

/-- O22, O23: an engine that executes, in both directions: an access that fills its half exactly, one that waits,
one past the end of the half. -/
theorem witness_stream (d : Dir) :
    let h : HalfSt := match d with | .inbound => .free | .outbound => .queued
    let s := withEng { StreamEng.reset with st := .running, dir := d, half := 1, h0 := h }
    let w := withEng { StreamEng.reset with st := .waiting, dir := d, half := 1, h0 := .closed }
    let s1 := engState s at1
    let x := (s1.cluster 0).engine 1
    let y := ((engState w at1).cluster 0).engine 1
    (∀ i ∈ program d, Executes s at1 i 0) ∧ x.dir = d ∧
      (x.mayTouch 2 = true ∧ x.pos + 64 ≤ x.halfBytes) ∧ s1.accessFault 0 (x.reg 0).toNat 64 false = none ∧
      s1.accessFault 0 (x.reg 0).toNat 64 true = none ∧ s1.accessFault 0 (2 ^ 24) 64 true ≠ none ∧
      x.halfBytes < x.pos + 72 ∧ x.halfBusy x.sel = false ∧
      (∀ i ∈ program d, Executes w at1 i 0) ∧ y.mayTouch 2 = false := by cases d <;> (unfold Executes; decide)

/-- O24: a closed half that has landed; fewer than 16 transfers; one whose last byte is delivered; free accesses. -/
theorem witness_moves :
    let s := withEng { StreamEng.reset with h0 := .closed, jobs := [⟨false, 0, 64, 8, 8, 0, List.replicate 8 0, true, false⟩] }
    let x := (((s.ring 0).settle 0 0).get 0).engine 1
    let s1 := settled s 0 0
    (s.ring 0).awake = true ∧ x.halfSt false = .closed ∧ x.halfBusy false = false ∧
      Issues s1 i0 6 (.xget i0 1 .ring 1) ∧ (∀ c ∈ (ringAt s1 i0 6).cl, xferCount c < 16) ∧
      s1.freeLine 0 (.stream 0 1) = some (64, 8, true) ∧ s1.clientReaches 0 (.stream 0 1) 0 = true ∧
      ((s1.cluster 0).claimed (s1.ring 0).now).contains (bankOf (lineOf 64)) = false ∧
      (s1.jobOf (.stream 0 1)).isSome = true := by unfold Issues; decide

/-- O24: a cluster with sixteen transfers outstanding, beside one with none. -/
theorem witness_xfull :
    let x : Transfer := ⟨.get, ⟨false, 0, 0, 8, 8, 8, [], false, false⟩, .ring, 1, 0⟩
    let s := settled (withRing { ring0 with cl := [.reset, { Cluster.reset with xfers := List.replicate 16 (some x) }] }) 0 0
    Issues s i0 6 (.xput i0 1 .ring 1) ∧ (ringAt s i0 6).cl.map xferCount = [0, 16] ∧
      (ringAt s i0 6).cl.findIdx? (fun x => decide (16 ≤ xferCount x)) = some 1 := by unfold Issues; decide

/-- O24: a requester served in the ring cycle already, and a bank that another has used in it. -/
theorem witness_free_use :
    let s := withEng { StreamEng.reset with jobs := [⟨false, 0, 64, 8, 8, 0, List.replicate 8 0, true, false⟩] }
    let used (w : Client) : State := withCl (fun c => { (c.setEngine 1 (((s.cluster 0).engine 1))) with
      ls := { c.ls with use := (c.ls.use.enter 0 (fun _ _ => false)).serve 0 (bankOf (lineOf 64)) (lineOf 128) w } })
    (((used (requesterOf (.stream 0 1))).cluster 0).ls.use.served.contains (requesterOf (.stream 0 1))) = true ∧
      (((used (.trestle 0)).cluster 0).ls.use.served.contains (requesterOf (.stream 0 1))) = false ∧
      ((used (.trestle 0)).cluster 0).ls.use.bars 0 (bankOf (lineOf 64)) (lineOf 64) (requesterOf (.stream 0 1)) = true := by decide

theorem witness_transfer :
    let c : Cluster := { Cluster.reset with xfers := [some ⟨.get, ⟨false, 0, 0, 8, 8, 8, [], false, false⟩, .ring, 1, 0⟩] }
    let s := withRing { ring0 with cl := [c] }
    (((settled s 0 0).cluster 0).xfers.getD 0 none).map (fun x => decide (x.job.len ≤ x.job.put)) = some true := by decide

/-- O25: a request waiting whose start check fails; one running past its deadline; one that ends. -/
def trDesc (op : Nat) : List Byte := toLe 12 op ++ List.replicate 116 0

theorem witness_request :
    let r := { ring0 with tr := { Trestle.reset with queue := [⟨trDesc 0, 0, false⟩] } }
    let s := { withRing r with parts := [(0, part0)] }
    let s1 := s.atRing 0 (fun r => r.event 0 1 (fun t r => if r.tr.queue.isEmpty then r.finish 0 t else r))
    (s1.ring 0).awake = true ∧ s1.partOf 0 = some 0 ∧ (s1.ring 0).tr.queue = [⟨trDesc 0, 0, false⟩] ∧
      (s1.ring 0).tr.run = none ∧ (s1.ring 0).tr.awaits (trDesc 0) = false ∧ (s1.ring 0).covered 0 = true ∧
      s1.formChecks 0 0 (trDesc 0) = some stFormat := by decide

theorem witness_running :
    let q : TrRun := ⟨trDesc 2, 0, false, none, none, 0, [], [], false, [], none, false⟩
    let s := withRing { ring0 with tr := { Trestle.reset with run := some q } }
    let x := (s.ring 0).settle 0 (cycleAt s ⟨0, 0⟩)
    (s.ring 0).awake = true ∧ x.tr.run = some q ∧ q.kernel = true ∧ (x.get 0).vec.kernelFree .va 0 = true ∧
      (settledRing s i0).leavesFree ⟨0, 0⟩ 2 0 (isPipe .va) = true ∧ q.cut = none ∧
      q.reject = none ∧ q.start + rqDeadline q.desc ≤ cycleAt s ⟨0, 0⟩ := by decide

theorem witness_ends :
    let q : TrRun := ⟨trDesc 2, 0, false, none, some stFormat, 0, [], [], false, [], some (stFormat, []), false⟩
    let s := { withRing { ring0 with tr := { Trestle.reset with run := some q } } with parts := [(0, part0)] }
    let s2 := ((s.atRing 0 (fun r => r.event 0 0 (fun t r => r.finish 0 t))).trestleRead 0 0).trestleWork 0 0
    let line := bits (leAt q.desc 12 4) 6 15
    let u := (s2.cluster 0).ls.use.enter (s2.ring 0).now (fun b w => s2.wants 0 b w)
    s2.partOf 0 = some 0 ∧ (s2.ring 0).tr.run = some q ∧ u.served.contains (.trestle 0) = false ∧
      ((s2.cluster 0).claimed (s2.ring 0).now).contains (bankOf line) = false ∧
      u.bars 0 (bankOf line) line (.trestle 0) = false := by decide +kernel

/-- O24: a line that a running Trestle request reads, and one that it writes. -/
theorem witness_trestle_access (write : Bool) :
    let q : TrRun := ⟨trDesc 2, 0, false, none, none, 0, [], if write then [] else [(0, 9)], write == false,
      if write then [⟨0, 0, 64 * 9, List.replicate 64 0⟩] else [], none, false⟩
    let s := { withRing { ring0 with tr := { Trestle.reset with run := some { q with unread := false } } } with parts := [(0, part0)] }
    s.freeLine 0 (.trestle 0) = some (64 * 9, 64, write) ∧ s.jobOf (.trestle 0) = none ∧
      s.clientReaches 0 (.trestle 0) 0 = true ∧ (s.ring 0).awake = true := by cases write <;> decide

/-- O25: a running request whose headers are read; one with nothing left to read, whose arithmetic is done. -/
theorem witness_work :
    let q (u : Bool) : TrRun := ⟨trDesc 2, 0, false, none, some stFormat, 0, [], [], u, [], none, false⟩
    let s (u : Bool) := { withRing { ring0 with tr := { Trestle.reset with run := some (q u) } } with parts := [(0, part0)] }
    ((s true).ring 0).covered 0 = true ∧ (q true).heads = [] ∧ (s false).trestleServed 0 0 (q false) = true ∧
      ((s false).draw.2.trestleEnd 0 0 (q false) (s false).draw.1).toOption.isSome = true := by decide

/-! ## States that meet what the obligations on partitions suppose -/

def step0 : StepJob := ⟨1, 0, 0, 0, false, false, [], false, false, [], [], [], none, false, [], [], none⟩
def lone : Timetable := ⟨0x8000, false, 0, []⟩
def image0 : Image := ⟨List.replicate 48 0, false, 3, [], [], [], [lone], [], [], []⟩

/-- Partition 0 is bound to VF 1, with ring 0 and region 0 of span 0; an order waits in slot 0 of VF 1 and of the PF. -/
def bound (p : Partition) : State :=
  { State.reset with
    il := { Interlock.reset with boot := .booted, attested := true }
    host := ⟨1, true, false, 0, 0⟩
    power := { Power.reset with cores := true, unc := true, sbOn := true }
    parts := [(0, { p with rings := [0], regions := [0], vf := some 1 })]
    spans := [(0, { Span.reset with deck := { Deck.reset with pow := .on, owner := [(0, 1)] } })]
    fns := [(0, { Fn.reset with book := [(0, 1)] }), (1, { Fn.reset with book := [(0, 1)] })] }

def inState (st : PState) : Partition := { Partition.reset with st := st }
def stepping (j : StepJob) : Partition := { Partition.reset with st := .running, job := .step j, image := some image0 }

/-- O3, O25, O26: a ring with an image and its timetable, that waits to be started; a ring at a hold that has received a report. -/
theorem witness_start :
    let s := { bound (stepping step0) with rings := [(0, { ring0 with tt := RingTt.reset })] }
    (s.ring 0).awake = true ∧ s.partOf 0 = some 0 ∧ (s.part 0).image = some image0 ∧ s.startable 0 0 = true ∧
      s.targetC77 image0 (image0.targetOf 0) = false ∧ image0.timetable (image0.targetOf 0) false = some lone := by decide

theorem witness_halted :
    let s := withRing { ring0 with tt := { RingTt.reset with run := .hold, hold := some ⟨.fin, 0, false⟩, report := true } }
    let r := (s.ring 0).settle 0 (cycleAt s i0)
    (s.ring 0).awake = true ∧ r.tt.report = true ∧ r.tt.run = .hold := by decide

/-- O27, O32, O33, O54: orders of a tenant in each state of its partition. -/
theorem witness_tenant (st : PState) : TenantOrder (bound (inState st)) 1 0 0 := by
  cases st <;> (unfold TenantOrder; decide)

theorem witness_handling :
    let s := bound { inState .ready with handling := true }
    TenantOrder s 1 0 0 ∧ (s.part 0).handling = true := by unfold TenantOrder; decide

/-- O27, O30: a channel of a deck that the partition uses is about to be lost, and none is. -/
theorem witness_failing :
    let s := bound (inState .ready)
    let t := s.setDeck 0 { s.deck 0 with failing := some 63 }
    t.failingOn 0 = true ∧ s.failingOn 0 = false ∧ TenantOrder t 1 0 0 ∧ (s.part 0).handling = false := by unfold TenantOrder; decide

/-- O28: a ring with a program fault and with a hardware fault, in a step that has not committed and outside one. -/
theorem witness_report (hw : Bool) :
    let c : Cluster := { Cluster.reset with flt := [if hw then .lsMem 0 else .program 0x500] }
    let s (p : Partition) : State := { bound p with rings := [(0, { ring0 with cl := [c] })] }
    let s1 := settled (s (stepping step0)) 0 0
    let s2 := settled (s (inState .ready)) 0 0
    s1.partOf 0 = some 0 ∧ (s1.ring 0).causes = [(0, if hw then .lsMem 0 else .program 0x500)] ∧
      (s1.part 0).stepJob = some step0 ∧ step0.committed = false ∧ (s1.ring 0).tt.run ≠ .halted ∧
      s2.stepOpen 0 = false ∧ (s2.ring 0).causes.any (fun c => !c.2.isProgram) = hw := by cases hw <;> decide

/-- O29: a faulted step whose ring stands still; faults outside a step; each row of Table 13.6. -/
theorem witness_recovery :
    let j := { step0 with faulted := true, prog := true }
    let s := { bound (stepping j) with rings := [(0, { ring0 with tt := RingTt.reset })] }
    (∀ r ∈ (s.part 0).rings, (s.ring r).still = true) ∧ (s.part 0).stepJob = some j ∧ (j.faulted || j.halting) = true ∧
      j.committed = false ∧ (s.ring 0).awake = true ∧ s.waking 0 = false ∧ j.done = none := by decide

theorem witness_late :
    let s := bound { inState .ready with handling := true }
    (∀ r ∈ (s.part 0).rings, (s.ring r).still = true) ∧ (s.part 0).stepJob = none ∧ (s.part 0).handling = true := by decide

/-- O30: a step that may commit and one that may not. -/
theorem witness_commit :
    let s (e : Bool) := { bound (stepping step0) with rings := [(0, { ring0 with tt := { RingTt.reset with ended := e } })] }
    (s true).journalWaits 0 = false ∧ ((s true).part 0).stepJob = some step0 ∧ ((s true).part 0).rings ≠ [] ∧
      (∀ r ∈ ((s true).part 0).rings, ((s true).ring r).tt.ended = true) ∧ (s true).groups = [] ∧
      ¬ (∀ r ∈ ((s false).part 0).rings, ((s false).ring r).tt.ended = true) := by decide

/-- O31: a capture whose extents can be read and one whose cannot; a drain with a destination pending. -/
def ckpt0 (pa : Nat) : Ckpt := ⟨1, false, 0, [⟨true, 0, 0, 1, 0, 0, 0⟩], [(pa, 64)], [], 1, 64, true⟩

theorem witness_checkpoint :
    let s (pa : Nat) := bound { stepping step0 with image := none, ckpt := some (ckpt0 pa) }
    ((s 0).part 0).ckpt = some (ckpt0 0) ∧ ((s 0).part 0).stepJob = some step0 ∧
      (s 0).readExts 0 0 (ckpt0 0).exts = .ok [List.replicate 64 0] ∧
      (s (2 ^ 24)).readExts 0 0 (ckpt0 (2 ^ 24)).exts = .error 0 := by decide +kernel

/-- O31: an extent that its channel serves and one whose channel is retraining; a host destination; a buddy whose link is up and
one whose link has failed. -/
theorem witness_capture :
    let s := bound { stepping step0 with image := none, ckpt := some (ckpt0 0) }
    let t := s.setDeck 0 { s.deck 0 with retraining := some 0 }
    let d : CkDest := ⟨true, 0, 7, 1, 0, 0xFF, 0⟩
    let up := s.setPort 0 { Port.reset with h0 := { Link.reset with st := .active } }
    let lost := s.setPort 0 { Port.reset with h0 := { Link.reset with st := .failed } }
    ((∀ x ∈ (0, 64) :: (ckpt0 0).exts, s.rangeServes 0 x.1 x.2 = true) ∧
      ¬ (∀ x ∈ (0, 64) :: (ckpt0 0).exts, t.rangeServes 0 x.1 x.2 = true)) ∧ s.failingOn 0 = false ∧
      ((s.part 0).vf = some 1 ∧ s.ideBars 1 0 = false) ∧ d.buddy = true ∧ (up.link d.port0 false).st ≠ .failed ∧
      (lost.link d.port0 false).st = .failed := by decide +kernel

/-- O31: a destination pending on a port's link. -/
theorem witness_waits : (⟨true, 0, 7, 1, 0, 0xFF, 0⟩ : CkDest).waitsOn 0 = true ∧ (⟨true, 0, 7, 1, 0, 0xFF, 1⟩ : CkDest).waitsOn 0 = false := by
  decide

theorem witness_drain :
    let s := bound { inState .ready with drains := [ckpt0 0] }
    (s.part 0).drains = [] ++ ckpt0 0 :: [] ∧ (ckpt0 0).serial = (1 : Word).toNat ∧ ((ckpt0 0).dests[0]?).map (fun d => d.state) = some 0 := by decide

/-- O32: a restore from a copy that is not there, from one whose manifest does not check, and from one that does. -/
theorem witness_restore :
    let j : RestoreJob := ⟨1, 0, .host 0, 0, 0⟩
    let s := bound { inState .loading with came := .ready, job := .restore j }
    (s.part 0).job = .restore j ∧ s.copyRead 0 j [] [] = none ∧
      (s.copyRead 0 j [] (List.replicate 128 0)).map (fun c => slice c.manifest 0 4 != ascii "CKMF") = some true ∧
      (s.copyRead 0 j [] (ascii "CKMF" ++ [2] ++ List.replicate 123 0)).map (fun c =>
        (slice c.manifest 0 4 == ascii "CKMF") && leAt c.manifest 4 1 == mfComplete && c.manifest.length == 128) = some true := by
  decide

/-- O32, O53, O54, O56: a partition whose image key demands the stream of its VF, the stream up and down. -/
def keyed0 (up : Bool) (p : Partition) : State :=
  let s := bound { p with key := some ⟨[], true⟩ }
  s.setFn 1 { s.fn 1 with ideActive := up }

theorem witness_outside :
    let j : RestoreJob := ⟨1, 0, .host 0, 0, 0⟩
    let s := keyed0 true { inState .loading with came := .ready, job := .restore j }
    s.ideNeeds 1 0 = true ∧ s.outside 1 (⟨[], false⟩ : Tlp (List Byte)) = some 0 ∧
      s.outside 1 (⟨[], true⟩ : Tlp (List Byte)) = none ∧ s.restoreOutside 0 j ⟨[], false⟩ = some 1 ∧
      s.restoreOutside 0 j ⟨[], true⟩ = none ∧ (keyed0 false (inState .ready)).ideBars 1 0 = true ∧ s.fnExists 1 = true := by decide

/-- O33: fewer than four images in validation, and four; an image that lies in readable deck, and one that does not; one
that fails. -/
theorem witness_load_order :
    let s := bound (inState .empty)
    let l : Partition := { inState .loading with job := .load ⟨1, 0, 0, 64⟩ }
    let four : State := { s with parts := s.parts ++ [(1, l), (2, l), (3, l), (4, l)] }
    s.loads = 0 ∧ four.loads = 4 ∧ (s.part 0).st.idleOne = true ∧ s.maps 0 0 64 false = true ∧
      s.maps 0 (2 ^ 24 - 63) 64 false = false ∧ (inState .running).st.idleOne = false := by decide

theorem witness_load_end :
    let s := bound { inState .loading with came := .empty, job := .load ⟨1, 0, 0, 64⟩ }
    let x := s.readImage 0 0 64
    (match s.validate 0 x.1 x.2 with | .error _ => true | .ok _ => false) = true := by decide +kernel

/-- O33: an image that passes: one lone ring of class 84, one region, a timetable of one END bundle. -/
def zs (n : Nat) : List Byte := List.replicate n 0

def imageBytes : List Byte :=
  ascii "HLNSTIMG" ++ toLe 2 1 ++ toLe 2 3 ++ [1, 0x0B, 1, 0] ++ toLe 8 1472 ++ zs 40 ++
    (toLe 2 1 ++ zs 2 ++ toLe 4 1 ++ toLe 8 192 ++ toLe 8 64) ++
    (toLe 2 4 ++ zs 2 ++ toLe 4 1 ++ toLe 8 256 ++ toLe 8 1032) ++
    (toLe 2 5 ++ zs 2 ++ toLe 4 1 ++ toLe 8 1344 ++ toLe 8 80) ++ zs 56 ++
    (toLe 4 1 ++ zs 28 ++ toLe 32 1) ++
    (zs 8 ++ toLe 4 0xC0000000 ++ zs 1020) ++ zs 56 ++
    (toLe 2 0x8000 ++ zs 2 ++ toLe 4 1 ++ zs 8 ++ toLe 64 (2 * 2 ^ 510 + 5 * 2 ^ 101)) ++ zs 48

theorem witness_image :
    let s := bound { inState .loading with came := .empty, job := .load ⟨1, 0, 0, 1472⟩ }
    (match s.validate 0 imageBytes [] with
      | .ok v => v.im.tts.length
      | .error e => 100 + e.check) = 1 := by decide +kernel

/-! ## States that meet what the obligations on decks, fabric and links suppose -/

def acc0 : DeckAcc := ⟨0, 0, 0, .stream 0 1, 2000⟩

/-- The same request one deck cycle later. -/
def accLate : DeckAcc := { acc0 with cycle := 2001 }

/-- Engine 1 of cluster 0 has one access of 64 bytes on its way. -/
def moving (out : Bool) : State :=
  let e : StreamEng := { StreamEng.reset with
    st := .running, jobs := [⟨out, 0, 64, 64, if out then 64 else 0, 0, if out then List.replicate 64 7 else [], false, false⟩] }
  { bound (inState .ready) with rings := [(0, { ring0 with cl := [Cluster.reset.setEngine 1 e] })] }

/-- O34, O35: a request that is served, for a client with a job and one without; one that is refused. -/
theorem witness_deck_access :
    (moving false).entryOf acc0 false = .served ∧ ((moving false).jobOf acc0.who).isSome = true ∧
      (moving true).entryOf acc0 true = .served ∧ (moving true).journals 0 0 ((moving true).jobJr acc0.who) acc0.cycle = false ∧
      ((moving true).deck 0).room 0 = true ∧ (moving true).memWf = true ∧
      ((moving false).readGranules (granules 0 64) [2]).1.toOption.map List.length = some 64 ∧
      ((moving false).readGranules (granules 0 64) [3]).1.toOption = none ∧
      (bound (inState .ready)).entryOf ⟨0, 1, 0, .other, 0⟩ false = .refused := by decide +kernel

/-- O34: a request for which there is no job, and one of a withdrawn region. -/
theorem witness_unreachable :
    let s := bound (inState .ready)
    (s.setDeck 0 { s.deck 0 with withdrawn := [0] }).entryOf acc0 false = .waits ∧
      (s.setDeck 0 { s.deck 0 with withdrawn := [0] }).entryOf ⟨0, 0, 0, .other, 0⟩ false = .unreachable := by decide

/-- O34: two engines read one granule; the younger request waits for the older one's turn. -/
theorem witness_queue :
    let e : StreamEng := { StreamEng.reset with st := .running, jobs := [⟨false, 0, 64, 64, 0, 0, [], false, false⟩] }
    let s := { bound (inState .ready) with rings := [(0, { ring0 with
      cl := [(Cluster.reset.setEngine 1 e).setEngine 2 e] })] }
    let b : DeckAcc := { acc0 with who := .stream 0 2 }
    s.entryOf acc0 false = .served ∧ s.entryOf b false = .waits ∧ s.older b = [(.stream 0 1, false, 0)] ∧
      ((s.takeTurn 0 ((s.deck 0).channel 0) (.stream 0 1)).deck 0 |>.chan ((s.deck 0).channel 0)).queue =
        [(.stream 0 2, false, 0)] := by decide +kernel

theorem witness_granule (p : Bool) :
    let s := bound (inState .ready)
    let t := s.setDeck 0 { s.deck 0 with poison := if p then [0] else [] }
    (t.deck 0).holds 0 = false ∧ t.poisoned 0 = p := by cases p <;> decide

/-- O35: a write that is journaled, within the limit and past it. -/
theorem witness_journal :
    let s := (moving true).setPart 0 { (moving true).part 0 with opt := true }
    let f := s.setSiding 0 { s.siding 0 with jlim := [(0, 1)] }
    s.entryOf accLate true = .served ∧ s.journals 0 0 (s.jobJr accLate.who) accLate.cycle = true ∧
      s.journals 0 0 (s.jobJr acc0.who) acc0.cycle = false ∧ s.sidingUp 0 = true ∧
      s.journaling accLate.who = false ∧ (overGranules 0 (s.writeData accLate []) []).length = 1 ∧ s.poisoned 0 = false ∧
      (s.siding 0).offer 0 = .taken ∧ (f.siding 0).jlim = [(0, 1)] := by decide +kernel

theorem witness_full :
    ({ Siding.reset with entries := (List.range 64).map (fun k => ⟨k, 0, k, none⟩), jlim := [(0, 0)] } : Siding).offer 0 = .full := by
  decide +kernel

/-- O35: a write of a client without a job over three granules, two of them in part; its first granule poisoned, and not. -/
theorem witness_partial :
    let s := bound (inState .ready)
    let x : DeckAcc := ⟨0, 0, 60, .other, 0⟩
    let ws := overGranules 60 (List.replicate 70 (9 : Byte)) (List.replicate 70 true)
    s.memWf = true ∧ s.jobOf .other = none ∧ s.entryOf x true = .served ∧ s.journals 0 0 (s.jobJr .other) 0 = false ∧
      (s.deck 0).room 60 = true ∧ ws.map (fun w => (w.1, w.2.2.all id)) = [(0, false), (64, true), (128, false)] ∧
      (∀ w ∈ ws, s.poisoned w.1 = false) ∧ (s.setDeck 0 { s.deck 0 with poison := [0] }).poisoned 0 = true := by decide +kernel

/-- O36: a write of the signal box that waits for the channel whose retraining ends, another going on with it. -/
theorem witness_stalled :
    let s := bound (inState .ready)
    let ch := (s.deck 0).channel 64
    let d := { s.deck 0 with retraining := some ch }
    let t : State := { s.setDeck 0 d with stalled := [(70, [1, 2])] }
    d.failing = none ∧ t.stalled = [(70, [1, 2])] ∧ 70 % 64 + [1, 2].length ≤ 64 ∧
      ((t.setDeck 0 d.nextRetrain).deck 0).retraining = none := by decide

theorem witness_stored :
    let w : JWait := ⟨⟨0, 0, 1, some (List.replicate 64 0)⟩, .other, 64, List.replicate 64 1, List.replicate 64 true⟩
    let s := (bound (inState .ready)).setSiding 1 { Siding.reset with waiting := [w] }
    (s.siding 1).waiting = [w] ∧ w.mask.all id = true ∧ w.data.length = 64 := by decide

/-- O36, O37: a deck that is on; a scrub with a granule served; a channel that is idle and one that has just been used, one
that retrains, one that goes offline with a step in progress and with none. -/
theorem witness_upkeep :
    let s := bound (inState .ready)
    let d := { s.deck 0 with scrub := [255] }
    s.memWf = true ∧ d.pow = .on ∧ d.scrub.contains (0xFFFFFFC0 / 2 ^ 24) = true ∧ d.serves (0xFFFFFFC0 / 64 * 64) = true ∧
      s.readQueue 0 63 = [] ∧ s.waitingAt 0 63 = [] ∧ s.spanQuiet 0 = true ∧
      d.scrub ≠ [] ∧ d.retraining = none ∧ d.offline = none ∧ d.failing = none ∧ d.rtthr < 0x401 ∧
      ((d.trigger 63).retraining = some 63) ∧ ((d.trigger 63).trigger 0).retraining = some 63 := by decide

theorem witness_channel :
    let s := { bound (stepping step0) with rings := [(0, ring0)] }
    let used := s.setDeck 0 ((s.deck 0).setChan 63 { Chan.reset with last := 5 })
    s.spanQuiet 0 = false ∧ ¬ ((used.deck 0).chan 63).last + 1000 ≤ 1004 ∧ ((used.deck 0).chan 63).last + 1000 ≤ 1005 ∧
      s.partsOn 0 = [0] ∧ (s.part 0).stepJob ≠ none ∧ ((bound (inState .ready)).part 0).stepJob = none ∧
      (∃ p ∈ [(3, 5)], p.2 + 2000 ≤ 2005) := by decide

def mgmt0 : Mgmt := ⟨0, 5, true, 100⟩
def session0 : Session := ⟨.open_, some 4, 0, 0, 50, 0, [], [], []⟩
def managed (s : State) : State := { s with il := { s.il with sessions := [some session0, none, none, none] } }

/-- O25: a request whose form checks pass, with a write that it covers still to land and with none; its headers fail their
check, or it goes on. -/
def schedBody : List Byte :=
  toLe 12 (1 + 2 ^ 32 + 2 ^ 64) ++ [0, 64, 0, 0] ++ List.replicate 16 0 ++ toLe 4 64 ++ toLe 4 92 ++ List.replicate 24 0 ++
    toLe 28 (2 ^ 32 + 2 ^ 160) ++ [0, 0]

def solveDesc (op maxref : Byte) : List Byte :=
  [op, if op = 1 then 1 else 0, 0, 0, 0, maxref, 0, 0, 1] ++ List.replicate 15 0 ++ toLe 8 0x100 ++ toLe 8 0x200 ++ toLe 8 0x10000 ++
    toLe 8 0x300 ++ List.replicate 72 0

def requested (d : List Byte) (due : List Due) : State :=
  { bound { stepping step0 with image := none } with rings := [(0, { ring0 with
      cl := [{ Cluster.reset with agenda := due }], tr := { Trestle.reset with queue := [⟨d, 0, false⟩], store := [(0, schedBody)] } })] }

theorem witness_request_runs :
    let s (d : List Byte) := settled (requested d []) 0 1
    (s (solveDesc 1 0)).formChecks 0 0 (solveDesc 1 0) = none ∧ (s (solveDesc 2 1)).formChecks 0 0 (solveDesc 2 1) = none ∧
      (schedIn [(0, schedBody)] (solveDesc 1 0)).isSome = true ∧ (((s (solveDesc 1 0)).ring 0).covered 0) = true ∧
      (((settled (requested (solveDesc 1 0) [⟨3, 0, 0, .lsw 0 []⟩]) 0 1).ring 0).covered 0) = false ∧
      ((s (solveDesc 2 1)).readChecks 0 0 (solveDesc 2 1)).toOption = some (some stConflict) ∧
      ((s (solveDesc 1 0)).readChecks 0 0 (solveDesc 1 0)).toOption = some none ∧
      ((s (solveDesc 1 0)).voidFactor 0 0 ⟨solveDesc 1 0, 1, false, none, none, 0, [], [], true, [], none, false⟩).1 = none := by decide +kernel

/-- O37, O39, O58: an admitted message, in every case of its two allowances. -/
theorem witness_admitted : Admitted (managed (bound (inState .ready))) mgmt0 false false session0 ∧
    Admitted { managed (bound (inState .ready)) with il := { (managed (bound (inState .ready))).il with locked := true } } mgmt0
      true false session0 := by
  unfold Admitted
  simp [managed, bound, mgmt0, session0, State.session, sessLimit, Interlock.reset]

theorem witness_repair (b : Bool) :
    let s := managed (bound (inState .ready))
    let t : State := { s with il := { s.il with lc := if b then 1 else 2 } }
    t.repairable 0 = b ∧ t.regionHolder 0 0 = some 0 ∧ t.regionHolder 15 255 = none := by cases b <;> decide

/-- O38: a flit at its destination whose PART is accepted and one whose PART is not; one that goes on, one whose route is not
installed, one whose header check fails; the last lane that leaves an edge 25 and the first that does not. -/
def flit0 (dst : BitVec 5) (part : BitVec 6) : Flit := stamped ⟨0, part, true, 0, 0, dst, 1, 0, 0, 0, [], 0, 2⟩

theorem witness_flit :
    let s := (bound (inState .ready)).acceptFlit 1 3 (flit0 0 0)
    incoming 0 1 = some (1, 3) ∧ flitOk (flit0 0 0) = true ∧ flitOk { flit0 0 0 with check := 0 } = false ∧
      channelOf (flit0 0 0) = 0 ∧ flitId (flit0 0 0) ∉ (s.edge 1 3).dups ∧
        flitId (flit0 0 0) ∈ ({ s.edge 1 3 with dups := [flitId (flit0 0 0)] } : Edge).dups ∧
        ({ s.edge 1 3 with st := .active } : Edge).st = .active ∧
      (s.acceptsPart 0 (flit0 0 0) = true ∧ s.acceptsPart 0 (flit0 0 1) = false) ∧
      forwards 0 (flit0 2 0) = true ∧ s.nextSide 0 { flit0 2 0 with deflt := false } = none ∧
      defaultRoute 0 2 ≠ [] := by decide +kernel

/-- O38: a flit that an earlier one of its kind, still lacking, keeps from being taken, the earlier one, and one taken already. -/
theorem witness_order :
    let f (tag : BitVec 10) : Flit := stamped { flit0 0 0 with tag := tag }
    let buf : List (Flit × Bool) := [(f 1, true), (f 2, false), (f 3, false)]
    let lacking := (buf.filter (fun x => !x.2)).map (·.1)
    lacking.find? (fun y => orderKey y == orderKey (f 3)) = some (f 2) ∧ flitId (f 2) ≠ flitId (f 3) ∧
      (∃ z ∈ lacking, flitId z = flitId (f 3)) ∧ (∀ y ∈ lacking, flitId y ≠ flitId (f 1)) ∧ (∃ x ∈ buf, flitId x.1 = flitId (f 1)) := by
  decide +kernel

theorem witness_edge :
    let e : Edge := { Edge.reset with st := .retraining, lanes := 25, spares := 1, thresh := 1, recent := [9, 8] }
    1 ≤ e.spares ∧ e.spares < 2 ∧ e.lanes + e.spares - 2 < 25 ∧ 25 ≤ ({ e with lanes := 26 } : Edge).lanes + e.spares - 2 ∧
      e.thresh < (e.recent.filter (fun t => decide (1200007 < t + 1200000))).length ∧
      (e.recent.filter (fun t => decide (1200008 < t + 1200000))).length ≤ e.thresh ∧
      (backEdge 0 1).isSome = true := by decide

/-- O39: a link in each of its states; a port whose links are settled and one whose links are not. -/
theorem witness_link (st : LinkSt) :
    let s := (bound (inState .ready)).setPort 15 { Port.reset with h0 := { Link.reset with st := st, keys := true, badRetrains := 2 } }
    (s.link 15 false).st = st ∧ (24 * 9999 < 100000 * 3 ∧ (s.port 15).berthr = 0) ∧ s.il.locked = false ∧ s.il.attested = true ∧ (s.port 15).idle ≠ 0 ∧ s.power.nsleep = true := by
  cases st <;> decide

theorem witness_port :
    (Port.reset.configure 1).isSome = true ∧
      (({ Port.reset with h0 := { Link.reset with st := .training } } : Port).configure 1).isNone = true := by decide

/-- O40: the frame that follows in sequence, and another; one named by a negative acknowledge; a copy that is taken. -/
theorem witness_frame :
    let f (seq : BitVec 16) : NFrame := ⟨1, seq, 0, 0x5A3C170000000000, 0, [1]⟩
    let l : Link := { Link.reset with st := .active, keys := true, rxseq := 65535, buf := [⟨f 9, [], 7⟩] }
    (f 0).seq.toNat = (l.rxseq + 1) % 65536 ∧ (f 1).seq.toNat ≠ (l.rxseq + 1) % 65536 ∧ l.rxseq < 65536 ∧
      l.buf.any (fun g => g.f.seq == 9) = true ∧ (f 0).cls ≠ 0 ∧ (true && l.keys) = true ∧
      (bound (inState .ready)).frameWaits 0 (f 0) = false := by decide

/-! ## States that meet what the obligations on groups suppose -/

def rec0 (op : Nat) : GroupRec :=
  ⟨1, op, 0, 1, 0, 0x5A3C17, 1, 16, 1, 0, 1, 1, 0x10000, 0, [0], [⟨4, 3, 4, 0, 0x20000⟩], [0xFF], []⟩

/-- The same group with a second position, on another device. -/
def rec2 : GroupRec := { rec0 0 with gsize := 2, nexthop := [0xFF, 2] }

def grouped (op : Nat) (x : Invoc) : State :=
  let s := bound { stepping step0 with image := none, devTok := [(3, 1)] }
  { s with groups := [(15, ⟨0, rec0 op, 0, 0, 0, 0, 0, 0, 0, [(0, x)], 0⟩)] }

def inv0 : Invoc := { Invoc.new with live := true, full := [(0, 1)], rgot := [(0, 4)], posted := [(0, 1)], trailer := [(0, 1)] }

/-- O40: a copy whose group a partition takes part in, and one that none does. -/
theorem witness_copy : (grouped 0 inv0).copyOwner 0x5A3C17 = some 0 ∧ (grouped 0 inv0).copyOwner 0 = none := by decide

/-- O40: a bulk frame that its siding die has a free block for, and one that waits for one. -/
theorem witness_bulk (full : Bool) :
    let s := grouped 0 inv0
    let t := s.setSiding 0 { s.siding 0 with staged := if full then [(0, sidingBlocks * blockBytes)] else [] }
    let u := t.setSiding 1 { s.siding 1 with staged := if full then [(0, sidingBlocks * blockBytes)] else [] }
    let f : NFrame := ⟨2, 0, 0, 0x5A3C170000000000, 0, [1]⟩
    u.copyOwner (bits f.gtag.toNat 40 24) = some 0 ∧ u.fabricOn.bulkWaits f = full ∧ u.frameWaits 0 f = full := by
  cases full <;> decide +kernel

/-- O41: an invocation with its tokens there and not; a chunk whose contributions are complete, of a sum and of a gather; a
chunk that has come and has been posted; verdicts. -/
theorem witness_invocation :
    let s := grouped 0 Invoc.new
    (s.group 15).map (fun g => (decide (0 < g.rcd.buckets.length), (g.invOf 0).live)) = some (true, false) ∧
      s.engineReady 0 ((rec0 0).startReads 0) ((rec0 0).startWrites 0) = true ∧
      (s.part 0).counter 0 .device 3 = 1 ∧ (rec0 0).contrib.length = 1 ∧ Partition.reset.counter 0 .device 3 < 1 := by decide

theorem witness_chunk :
    let s := grouped 0 inv0
    (rec0 0).offOf ((rec0 0).root 0 0) = some 0 ∧ inv0.live = true ∧ inv0.abandon = false ∧ 0 ∉ inv0.joined ∧
      0 < (rec0 0).chunks 0 ∧ (∀ p ∈ List.range 1, Tab.get 0 inv0.full (chunkKey 0 p) ≠ 0) ∧
      s.engineReady 0 ((rec0 0).joinReads 0 0) ((rec0 0).joinWrites 0 0) = true ∧
      s.engineReady 0 ((rec0 2).joinReads 0 0) ((rec0 2).joinWrites 0 0) = true ∧
      (s.readAreas (some 16) 0 4 [(rec0 0).stageAt 0 0 0]).toOption.isSome = true ∧
      ((grouped 2 inv0).engineRead (some 16) 0 0 4).toOption.isSome = true := by decide +kernel

theorem witness_result :
    let s := grouped 0 inv0
    (rec0 0).hosts = [] ∧ (rec0 0).chunkLen 0 0 ≤ Tab.get 0 inv0.rgot (chunkKey 0 0) ∧ chunkKey 0 0 ∉ inv0.checked ∧
      Tab.get 0 inv0.trailer (chunkKey 0 0) = 0 + 1 ∧
      ((rec0 0).receives 0 0).idxOf 0 < Tab.get 0 inv0.posted 0 ∧ s.engineReady 0 ((rec0 0).joinWrites 0 0) [] = true ∧
      (s.engineRead (some 16) 0 ((rec0 0).dstAt 0 0 0) 4).toOption.isSome = true := by
  decide +kernel

theorem witness_verdicts :
    let x : Invoc := { inv0 with checked := [0], verdicts := [(0, ⟨true, 0, 0, 0, 0⟩)] }
    (grouped 0 x).engineReady 0 (rec0 0).lagRange (rec0 0).lagRange = true ∧
      x.live = true ∧ x.verdictSent = false ∧ (∀ p ∈ (rec0 0).held, ∀ c ∈ (rec0 0).receives 0 p.1, chunkKey c p.1 ∈ x.checked) ∧
      (rec0 0).offOf 0 = some 0 ∧ (∀ p ∈ List.range 1, ∃ q ∈ x.verdicts, q.1 = p) := by decide

/-- O42: an invocation that is known; a step that has not committed; a frame awaited at the end of the time-out. -/
theorem witness_group_verdict :
    let s := grouped 0 inv0
    (s.group 15).map (fun g => (Tab.find g.inv 0).isSome) = some true ∧ (s.part 0).stepJob = some step0 ∧
      s.engineReady 0 (rec0 0).lagRange (rec0 0).lagRange = true ∧ (s.group 15).map (fun g => Tab.find g.inv 1) = some none ∧
      step0.committed = false ∧ inv0.abandon = false ∧ inv0.awaits rec2 0 ≠ [] ∧
      inv0.start + rec2.timeout * 1200000 ≤ 1200000 ∧
      ((⟨false, 6, 0, 0, 0⟩ : Verdict).pass = false ∧ (6 : BitVec 3).toNat.testBit 0 = false) ∧
      ({ inv0 with verdicts := [(0, ⟨false, 2, 0, 0, 0⟩)] } : Invoc).verdicts.find? (fun q => !q.2.pass) = some (0, ⟨false, 2, 0, 0, 0⟩) := by decide

/-! ## States that meet what the obligations on power, boot and the meter suppose -/

/-- O43: a ring that may sleep, one that may wake; uncores with nothing left to do; no order posted; a device that has and
has not tripped. -/
theorem witness_power :
    let a := { bound (inState .ready) with rings := [(0, { ring0 with tt := RingTt.reset })] }
    let b := bound (stepping step0)
    a.maySleep 0 = true ∧ b.mayWake 0 = true ∧ b.partOf 0 = some 0 ∧ b.power.unc = true ∧ b.fabricIdle = true ∧
      b.il.boot = .booted ∧ State.reset.anyPosted = false ∧ State.reset.evaluating = false ∧
      (bound { inState .loading with job := .load ⟨1, 0, 0, 64⟩ }).evaluating = true ∧ b.anyPosted = true ∧ b.power.sbOn = true ∧
      b.power.tripped = false ∧ (b.power.therm[15]?).isSome = true ∧ (∀ q, some q = a.partOf 0 → (a.part q).ending = false) := by
  refine ⟨by decide, by decide, by decide, by decide, by decide, by decide, by decide, by decide, by decide, by decide, by decide,
    by decide, by decide, fun q h => ?_⟩
  have : q = 0 := Option.some.inj (h.trans (by decide))
  subst this
  decide

/-- O44: each condition of a reset, present and absent. -/
theorem witness_resets :
    let l (l : Lands) : State := { State.reset with lands := l }
    let p (p : Power) : State := { State.reset with power := p }
    (l { Lands.reset with perst := false }).lands.perst = false ∧ (l { Lands.reset with sysRst := false }).lands.sysRst = false ∧
      (p { Power.reset with ordered := true }).power.ordered = true ∧ (p { Power.reset with refLost := true }).power.refLost = true ∧
      (p { Power.reset with tripped := true }).power.tripped = true ∧ State.reset.lands.perst = true ∧
      State.reset.lands.sysRst = true ∧ State.reset.power.ordered = false ∧ State.reset.power.refLost = false ∧
      State.reset.power.tripped = false := by decide

def fw0 (svn : Nat) (ok : Bool) : FwImage := ⟨svn, 0, true, ok, true, 7, false⟩

/-- O45: a reset device that may boot, from slot A, from slot B and from neither; a booted one; the caps at the ends of
their range. -/
theorem witness_boot :
    let s := State.reset
    s.il.boot = .none_ ∧ s.power.refLost = false ∧ s.power.tripped = false ∧ s.lands.pwrok = true ∧ s.lands.sysRst = true ∧
      s.lands.openSense = [] ∧ s.tap.holding = none ∧ s.il.verifies (s.il.flashA.getD (fw0 0 true)) = true ∧
      s.il.verifies (s.il.flashA.getD (fw0 0 false)) = false ∧ s.il.verifies (s.il.flashB.getD (fw0 63 true)) = true := by decide

/-- O45: a BLANK device's own images, and a target that has its address. -/
theorem witness_blank : ({ Interlock.reset with lc := 0 } : Interlock).verifies { fw0 0 true with mfg := true } = true ∧
    ({ State.reset with i3c := { State.reset.i3c with addr := some 8 } } : State).i3c.addr ≠ none ∧
    ({ State.reset with lands := { Lands.reset with openSense := [3] } } : State).released = false := by decide

theorem witness_cap :
    let w (v : Nat) : List (Nat × Byte) := boardRun 6 [BitVec.ofNat 8 v, BitVec.ofNat 8 (v / 256)]
    (boardByte (w 1000) 6, boardByte (w 1000) 7) = (some (1000 % 256), some 3) ∧ 1000 ≤ 1000 % 256 + 256 * 3 ∧
      (boardByte (w 3600) 6, boardByte (w 3600) 7) = (some (3600 % 256), some 14) ∧ 3600 % 256 + 256 * 14 ≤ 3600 ∧
      (boardByte (w 999) 6, boardByte (w 999) 7) = (some (999 % 256), some 3) ∧ 999 % 256 + 256 * 3 < 1000 ∧
      (boardByte (w 3601) 6, boardByte (w 3601) 7) = (some (3601 % 256), some 14) ∧ 3600 < 3601 % 256 + 256 * 14 := by decide

def metered (m : Meter) : State := { State.reset with meter := m }

/-- O46: the interval of Example 15.1 has no silent span, and one with a silent span; weights of at most 65,536 and rings held once. -/
theorem witness_interval :
    let m := meter15
    MeterRuns (metered m) ∧ 1000 % 1000 = 0 ∧ m.time ≤ 1000 ∧ m.start < 1000 ∧ m.silent = [] ∧ ({ m with silent := [2] } : Meter).silent.any (fun k => decide (k < 8)) = true ∧
      (∀ g ∈ List.range 8, m.alpha.getD g 0 ≤ 65536) ∧
      (∀ g ∈ List.range 8, (m.accounts.map (fun x => (x.rings.filter (fun r =>
        decide (4 ≤ g) || decide (r / 16 < 8 ↔ g % 2 = 0))).length * 1000)).sum ≤ (if g < 4 then 128 else 256) * 1000) := by
  unfold MeterRuns; decide

/-- O47, O48: commands that run. -/
theorem witness_meter_step : (∃ t, exec .pwrok State.reset = .next t) ∧ meterCommand .pwrok = false ∧
    ∃ t, exec (.sealBreakAssert 0) (metered { Meter.reset with st := .measure }) = .next t := ⟨⟨_, rfl⟩, rfl, _, rfl⟩

/-- O49: frames good and bad, events new and old, an hour's end. -/
theorem witness_meter_inputs :
    let m := { meter15 with evseq := 5 }
    MeterRuns (metered m) ∧ 5 ≤ m.evseq ∧ m.evseq < 6 ∧ m.evseq ≤ 5 ∧ m.revealed false [(1, [7])] ≠ [] ∧ m.revealed true [(1, [7])] ≠ [] ∧ m.revealed true [] = [] ∧ 3600000 % 3600000 = 0 ∧
      m.hour < 3600000 / 3600000 ∧ 5 / 3600000 ≤ m.hour ∧
      ((metered m).il.boot = .none_ ∧ (bound (inState .ready)).il.boot ≠ .none_) ∧
      (63 : Byte).toNat < 64 ∧ (m.evseq = 5 ∧ m.missed = 0) ∧ ({ m with missed := 1 } : Meter).missed ≠ 0 ∧
      shownSet [(1, [7])] 1 = some [7] := by unfold MeterRuns; decide

/-- O50: the meter in each of its states; a change order judged good, and refused for each reason. -/
theorem witness_change :
    let o : ChangeOrder := ⟨[], some 3, 8, 1, true, true, true, true, 0⟩
    let m : Meter := { Meter.reset with st := .sealbreak, nonce := some 8, breaks := 1 }
    MeterRuns (metered m) ∧ m.st = .sealbreak ∧ m.judge o = stOk ∧
      m.judge { o with credentialOk := false } = stSignature ∧ m.judge { o with nonce := 7 } = stSignature ∧
      m.judge { o with breaks := 0 } = stSignature ∧ ({ m with st := .measure } : Meter).judge o = stConflict := by
  unfold MeterRuns; decide

theorem witness_meter_states : Meter.reset.st = .starting ∧ ({ Meter.reset with st := .measure } : Meter).st = .measure ∧
    MeterRuns (metered { Meter.reset with st := .measure }) := by unfold MeterRuns; decide

/-- O51: a register and a record that are there, and ones that are not; an output on its way. -/
theorem witness_ports :
    let m : Meter := { Meter.reset with st := .measure, copy := [(0, 7)], records := [(1, [3])], copyRecs := [(1, [3])] }
    let s : State := { metered m with mirror := ⟨[], [], [([(0, 7)], [])]⟩ }
    MeterRuns s ∧ m.copy.find? (fun r => r.1 == 0) = some (0, 7) ∧ m.copy.find? (fun r => r.1 == 4) = none ∧
      Tab.find m.copyRecs 1 = some [3] ∧ Tab.find m.copyRecs 2 = none ∧ s.mirror.wire = [([(0, 7)], [])] := by
  unfold MeterRuns; decide

/-- O52: SYS_RST_N high and low, and a trip. -/
theorem witness_tap : State.reset.tap.trst = true ∧ State.reset.lands.sysRst = true ∧ ({ Lands.reset with sysRst := false } : Lands).sysRst = false ∧
    ({ Power.reset with tripped := true } : Power).tripped = true ∧ (List.replicate 631 true).length = 631 := by
  decide +kernel

/-! ## States that meet what the obligations on the host's side suppose -/

/-- O53: a slot that is TAKEN and one that is not; the scan with nothing to do, with an order, and with an unknown one. -/
theorem witness_book :
    let s := bound (inState .ready)
    let t := s.setFn 1 { s.fn 1 with book := [(8064, 2)] }
    let u := { s with fns := [(1, { Fn.reset with book := [(128, 1), (129, 0x7F)] })] }
    s.fnExists 1 = true ∧ t.slotState 1 63 = 2 ∧ t.slotState 1 62 ≠ 2 ∧ Tab.wf 0 (s.fn 1).book = true ∧
      s.il.boot = .booted ∧ s.power.cores = true ∧ ({ s with fns := [] } : State).nextOrder = none ∧
      u.nextOrder = some (1, 1) ∧ orderOf 1 1 [] (u.slotBytes 1 1) = none ∧ pfOp (leAt (u.slotBytes 1 1) 1 1) = false := by
  decide +kernel

/-- O53: a ring of notices with room, and a full one; vector 1 open, masked, and with its function masked. -/
theorem witness_notices :
    let s := bound (inState .ready)
    let full : Fn := { Fn.reset with notices := List.replicate 64 ⟨0, 1, 0⟩ }
    (s.part 0).vf = some 1 ∧ (s.fn 1).notices.length < 64 ∧ full.notices.length = 64 ∧
      ((s.fn 1).msix.enable = true ∧ (s.fn 1).msix.fmask = false ∧ (s.fn 1).msix.masked.contains 1 = true) ∧
      ({ (s.fn 1).msix with masked := [0] } : Msix).masked.contains 1 = false := by decide

/-- O53, O55, O56: a function in D3hot, and in D0. -/
theorem witness_d3hot :
    let s := bound (inState .ready)
    ((s.setFn 1 { s.fn 1 with d3hot := true }).fn 1).d3hot = true ∧ (s.fn 1).d3hot = false ∧ msixInBar (.mask 3) = true := by decide

theorem witness_scan_order :
    let u := { bound (inState .ready) with fns := [(1, { Fn.reset with book := [(128, 1), (129, 0x12)] })] }
    u.nextOrder = some (1, 1) ∧ (orderOf 1 1 [] (u.slotBytes 1 1)).isSome = true ∧ TenantOrder u 1 1 0 := by
  unfold TenantOrder; decide +kernel

/-- O54: a key's area in deck; a certificate that fits; data to seal; register forms good and bad; a register that a
tenant may read, and one it may not. -/
theorem witness_tenant_orders :
    let s := bound (inState .ready)
    (s.part 0).st.idleOne = true ∧ (s.part 0).key = none ∧ (s.readArea 0 0 157 matches .data _) ∧
      s.certWaits 1 2 = false ∧ s.il.attested = true ∧ s.il.lmsExh = false ∧ (s.readArea 0 0 64 matches .data _) ∧
      (s.part 0).st.seals = true ∧ s.maps 0 64 (65536 + 40) true = true ∧ (inState .empty).st.seals = false ∧
      regForm 0x020000000000 3 = false ∧ regForm 0x020000000000 4 = true ∧
      (s.locateReg (.tenantOf 0) 0x020000000500 4 false).toOption.isSome = true ∧
      (s.locateReg (.tenantOf 0) 0x020000010500 4 false).toOption = none := by decide +kernel

/-- O54: an area whose channel is retraining; areas that a sealed blob fits, and a key that a tenant may give. -/
theorem witness_areas :
    let s := bound (inState .ready)
    let t := s.setDeck 0 { s.deck 0 with retraining := some 0 }
    s.rangeServes 0 0 157 = true ∧ t.rangeServes 0 0 157 = false ∧
      (s.maps 0 64 104 true = true ∧ s.rangeServes 0 64 104 = true ∧ s.partMerges 0 64 (List.replicate 104 0) = false) := by
  decide +kernel

/-- O54: an area with a poisoned granule, a write that would merge into one; a certificate longer than its space; a partition in
TEARDOWN. -/
theorem witness_spoilt :
    let s := bound (inState .ready)
    let t := s.setDeck 0 { s.deck 0 with poison := [0] }
    t.boxMaps 0 0 157 false = true ∧ t.rangeServes 0 0 157 = true ∧ (t.readArea 0 0 157 matches .uncorrectable) ∧
      t.boxMaps 0 60 104 true = true ∧ t.partMerges 0 60 (List.replicate 104 0) = true ∧
      s.boxMaps 0 (2 ^ 24) 157 false = false ∧ tenantKeyOk [] = false ∧
      ((bound (inState .teardown)).torn 1 = some 0 ∧ (bound (inState .teardown)).takes 1 0 = true) := by decide +kernel

theorem witness_halt : TenantOrder (bound (stepping step0)) 1 0 0 ∧ ((bound (stepping step0)).part 0).st = .running ∧
    step0.committed = false := by unfold TenantOrder; decide

/-- O55: orders of the PF; a VF that is free, bound, and bound elsewhere; a vector with and without something pending; a
function's session. -/
theorem witness_host :
    let s := bound (inState .ready)
    let t : State := { s with host := ⟨2, true, false, 0, 0⟩, parts := s.parts ++ [(63, inState .empty)] }
    HostOrder t 0 ∧ t.vfNamed 2 = true ∧ t.boundPart 2 = none ∧ (t.part 63).vf = none ∧ (t.part 63).ending = false ∧
      (t.part 63).st ≠ .absent ∧ (t.part 63).st ≠ .teardown ∧ t.promised 2 = false ∧ t.boundPart 1 = some 0 ∧ t.fnExists 2 = true ∧
      ((t.part 0).vf = some 1 ∧ (t.part 0).ending = false ∧ (t.part 0).st ≠ .absent ∧ (t.part 0).st ≠ .teardown) ∧
      (bound { inState .ready with job := .ending none none false } |>.part 0).ending = true ∧
      (t.allStill 63 = true ∧ (t.part 63).regions = [] ∧ t.inRouters 63 = false) ∧
      t.mailboxBad 1 = none ∧ t.mailboxBad 2 = some stConflict ∧ t.tenant 1 = some 0 ∧ t.il.locked = false := by unfold HostOrder; decide

/-- O55: a responder that has a chain to present, and one that has not. -/
theorem witness_responder :
    let s := bound (inState .ready)
    (s.spdmChain 0).isSome = true ∧ ({ s with il := { s.il with attested := false } } : State).spdmChain 0 = none := ⟨rfl, rfl⟩

/-- O55: a locked device, one in recovery, and mailboxes of a VF with no tenancy, of a session not yet held, and of one. -/
theorem witness_mailbox (b : Bool) :
    let s := bound (inState .ready)
    let x : State := { s with il := { s.il with locked := b, boot := if b then .recovery else .booted } }
    x.il.locked = b ∧ (x.il.boot = .recovery) = (b = true) ∧ (x.mailboxBad 1).isSome = b ∧
      (s.setFn 1 { s.fn 1 with spdm := b, ideAlt := some [] } |>.fn 1).spdm = b ∧ keysLink (.ksetGo true) = true ∧ msixInBar (.entry 15 0) = true ∧
      (15 : Fin 64).val % 16 / 4 = 3 ∧ (11 : Fin 64).val % 16 / 4 ≠ 3 := by cases b <;> decide

theorem witness_vector :
    let m : Msix := { Fn.reset.msix with pend := [3] }
    3 ∈ m.pend ∧ m.enable = true ∧ m.fmask = false ∧ 0 ∉ m.pend := by decide

/-- O56: a read and a write within a piece of the window, the last byte of it included; an address that no region maps; a
function with no tenancy. -/
theorem witness_window :
    let s := bound (inState .ready)
    s.memWf = true ∧ s.il.boot = .booted ∧ s.fnExists 1 = true ∧ s.boundPart 1 = some 0 ∧ s.boundPart 2 = none ∧
      4095 % 4096 + 1 ≤ 4096 ∧ (s.rangeServes 0 4095 1 = true ∧
        (s.setDeck 0 { s.deck 0 with retraining := some ((s.deck 0).channel 4032) }).rangeServes 0 4095 1 = false) ∧
      (∀ g ∈ granules 4095 1, s.poisoned g = false) ∧
      s.translate 0 4095 = some (4095, true) ∧ s.translate 0 (2 ^ 24) = none ∧ (s.part 0).key = none ∧
      ((s.fabricOn.readGranules (granules 4095 1) [0]).1.toOption).isSome = true ∧
      s.fabricOn.homeReaches (some boxDie) 4095 = true ∧
      ((crosses boxDie (defaultRoute boxDie 0)).foldl (fun (s : State) e => s.setEdge e.1 e.2 { s.edge e.1 e.2 with st := .failed })
        s).homeReaches (some boxDie) 4095 = false ∧
      (bound { inState .ready with job := .ending none none false }).boundPart 1 = some 0 := by decide +kernel

/-- O57: a session in each of its stages; chains of one and of four certificates; the last tick of the thirty minutes. -/
theorem witness_session (st : Stage) :
    let s := { managed (bound (inState .ready)) with il := { (managed (bound (inState .ready))).il with
      anchor := some [3], sessions := [some { session0 with stage := st }, none, none, none] } }
    s.session 0 = some { session0 with stage := st } ∧ s.session 1 = none ∧ s.il.boot ≠ .none_ ∧ s.il.anchor ≠ none ∧
      1 ≤ [true].length ∧ [true, true, true, true].length ≤ 4 ∧ 50 + 3686400000 ≤ 3686400050 ∧ 3686400049 < 50 + 3686400000 := by
  cases st <;> decide

/-- O57: headers of management messages: with a tag that fails, with a number that does not rise, on a session that has expired. -/
theorem witness_header :
    let s := managed (bound (inState .ready))
    (mgmtHeader (.telemetry { mgmt0 with tagOk := false } 0) = some { mgmt0 with tagOk := false } ∧
      mgmtHeader (.halt (.mgmt { mgmt0 with seq := 4 }) 0) = some { mgmt0 with seq := 4 } ∧ mgmtHeader (.halt (.slot 1 0) 0) = none) ∧
      s.session mgmt0.sess.val = some session0 ∧ session0.stage = .open_ ∧ mgmt0.tick < session0.last + 3686400000 ∧
      (∃ r, session0.rx = some r ∧ 4 ≤ r) ∧ session0.last + 3686400000 ≤ 3686400050 ∧ s.power.sbOn = true := by
  refine ⟨by decide, by decide, by decide, by decide, ⟨4, by decide, by decide⟩, by decide, by decide⟩

/-- O58: a creation that nothing forbids and one that is refused; a chunk that completes an image; lifecycle steps. -/
theorem witness_management :
    let s := managed (bound (inState .ready))
    s.createOwn [1] [(0, 1)] = true ∧ s.createOwn [0] [] = false ∧ (s.createBad 0xFF [1] [(0, 256)]).isSome = true ∧
      s.createOwn [1] [(0, 256)] = true ∧ s.createBad 0xFF [1] [(0, 1)] = none ∧ (s.newIdent 0xFF).isSome = true ∧ (s.createBad 0xFF [0] []).isSome = true ∧
      (addChunk session0.chunks 0 [1, 2]).head?.map (·.1) = some 0 ∧ s.il.signed (fw0 0 true) = true ∧
      (chunkBytes (addChunk session0.chunks 0 [1, 2])).length ≤ 33554432 ∧ s.il.floor ≤ (fw0 0 true).svn ∧ s.il.svn ≤ s.il.floor ∧
      ({ s with il := { s.il with lc := 1 } } : State).lifecycleBad 2 true true = none ∧ (s.lifecycleBad 0 true true).isSome = true ∧
      (s.part 0).st ≠ .absent ∧ (s.part 1).st = .absent ∧ s.inRouters 0 = false := by decide +kernel

theorem witness_anchor :
    let s := bound (inState .ready)
    s.il.anchor = none ∧ s.il.boot = .booted ∧ s.il.locked = false ∧ s.lands.provEn = true ∧ 0 < 1 ∧
      (bound { inState .teardown with job := .teardown mgmt0 false }).part 0 =
        { inState .teardown with rings := [0], regions := [0], vf := some 1, job := .teardown mgmt0 false } := by decide

/-- O60: a step of a state whose memory has its form. -/
theorem witness_memory : (bound (inState .ready)).memWf = true ∧
    ∃ t, step { bound (inState .ready) with pending := [.scrubComplete 0] } = .next t := ⟨by decide, _, rfl⟩


/-! ## Single commands, their results worked out by hand from the rules -/

def after (c : Instr) (s : State) (p : State → Bool) : Bool :=
  match exec c s with
  | .next t => p t
  | _ => false

def regs2 (a b : BitVec 64) : Regs := { Regs.reset with s := (Regs.reset.s.set 1 a).set 2 b }
def dueAfter (c : Instr) (a b : BitVec 64) : List Due :=
  match exec c (withCl (fun c => { c with r := regs2 a b })) with
  | .next t => ((t.ring 0).get 1).agenda
  | _ => []

/-- R156: a sum wraps, and is due one ring cycle after issue. -/
theorem test_sadd : dueAfter (.sadd i0 3 1 2) (BitVec.allOnes 64) 2 = [⟨1, 0, 0, .sreg 3 1⟩] := by decide +kernel

/-- R156: the operands of a difference in order. -/
theorem test_ssub : dueAfter (.ssub i0 3 1 2) 5 7 = [⟨1, 0, 0, .sreg 3 (-2)⟩] := by decide +kernel

/-- R156: shifts take the low six bits of the count, SSRA keeps the sign. -/
theorem test_shifts : dueAfter (.sshl i0 3 1 2) 3 65 = [⟨1, 0, 0, .sreg 3 6⟩] ∧
    dueAfter (.ssra i0 3 1 2) (-8) 1 = [⟨1, 0, 0, .sreg 3 (-4)⟩] := by decide +kernel

/-- R157: SMUL is due three ring cycles after issue. -/
theorem test_smul : dueAfter (.smul i0 3 1 2) 6 7 = [⟨3, 0, 0, .sreg 3 42⟩] := by decide +kernel

/-- Table 7.3: signed comparison. -/
theorem test_sslt : dueAfter (.sslt i0 3 1 2) (-1) 0 = [⟨1, 0, 0, .sreg 3 1⟩] := by decide +kernel

/-- R158: SST's bytes, the least significant first, three ring cycles after issue. -/
theorem test_sst : dueAfter (.sst i0 2 1 (-8)) 0x108 0x1122 =
    [⟨3, 0, 0, .lsw 3 [(0x100, 0x22, 0xFF), (0x101, 0x11, 0xFF), (0x102, 0, 0xFF), (0x103, 0, 0xFF), (0x104, 0, 0xFF),
      (0x105, 0, 0xFF), (0x106, 0, 0xFF), (0x107, 0, 0xFF)]⟩] := by decide +kernel

/-- R179: a misaligned SLD sets SALIGN, bit 0 of RG_TTFAULT. -/
theorem test_salign : after (.sld i0 3 1 0) (withCl (fun c => { c with r := regs2 0x104 0 }))
    (fun t => (t.ring 0).tt.fault == 1 && ((t.ring 0).get 0).agenda.isEmpty) = true := by decide +kernel

/-- R161: BNZD's target in the current leg. -/
theorem test_bnzd : after (.bnzd i0 1 5) (withCl (fun c => { c with r := regs2 2 0 }))
    (fun t => (t.ring 0).tt.next == 5) = true ∧
    after (.bnzd i0 1 5) (withCl (fun c => { c with r := regs2 1 0 })) (fun t => (t.ring 0).tt.next == 1) = true := by
  decide +kernel

/-- R165: the bundle after COAST 10 issues ten ring cycles later. -/
theorem test_coast : after (.coast i0 10) (withRing ring0) (fun t => (t.ring 0).tt.nextCycle == 10) = true := by
  decide +kernel

/-- Table 5.6: FP32 lanes of 1.5 and 2.25 add to 3.75 in the pair of the destination, four ring cycles later. -/
theorem test_vadd :
    let v : BitVec 128 := 0x3FC000003FC000003FC000003FC00000
    let w : BitVec 128 := 0x40100000401000004010000040100000
    after (.vadd i0 .va ⟨1, 1, 4, 0, 2, 0, false, 0, 0, false⟩)
      (withCl (fun c => { c with r := { Regs.reset with v := (Regs.reset.v.set 0 v).set 2 w, vl := 1 } }))
      (fun t => ((t.ring 0).get 0).agenda.map (fun d => (d.at_, d.act)) ==
        [(4, .vreg 4 0xFFFFFFFF 0x40700000)]) = true := by decide +kernel

/-- R88: MSTART clocks the first twelve columns, and the array is ON 48 ring cycles later. -/
theorem test_mstart : after (.mstart i0) (withRing ring0) (fun t => ((t.ring 0).get 0).mx.st == .rampup &&
    ((t.ring 0).get 0).mx.step == 1 && (((t.ring 0).settle 0 48).get 0).mx.st == .on &&
    (((t.ring 0).settle 0 47).get 0).mx.st == .rampup) = true := by decide +kernel

/-- R57, R81: in S4 the 84 load cycles bring all 168 weight rows into the shadow bank, the last two in the last of them. -/
theorem test_load_rows : after (.mldw i0 1) (withRing { ring0 with cl := [{ Cluster.reset with
      r := regs1 0, ls := { LStore.reset with bytes := [(16, 7)] } }] })
    (fun t => let c := ((t.ring 0).settle 0 84).get 0
      c.mx.shadow.rows.length == 168 && c.mx.shadow.valid && !c.mx.loading) = true := by decide +kernel

/-- R90: MMUL in an array that is OFF sets ORDER, bit 0 of CL_MFAULT. -/
theorem test_mmul_order : after (.mmul i0 ⟨false, false, 1, 2, 0⟩) (withRing ring0)
    (fun t => ((t.ring 0).get 0).mx.fault == 1) = true := by decide +kernel

/-- R417, Table 17.7: a step order in EMPTY completes with STATE_CONFLICT, 0x0101, and interrupts vector 0. -/
theorem test_step_conflict : after (.step 1 0 0) (bound (inState .empty))
    (fun t => t.bookBytes 1 0 4 == [3, 0, 1, 1] && t.slotState 1 0 == 3) = true := by decide +kernel

/-- R130: a step order in READY enters RUNNING. -/
theorem test_step : after (.step 1 0 0) (bound (inState .ready)) (fun t => (t.part 0).st == .running) = true := by
  decide +kernel

/-- R414: a write through the window lands in the deck, and is read back. -/
theorem test_window : after (.bar2Write 1 0x40 [1, 2, 3] .clean false [0]) (bound (inState .ready))
    (fun t => t.deckBytes 0x40 4 == [1, 2, 3, 0] && t.memWf && after (.bar2Read 1 0x41 2 [0]) t
      (fun u => u.outbox == [.data 1 0x41 [2, 3] .clear])) = true := by decide +kernel

/-- R405, R407: PERST# brings a warm reset, cause 0x02; the meter goes on. -/
theorem test_perst : after .perst (metered meter15) (fun t => t.power.rstcause == 2 && t.meter == meter15) = true := by
  decide +kernel

/-- R386: seal-break asserted in MEASURE. -/
theorem test_seal_break : after (.sealBreakAssert 5) (metered { Meter.reset with st := .measure })
    (fun t => t.meter.st == .sealbreak && t.meter.breaks == 1) = true := by decide +kernel

/-- Table 18.6: the IDCODE register shifts out 0x1B4C16D5, least significant bit first. -/
theorem test_idcode : after .idcode State.reset (fun t => match t.outbox with
    | [.tdo c, .tdo l] => c == [true, false, false, false, false, false, false, false] && l.length == 32 && l.foldr (fun b n => 2 * n + b2n b) 0 == 0x1B4C16D5
    | _ => false) = true := by decide +kernel

/-- R404: above the cap the device step rises by one; the tick counter by 2,048. -/
theorem test_cap : after (.capEvaluation 3600001 (List.replicate 23 50) (List.replicate 16 50)) State.reset
    (fun t => t.power.step == 1 && t.power.tick == 2048) = true := by decide +kernel

/-- R425, Example 18.1: rows 38, 87, 88, 147 and 150. -/
theorem test_row_names : [38, 87, 88, 147, 150].map rowName = ["AY", "DL", "DM", "GP", "GV"].map String.toList := by decide

/-- Example 18.1: the lands of Narid port 6, lane 5, and of PCI Express lane 9. -/
theorem test_lane_lands :
    [landAt 87 146, landAt 88 146, landAt 87 142, landAt 88 142] =
      [.narid 6 5 true true, .narid 6 5 true false, .narid 6 5 false true, .narid 6 5 false false] ∧
    [landAt 136 67, landAt 136 68, landAt 138 67, landAt 138 68] =
      [.pcie 9 true true, .pcie 9 true false, .pcie 9 false true, .pcie 9 false false] := by decide

/-- R432: the boundary register's length. -/
theorem test_scan_cells : scanCell "" = cellCount ∧ scanCell "PERST#" = cellPerst ∧ scanCell "PROV_EN" = cellProv := by decide

/-- Table 16.4: after a power-on reset the boot is next; with PERST# asserted the device is in RESET. -/
theorem test_power_state : State.reset.devicePower = .boot ∧
    ({ State.reset with lands := { State.reset.lands with perst := false } } : State).devicePower = .reset := by decide

/-- R421: a message that opens a session, written out from the header's fields, is read back. -/
theorem test_message : messageBytes [] 3 7 [0xAB] = [0x48, 0x4C, 0x4E, 0x4D, 1, 3, 0, 0, 1, 0, 0, 0, 7, 0, 0, 0, 0, 0, 0, 0]
      ++ List.replicate 12 0 ++ [0xAB] ++ List.replicate 48 0 ∧
    readMessage [] (messageBytes [] 3 7 [0xAB]) = some ⟨3, 7, [0xAB]⟩ := by decide

/-- R424, R405, R396, R403, R431: the grid spans 126.65 mm, IDLE draws at most 81.8 W, the standing clock is 2.048 MHz, the ring
clock at step 9 is 375 MHz (Example 16.1), the lid stays at 68.8 °C. -/
theorem test_package : spanUm = 126650 ∧ idleParts.sum = 818 ∧ standingHz = 2048000 ∧ ringHz 9 = 375000000 ∧
    lidTenths 400 3600 = 688 := by decide

/-- An idle block: the step on an empty queue changes nothing (log entry 2). -/
theorem test_idle : step State.reset = .next State.reset := rfl

end Sys2Proof.Tests
end

/-! # Fault reports, the start hold and the halted ring (O26, O28)

What the device takes from a ring leaves the step of a partition and the memory as they are; what a ring's status block
holds after it has taken its clusters' flags; what the signal box does with the causes a ring has raised. -/

namespace Sys2Proof.Machine

/-! ## A change in every cluster of a ring -/

/-- What a change in every cluster leaves as it is in each reads the same along the ring. -/
theorem Ring.map_each {β : Type} (r : Ring) (f : Nat → Cluster → Cluster) (g : Cluster → β)
    (h : ∀ k c, g (f k c) = g c) : (r.each f).cl.map g = r.cl.map g := by
  have hz : ((List.range r.cl.length).zip r.cl).map (g ∘ Prod.snd) = r.cl.map g := by
    rw [← List.map_map, List.map_snd_zip (by simp)]
  rw [← hz, Ring.each, List.map_map]
  exact List.map_congr_left (fun p _ => h p.1 p.2)

/-- The logical slots with a new fault depend on the clusters' marks alone. -/
theorem Ring.freshSlots_congr (r r' : Ring) (h : r'.cl.map (·.fresh) = r.cl.map (·.fresh)) :
    r'.freshSlots = r.freshSlots := by
  have key (x : Ring) : x.freshSlots = (List.range (x.cl.map (·.fresh)).length).filter
      (fun k => (x.cl.map (·.fresh)).getD k Cluster.reset.fresh) := by
    simp [Ring.freshSlots, Ring.get]
  rw [key, key, h]

/-! ## The flags of a status block (R22) -/

/-- Every bit of a register's flags shows in the status block. -/
def UnitStat.Shows (u : UnitStat) (p : Nat × Nat) : Prop := Tab.get 0 u.flags p.1 &&& p.2 = p.2

/-- An empty status block shows only registers without a flag. -/
theorem UnitStat.Shows.eq_zero {u : UnitStat} {p : Nat × Nat} (h : u.Shows p) (hu : u.flags = []) : p.2 = 0 := by
  simpa [UnitStat.Shows, hu, Tab.get] using h.symm

/-- Every status block shows a register without a flag. -/
theorem UnitStat.shows_of_eq_zero (u : UnitStat) {p : Nat × Nat} (h : p.2 = 0) : u.Shows p := by
  simp [UnitStat.Shows, h]

@[simp] theorem UnitStat.take_first (u : UnitStat) (l : List (Nat × Nat)) : (u.take l).first = u.first := rfl
@[simp] theorem UnitStat.take_stamp (u : UnitStat) (l : List (Nat × Nat)) : (u.take l).stamp = u.stamp := rfl

/-- A status block takes a member's registers one after another. -/
theorem UnitStat.take_cons (u : UnitStat) (p : Nat × Nat) (l : List (Nat × Nat)) :
    u.take (p :: l) = (u.take [p]).take l := rfl

/-- What a status block holds of a register after it has taken the flags of one. -/
theorem UnitStat.get_take_singleton (u : UnitStat) (p : Nat × Nat) (k : Nat) :
    Tab.get 0 (u.take [p]).flags k = if k = p.1 then Tab.get 0 u.flags k ||| p.2 else Tab.get 0 u.flags k := by
  by_cases hp : p.2 = 0
  · simp [UnitStat.take, hp]
  · have hne : Tab.get 0 u.flags p.1 ||| p.2 ≠ 0 := fun h => hp (Nat.or_eq_zero_iff.mp h).2
    simp only [UnitStat.take, List.foldl_cons, List.foldl_nil, if_neg hp, Tab.set, if_neg hne]
    split
    · next hk => rw [hk, Tab.get_ins_same]
    · next hk => exact Tab.get_ins_ne _ _ _ _ _ hk

/-- A status block that takes a register shows it. -/
theorem UnitStat.shows_take_singleton (u : UnitStat) (p : Nat × Nat) : (u.take [p]).Shows p := by
  rw [UnitStat.Shows, UnitStat.get_take_singleton, if_pos rfl]
  refine Nat.eq_of_testBit_eq (fun i => ?_)
  cases h : p.2.testBit i <;> simp [h]

/-- What a status block shows stays when it takes the flags of a register. -/
theorem UnitStat.Shows.take_singleton {u : UnitStat} {p : Nat × Nat} (h : u.Shows p) (q : Nat × Nat) :
    (u.take [q]).Shows p := by
  rw [UnitStat.Shows, UnitStat.get_take_singleton]
  split
  · rw [Nat.and_or_distrib_right, show Tab.get 0 u.flags p.1 &&& p.2 = p.2 from h]
    refine Nat.eq_of_testBit_eq (fun i => ?_)
    cases h : p.2.testBit i <;> simp [h]
  · exact h

/-- What a status block shows stays when it takes a member's flags. -/
theorem UnitStat.Shows.take {u : UnitStat} {p : Nat × Nat} (h : u.Shows p) (l : List (Nat × Nat)) : (u.take l).Shows p := by
  induction l generalizing u with
  | nil => exact h
  | cons q l ih =>
    rw [UnitStat.take_cons]
    exact ih (h.take_singleton q)

/-- A status block that takes a member's flags shows each of its registers. -/
theorem UnitStat.shows_take (u : UnitStat) (l : List (Nat × Nat)) (p : Nat × Nat) (hp : p ∈ l) : (u.take l).Shows p := by
  induction l generalizing u with
  | nil => cases hp
  | cons q l ih =>
    rw [UnitStat.take_cons]
    rcases List.mem_cons.mp hp with rfl | hl
    · exact (u.shows_take_singleton p).take l
    · exact ih _ hl

/-- What a status block shows stays when it takes the flags of several members. -/
theorem UnitStat.Shows.foldl_take {u : UnitStat} {p : Nat × Nat} (h : u.Shows p) (ls : List (List (Nat × Nat))) :
    (ls.foldl UnitStat.take u).Shows p := by
  induction ls generalizing u with
  | nil => exact h
  | cons l ls ih => exact ih (h.take l)

/-- A status block that takes the flags of several members shows each register of each. -/
theorem UnitStat.shows_foldl_take (u : UnitStat) (ls : List (List (Nat × Nat))) (l : List (Nat × Nat)) (hl : l ∈ ls)
    (p : Nat × Nat) (hp : p ∈ l) : (ls.foldl UnitStat.take u).Shows p := by
  induction ls generalizing u with
  | nil => cases hl
  | cons l' ls ih =>
    rcases List.mem_cons.mp hl with rfl | hm
    · exact (u.shows_take l p hp).foldl_take ls
    · exact ih _ hm

@[simp] theorem UnitStat.foldl_take_first (u : UnitStat) (ls : List (List (Nat × Nat))) :
    (ls.foldl UnitStat.take u).first = u.first := by
  induction ls generalizing u with
  | nil => rfl
  | cons l ls ih => exact ih (u.take l)

@[simp] theorem UnitStat.foldl_take_stamp (u : UnitStat) (ls : List (List (Nat × Nat))) :
    (ls.foldl UnitStat.take u).stamp = u.stamp := by
  induction ls generalizing u with
  | nil => rfl
  | cons l ls ih => exact ih (u.take l)

/-! ## The first faulting member (R23) -/

@[simp] theorem UnitStat.mark_none (u : UnitStat) (a : Option (Nat × Nat)) : u.mark a none = u := rfl

@[simp] theorem UnitStat.mark_flags (u : UnitStat) (a : Option (Nat × Nat)) (m : Option Nat) : (u.mark a m).flags = u.flags := by
  unfold UnitStat.mark
  split
  · rfl
  · rfl
  · split <;> rfl

/-- A status block that holds no member takes the one that faults. -/
theorem UnitStat.mark_first_of_none (u : UnitStat) (a : Option (Nat × Nat)) (m : Nat) (h : u.first = none) :
    (u.mark a (some m)).first = some m := by
  simp [UnitStat.mark, h]

/-- A status block that holds a member keeps it, but for a lower one of the same ring cycle. -/
theorem UnitStat.mark_first_of_some (u : UnitStat) (t : Nat × Nat) (m f : Nat) (h : u.first = some f) :
    (u.mark (some t) (some m)).first = some (if u.stamp = some t ∧ m < f then m else f) := by
  simp only [UnitStat.mark, h, Option.isSome_some, Bool.true_and, Bool.and_eq_true, beq_iff_eq, decide_eq_true_eq]
  split
  · rfl
  · exact h

/-! ## The status block of a ring (R22, R23) -/

/-- The ring's status block once it has taken every flag of its clusters and its own. -/
def Ring.collected (r : Ring) : UnitStat :=
  ((r.cl.map Cluster.sticky).foldl UnitStat.take r.unit).take [(0x308, r.tt.fault.toNat), (0x10008, r.tr.fault.toNat)]

@[simp] theorem Ring.collected_first (r : Ring) : r.collected.first = r.unit.first := by simp [Ring.collected]
@[simp] theorem Ring.collected_stamp (r : Ring) : r.collected.stamp = r.unit.stamp := by simp [Ring.collected]

/-- The status block that a ring gathers: the flags collected, and the lowest slot whose fault is new. -/
theorem Ring.gather_unit (r : Ring) (u : Nat) : (r.gather u).unit = r.collected.mark (some (0, u)) r.freshSlots.head? := by
  have hfold : r.cl.foldl (fun u c => u.take c.sticky) r.unit = (r.cl.map Cluster.sticky).foldl UnitStat.take r.unit := by
    rw [List.foldl_map]
  simp only [Ring.gather, Ring.collected, hfold]
  split
  · next h =>
    simp only [Bool.and_eq_true, List.isEmpty_iff] at h
    rw [h.1, List.head?_nil, UnitStat.mark_none]
  · rfl

@[simp] theorem Ring.gather_unit_flags (r : Ring) (u : Nat) : (r.gather u).unit.flags = r.collected.flags := by
  rw [Ring.gather_unit, UnitStat.mark_flags]

/-- Gathering leaves the flags of every cluster. -/
@[simp] theorem Ring.gather_sticky (r : Ring) (u : Nat) :
    (r.gather u).cl.map Cluster.sticky = r.cl.map Cluster.sticky := by
  simp only [Ring.gather]
  split
  · rfl
  · exact r.map_each (fun _ c => { c with fresh := false }) Cluster.sticky (fun _ _ => rfl)

/-- The ring's status block shows every flag of its clusters. -/
theorem Ring.collected_shows (r : Ring) (c : Cluster) (hc : c ∈ r.cl) (p : Nat × Nat) (hp : p ∈ c.sticky) :
    r.collected.Shows p :=
  (UnitStat.shows_foldl_take _ _ _ (List.mem_map_of_mem hc) p hp).take _

/-! ## What the device takes from a ring leaves the memory, and most of the partitions -/

@[simp] theorem State.ring_setSpan (s : State) (i j : Nat) (x : Span) : (s.setSpan i x).ring j = s.ring j := rfl

/-- A partition without what it takes from its rings: the begin of the optimizer phase, token ports, status blocks. -/
def Partition.apart (p : Partition) : Partition := { p with opt := false, optAt := [], faces := [], units := [] }

/-- The memory, and every partition but for what it takes from its rings, stay. -/
def State.KeepsParts (s t : State) : Prop := t.mem = s.mem ∧ ∀ p, (t.part p).apart = (s.part p).apart

theorem State.KeepsParts.refl (s : State) : s.KeepsParts s := ⟨rfl, fun _ => rfl⟩

theorem State.KeepsParts.trans {s t u : State} (h : s.KeepsParts t) (h' : t.KeepsParts u) : s.KeepsParts u :=
  ⟨h'.1.trans h.1, fun p => (h'.2 p).trans (h.2 p)⟩

theorem State.KeepsParts.stepJob {s t : State} (h : s.KeepsParts t) (p : Nat) : (t.part p).stepJob = (s.part p).stepJob :=
  show (t.part p).apart.stepJob = (s.part p).apart.stepJob from congrArg _ (h.2 p)

theorem State.KeepsParts.setRing (s : State) (k : Nat) (r : Ring) : s.KeepsParts (s.setRing k r) := ⟨rfl, fun _ => rfl⟩

theorem State.KeepsParts.setSpan (s : State) (k : Nat) (x : Span) : s.KeepsParts (s.setSpan k x) := ⟨rfl, fun _ => rfl⟩

theorem State.KeepsParts.setPart (s : State) (i : Nat) (p : Partition) (h : p.apart = (s.part i).apart) :
    s.KeepsParts (s.setPart i p) := by
  refine ⟨rfl, fun j => ?_⟩
  by_cases hj : j = i
  · rw [hj, State.part_setPart, h]
  · rw [State.part_setPart_ne _ _ _ _ hj]

theorem State.takeXfers_keepsParts (s : State) (k : Nat) : s.KeepsParts (s.takeXfers k) := by
  simp only [State.takeXfers]
  split
  · exact .refl s
  · split
    · exact .refl s
    · exact .setRing _ _ _

theorem State.takeWork_keepsParts (s : State) (k : Nat) : s.KeepsParts (s.takeWork k) := by
  simp only [State.takeWork]
  split
  · exact .refl s
  · split
    · exact .setRing _ _ _
    · exact (State.KeepsParts.setRing _ _ _).trans (.setSpan _ _ _)

theorem State.takePhase_keepsParts (s : State) (k : Nat) : s.KeepsParts (s.takePhase k) := by
  simp only [State.takePhase]
  split
  · exact .refl s
  · split
    · exact .setPart _ _ _ rfl
    · exact .refl s

theorem State.takePosts_keepsParts (s : State) (k : Nat) : s.KeepsParts (s.takePosts k) := by
  simp only [State.takePosts]
  split
  · exact .refl s
  · split
    · exact .setRing _ _ _
    · split
      · exact .setRing _ _ _
      · exact (State.KeepsParts.setRing _ _ _).trans (.setPart _ _ _ rfl)

theorem State.takeFlags_keepsParts (s : State) (k : Nat) : s.KeepsParts (s.takeFlags k) := by
  simp only [State.takeFlags, State.takeFlagsAs]
  split
  · exact .refl s
  · split
    · exact (State.KeepsParts.setRing _ _ _).trans (.setSpan _ _ _)
    · split
      · exact (State.KeepsParts.setRing _ _ _).trans (.setSpan _ _ _)
      · exact ((State.KeepsParts.setRing _ _ _).trans (.setSpan _ _ _)).trans (.setPart _ _ _ rfl)

/-- The device once ring `k` has become `r` and what it takes has been taken, but for posts and flags. -/
def beforePosts (s : State) (k : Nat) (r : Ring) : State := (((s.setRing k r).takeXfers k).takeWork k).takePhase k

theorem afterRing_eq (s : State) (k : Nat) (r : Ring) :
    afterRing s k r = ((beforePosts s k r).takePosts k).takeFlags k := rfl

/-- What the device takes from a ring leaves the memory, and the partitions but for what they take from their rings. -/
theorem afterRing_keepsParts (s : State) (k : Nat) (r : Ring) : s.KeepsParts (afterRing s k r) :=
  (((((State.KeepsParts.setRing s k r).trans (State.takeXfers_keepsParts _ k)).trans (State.takeWork_keepsParts _ k)).trans
    (State.takePhase_keepsParts _ k)).trans (State.takePosts_keepsParts _ k)).trans (State.takeFlags_keepsParts _ k)

/-! ## The start hold and the halted ring -/

/-- A started ring stops at its start hold where the step has been reported. -/
theorem State.stopAtStart_of (s : State) (part k : Nat) (j : StepJob) (h : (s.part part).stepJob = some j) :
    s.stopAtStart part k = if j.faulted || j.halting then s.setRing k (s.ring k).receiveReport else s := by
  simp only [State.stopAtStart, h]

/-- A ring that waits to be started and whose target has a timetable goes to its start hold. -/
theorem exec_startHold_of (i : Issue) (part : Nat) (im : Image) (x : Timetable) (s : State)
    (ha : (s.ring i.ring.val).awake = true) (hp : s.partOf i.ring.val = some part) (him : (s.part part).image = some im)
    (hs : s.startable part i.ring.val = true)
    (hx : (if s.targetC77 im (im.targetOf i.ring.val) then im.timetable (im.targetOf i.ring.val) true
      else (im.timetable (im.targetOf i.ring.val) false).or (im.timetable (im.targetOf i.ring.val) true)) = some x) :
    exec (.startHold i) s = .next ((afterRing s i.ring.val
      ((settledRing s i).startHold (cycleAt s i) x x.c77)).stopAtStart part i.ring.val) := by
  have he := State.event_of s i (fun t r => r.startHold t x x.c77) ha
  simp only [exec_startHold, execStartHold, hp, him, hs, hx, he, Bool.not_true, Bool.false_eq_true, if_false]

/-- An awake ring at a hold that has received a report halts (R173). -/
theorem State.event_haltHere (s : State) (i : Issue) (ha : (s.ring i.ring.val).awake = true)
    (hr : (settledRing s i).tt.report = true) (hh : (settledRing s i).tt.run = .hold) :
    s.atRing i.ring.val (fun r => r.event i.ring.val i.cycle (fun _ r =>
      if r.tt.report && r.tt.run == .hold then r.haltHere else r)) = afterRing s i.ring.val (settledRing s i).haltHere := by
  rw [State.event_of s i _ ha, if_pos (by rw [hr, hh]; rfl)]

/-- Settles O26: the event acts on the ring at the start of its ring cycle, and what the device then takes from the ring
leaves the partition's step. -/
theorem startHoldAndHalt : Obligations.StartHoldAndHalt := by
  intro i part im x s ha
  refine ⟨fun hp him hs hx j hj => ?_, fun hr hh => ?_⟩
  case refine_2 =>
    intro s1
    have he : _ = s1 := State.event_haltHere s i ha hr hh
    clear_value s1
    rw [exec_ringHalted]
    cases hq : s1.partOf i.ring.val <;> simp only [execRingHalted, he, hq]
  have hjob := (afterRing_keepsParts s i.ring.val ((settledRing s i).startHold (cycleAt s i) x x.c77)).stepJob part
  rw [exec_startHold_of i part im x s ha hp him hs hx, State.stopAtStart_of _ _ _ j (hjob.trans hj)]
  rfl

/-! ## The status block once the device has taken the ring's flags -/

/-- A ring whose posts the units above have taken. -/
def Ring.dropPosted (r : Ring) : Ring := { r.each (fun _ c => { c with posted := [] }) with posted := [] }

@[simp] theorem Ring.dropPosted_unit (r : Ring) : r.dropPosted.unit = r.unit := rfl
@[simp] theorem Ring.dropPosted_now (r : Ring) : r.dropPosted.now = r.now := rfl
@[simp] theorem Ring.dropPosted_freshSlots (r : Ring) : r.dropPosted.freshSlots = r.freshSlots :=
  Ring.freshSlots_congr _ _ (r.map_each (fun _ c => { c with posted := [] }) _ (fun _ _ => rfl))
@[simp] theorem Ring.dropPosted_collected (r : Ring) : r.dropPosted.collected = r.collected := by
  have hs : r.dropPosted.cl.map Cluster.sticky = r.cl.map Cluster.sticky :=
    r.map_each (fun _ c => { c with posted := [] }) _ (fun _ _ => rfl)
  rw [Ring.collected, hs]
  rfl

/-- Where a ring has posted something, the device takes its posts. -/
theorem State.takePosts_ring (s : State) (k : Nat) :
    (s.takePosts k).ring k = s.ring k ∨ (s.takePosts k).ring k = (s.ring k).dropPosted := by
  simp only [State.takePosts]
  split
  · exact .inl rfl
  · right
    split
    · rw [State.ring_setRing, Ring.dropPosted]
    · split
      · rw [State.ring_setRing, Ring.dropPosted]
      · rw [State.ring_setPart, State.ring_setRing, Ring.dropPosted]

/-- The ring after its posts have been taken shows the same to its status block. -/
theorem State.takePosts_keepsBlock (s : State) (k : Nat) :
    ((s.takePosts k).ring k).now = (s.ring k).now ∧
      ((s.takePosts k).ring k).freshSlots = (s.ring k).freshSlots ∧
      ((s.takePosts k).ring k).collected = (s.ring k).collected := by
  rcases s.takePosts_ring k with hr | hr <;> simp [hr]

/-- The ring once the device has taken its flags: as it was where no status block has one, else as it has gathered them. -/
theorem State.takeFlags_ring (s : State) (k : Nat) : (s.takeFlags k).ring k =
    if (s.ring k).collected.flags = [] then s.ring k else { (s.ring k).gather (s.ring k).now with news := [] } := by
  simp only [State.takeFlags, State.takeFlagsAs, Ring.gather_unit_flags, List.isEmpty_iff]
  split
  · rfl
  · split
    · simp
    · split <;> simp

/-- Where a flag stands, the first faulting member is the one held, else the lowest slot whose fault is new. -/
theorem State.takeFlags_first (s : State) (k : Nat) (h : (s.ring k).collected.flags ≠ []) :
    ((s.takeFlags k).ring k).unit.first =
      ((s.ring k).collected.mark (some (0, (s.ring k).now)) (s.ring k).freshSlots.head?).first := by
  rw [State.takeFlags_ring, if_neg h]
  exact congrArg UnitStat.first (Ring.gather_unit _ _)

/-- Once the device has taken a ring's flags, the ring's status block shows every flag of its clusters. -/
theorem State.takeFlags_shows (s : State) (k : Nat) (c : Cluster) (hc : c ∈ ((s.takeFlags k).ring k).cl) (p : Nat × Nat)
    (hp : p ∈ c.sticky) : ((s.takeFlags k).ring k).unit.Shows p := by
  rw [State.takeFlags_ring] at hc ⊢
  split at hc
  · next h =>
    rw [if_pos h]
    exact UnitStat.shows_of_eq_zero _ (((s.ring k).collected_shows c hc p hp).eq_zero h)
  · next h =>
    rw [if_neg h]
    have hm : c.sticky ∈ (s.ring k).cl.map Cluster.sticky := by
      rw [← Ring.gather_sticky (s.ring k) (s.ring k).now]
      exact List.mem_map_of_mem hc
    obtain ⟨c', hc', he⟩ := List.mem_map.mp hm
    have hs := (s.ring k).collected_shows c' hc' p (he ▸ hp)
    rwa [UnitStat.Shows, ← Ring.gather_unit_flags _ (s.ring k).now] at hs

/-- Bringing a ring to a ring cycle is an event that does nothing more. -/
theorem settled_eq (s : State) (k c : Nat) : settled s k c = afterRing s k ((s.ring k).event k c (fun _ r => r)) := rfl

theorem settled_mem (s : State) (k c : Nat) : (settled s k c).mem = s.mem := (afterRing_keepsParts s k _).1

/-- The posts that are taken before the flags leave the first faulting member. -/
theorem settled_first (s : State) (k c : Nat) (x : Ring)
    (hx : (beforePosts s k ((s.ring k).event k c (fun _ r => r))).ring k = x) (h : x.collected.flags ≠ []) :
    ((settled s k c).ring k).unit.first = (x.collected.mark (some (0, x.now)) x.freshSlots.head?).first := by
  obtain ⟨hn, hs, hc⟩ := (beforePosts s k ((s.ring k).event k c (fun _ r => r))).takePosts_keepsBlock k
  rw [hx] at hn hs hc
  rw [settled_eq, afterRing_eq, State.takeFlags_first _ _ (by rw [hc]; exact h), hc, hn, hs]

theorem settled_shows (s : State) (k n : Nat) (c : Cluster) (hc : c ∈ ((settled s k n).ring k).cl)
    (p : Nat × Nat) (hp : p ∈ c.sticky) : ((settled s k n).ring k).unit.Shows p := by
  rw [settled_eq, afterRing_eq] at hc ⊢
  exact State.takeFlags_shows _ k c hc p hp

/-! ## The causes that a ring has raised (R28) -/

/-- The ring once its causes have been taken. -/
def Ring.dropCauses (r : Ring) : Ring := { r.each (fun _ c => { c with flt := [] }) with flt := [] }

@[simp] theorem Ring.dropCauses_unit (r : Ring) : r.dropCauses.unit = r.unit := rfl
@[simp] theorem Ring.dropCauses_awake (r : Ring) : r.dropCauses.awake = r.awake := rfl
@[simp] theorem Ring.dropCauses_tt (r : Ring) : r.dropCauses.tt = r.tt := rfl

@[simp] theorem Ring.dropCauses_causes (r : Ring) : r.dropCauses.causes = [] := by
  have hf : ∀ c ∈ r.dropCauses.cl, c.flt = [] := by
    intro c hc
    obtain ⟨_, _, rfl⟩ := List.mem_map.mp hc
    rfl
  have hz : ∀ p ∈ (List.range 16).zip r.dropCauses.cl, p.2.flt.map (fun c => (p.1, c)) = [] := by
    intro p hp
    rw [hf p.2 (List.of_mem_zip hp).2, List.map_nil]
  rw [Ring.causes, List.flatMap_eq_nil_iff.mpr hz]
  rfl

/-- Entries of the event log leave the rest of the device. -/
theorem State.foldl_note {α : Type} (s : State) (part node : Nat) (reg bit : α → Nat) (l : List α) :
    ∃ log, l.foldl (fun s c => s.note part node (reg c) (bit c)) s = { s with log := log } := by
  induction l generalizing s with
  | nil => exact ⟨s.log, rfl⟩
  | cons c l ih =>
    obtain ⟨log, h⟩ := ih (s.note part node (reg c) (bit c))
    exact ⟨log, h⟩

/-- A change of the step in progress leaves the rings. -/
@[simp] theorem State.onStep_ring (s : State) (part k : Nat) (f : StepJob → StepJob) : (s.onStep part f).ring k = s.ring k := by
  simp only [State.onStep]
  split <;> rfl

@[simp] theorem State.onStep_mem (s : State) (part : Nat) (f : StepJob → StepJob) : (s.onStep part f).mem = s.mem := by
  simp only [State.onStep]
  split <;> rfl

@[simp] theorem State.onStep_partRings (s : State) (part : Nat) (f : StepJob → StepJob) :
    ((s.onStep part f).part part).rings = (s.part part).rings := by
  simp only [State.onStep]
  split
  · rw [State.part_setPart]
  · rfl

/-- A step in progress is changed. -/
theorem State.onStep_stepJob (s : State) (part : Nat) (f : StepJob → StepJob) :
    ((s.onStep part f).part part).stepJob = (s.part part).stepJob.map f := by
  simp only [State.onStep]
  split
  · next j h => simp [Partition.stepJob, h]
  · next h =>
    have hn : (s.part part).stepJob = none := by
      simp only [Partition.stepJob]
    rw [hn, Option.map_none]

/-- What a ring's causes make of a step in progress: one whose commit point has not passed is faulted, a program fault forbids its
repetition, and hardware faults are kept for recovery (R28). -/
def StepJob.takeCauses (j : StepJob) (ring : Nat) (cs : List (Nat × Cause)) : StepJob :=
  if j.committed then j
  else { j with
    faulted := true, prog := j.prog || cs.any (fun c => c.2.isProgram)
    faults := j.faults ++ (cs.filter (fun c => !c.2.isProgram)).map (fun c => (ring, c.1, c.2)) }

/-- Taking the causes of a ring clears them, notes them in the event log, and changes the step in progress. -/
theorem State.takeCauses_of (s : State) (part k : Nat) (h : (s.ring k).causes ≠ []) :
    ∃ log, s.takeCauses part k = ({ s.setRing k (s.ring k).dropCauses with log := log } : State).onStep part
      (fun j => j.takeCauses k (s.ring k).causes) := by
  obtain ⟨log, hlog⟩ := (s.setRing k (s.ring k).dropCauses).foldl_note part k
    (fun c => c.2.reg) (fun c => (s.ring k).faultBits c.1 c.2.reg) (s.ring k).causes
  refine ⟨log, ?_⟩
  rw [← hlog]
  simp only [State.takeCauses, List.isEmpty_iff, if_neg h]
  rfl

section
variable (s : State) (part k : Nat) (h : (s.ring k).causes ≠ [])
include h

theorem State.takeCauses_mem : (s.takeCauses part k).mem = s.mem := by
  obtain ⟨log, he⟩ := s.takeCauses_of part k h
  rw [he, State.onStep_mem]
  rfl

theorem State.takeCauses_ring_same : (s.takeCauses part k).ring k = (s.ring k).dropCauses := by
  obtain ⟨log, he⟩ := s.takeCauses_of part k h
  rw [he, State.onStep_ring]
  exact State.ring_setRing s k _

theorem State.takeCauses_ring_ne (i : Nat) (hi : i ≠ k) : (s.takeCauses part k).ring i = s.ring i := by
  obtain ⟨log, he⟩ := s.takeCauses_of part k h
  rw [he, State.onStep_ring]
  exact State.ring_setRing_ne s k i _ hi

theorem State.takeCauses_partRings : ((s.takeCauses part k).part part).rings = (s.part part).rings := by
  obtain ⟨log, he⟩ := s.takeCauses_of part k h
  rw [he, State.onStep_partRings]
  rfl

theorem State.takeCauses_stepJob :
    ((s.takeCauses part k).part part).stepJob = (s.part part).stepJob.map (fun j => j.takeCauses k (s.ring k).causes) := by
  obtain ⟨log, he⟩ := s.takeCauses_of part k h
  rw [he, State.onStep_stepJob]
  rfl

end

/-! ## The report of a fault to the rings (R173) -/

@[simp] theorem Ring.receiveReport_unit (r : Ring) : r.receiveReport.unit = r.unit := by
  unfold Ring.receiveReport
  split <;> rfl

@[simp] theorem Ring.receiveReport_causes (r : Ring) : r.receiveReport.causes = r.causes := by
  unfold Ring.receiveReport
  split <;> rfl

/-- A ring that runs keeps a report it receives. -/
theorem Ring.receiveReport_report (r : Ring) (ha : r.awake = true) (hr : r.tt.run ≠ .halted) :
    r.receiveReport.tt.report = true := by
  rw [Ring.receiveReport, if_pos (by simp [ha, hr])]

/-- A second report changes nothing. -/
@[simp] theorem Ring.receiveReport_receiveReport (r : Ring) : r.receiveReport.receiveReport = r.receiveReport := by
  by_cases h : (r.awake && (r.tt.run != .halted)) = true
  · have hr : r.receiveReport = { r with tt := { r.tt with report := true } } := if_pos h
    rw [hr]
    exact if_pos h
  · have hr : r.receiveReport = r := if_neg h
    rw [hr, hr]

/-- Reports reach the rings listed and no others. -/
theorem State.ring_foldl_receiveReport (s : State) (l : List Nat) (i : Nat) :
    (l.foldl (fun s i => s.setRing i (s.ring i).receiveReport) s).ring i =
      if i ∈ l then (s.ring i).receiveReport else s.ring i := by
  induction l generalizing s with
  | nil => rfl
  | cons k l ih =>
    rw [List.foldl_cons, ih]
    by_cases hk : i = k
    · subst hk
      simp
    · simp [State.ring_setRing_ne _ _ _ _ hk, hk]

theorem State.ring_reportAll (s : State) (part i : Nat) :
    (s.reportAll part).ring i = if i ∈ (s.part part).rings then (s.ring i).receiveReport else s.ring i :=
  s.ring_foldl_receiveReport _ i

theorem State.reportAll_keepsParts (s : State) (part : Nat) : s.KeepsParts (s.reportAll part) := by
  unfold State.reportAll
  generalize (s.part part).rings = l
  induction l generalizing s with
  | nil => exact .refl s
  | cons k l ih => exact (State.KeepsParts.setRing s k _).trans (ih _)

/-! ## FAULT_REPORT -/

/-- What the signal box makes of the causes that ring `k` of a partition has raised: it takes them, and reports the fault to the
rings of an open step, or leaves a hardware fault outside a step to be handled (R28, R173). -/
def State.reportFault (s : State) (part k : Nat) : State :=
  let t := s.rouse.takeCauses part k
  if s.stepOpen part then t.reportAll part
  else if (s.ring k).causes.any (fun c => !c.2.isProgram) then t.setPart part { t.part part with handling := true }
  else t

/-- FAULT_REPORT of a ring that has raised causes. -/
theorem exec_faultReport_of (ring : Fin 256) (cycle part : Nat) (s : State)
    (hp : (settled s ring.val cycle).partOf ring.val = some part) (hc : ((settled s ring.val cycle).ring ring.val).causes ≠ []) :
    exec (.faultReport ring cycle) s = .next ((settled s ring.val cycle).reportFault part ring.val) := by
  obtain ⟨c, cs, hcs⟩ := List.exists_cons_of_ne_nil hc
  simp only [settled] at hp hcs
  rw [exec_faultReport]
  delta execFaultReport
  simp only [State.reportFault, settled, hp, hcs]
  split
  · rfl
  · split <;> rfl

section
variable (s : State) (part k : Nat) (h : (s.ring k).causes ≠ [])
include h

theorem State.reportFault_mem : (s.reportFault part k).mem = s.mem := by
  have hm : (s.rouse.takeCauses part k).mem = s.mem := s.rouse.takeCauses_mem part k h
  simp only [State.reportFault]
  split
  · rw [(State.reportAll_keepsParts _ part).1, hm]
  · split <;> exact hm

/-- The ring whose causes are taken is left without them; at most it receives the report. -/
theorem State.reportFault_ring : (s.reportFault part k).ring k = (s.ring k).dropCauses ∨
    (s.reportFault part k).ring k = (s.ring k).dropCauses.receiveReport := by
  have hr : (s.rouse.takeCauses part k).ring k = (s.ring k).dropCauses := s.rouse.takeCauses_ring_same part k h
  simp only [State.reportFault]
  split
  · rw [State.ring_reportAll, hr]
    split
    · exact .inr rfl
    · exact .inl rfl
  · split <;> exact .inl hr

theorem State.reportFault_causes : ((s.reportFault part k).ring k).causes = [] := by
  rcases s.reportFault_ring part k h with hr | hr <;> simp [hr]

theorem State.reportFault_unit : ((s.reportFault part k).ring k).unit = (s.ring k).unit := by
  rcases s.reportFault_ring part k h with hr | hr <;> simp [hr]

/-- An open step takes the causes. -/
theorem State.reportFault_stepJob (ho : s.stepOpen part = true) : ((s.reportFault part k).part part).stepJob =
    (s.part part).stepJob.map (fun j => j.takeCauses k (s.ring k).causes) := by
  simp only [State.reportFault, if_pos ho]
  rw [(State.reportAll_keepsParts _ part).stepJob part]
  exact s.rouse.takeCauses_stepJob part k h

/-- The report of an open step's fault reaches every ring of the partition that runs. -/
theorem State.reportFault_report (ho : s.stepOpen part = true) (i : Nat) (hi : i ∈ (s.part part).rings)
    (ha : (s.ring i).awake = true) (hr : (s.ring i).tt.run ≠ .halted) : ((s.reportFault part k).ring i).tt.report = true := by
  have hm : i ∈ ((s.rouse.takeCauses part k).part part).rings := by
    rw [s.rouse.takeCauses_partRings part k h]
    exact hi
  simp only [State.reportFault, if_pos ho]
  rw [State.ring_reportAll, if_pos hm]
  by_cases hk : i = k
  · rw [hk, s.rouse.takeCauses_ring_same part k h]
    rw [hk] at ha hr
    exact Ring.receiveReport_report _ ha hr
  · rw [s.rouse.takeCauses_ring_ne part k h i hk]
    exact Ring.receiveReport_report _ ha hr

omit h in
/-- A hardware fault outside a step is left to be handled. -/
theorem State.reportFault_handling (ho : s.stepOpen part = false)
    (hw : (s.ring k).causes.any (fun c => !c.2.isProgram) = true) : ((s.reportFault part k).part part).handling = true := by
  simp only [State.reportFault, ho, Bool.false_eq_true, if_false, if_pos hw, State.part_setPart]

end

/-- A step whose commit point has not passed is open. -/
theorem State.stepOpen_of (s : State) (part : Nat) (j : StepJob) (hj : (s.part part).stepJob = some j)
    (hc : j.committed = false) : s.stepOpen part = true := by
  simp [State.stepOpen, hj, hc]

/-- Settles O28: FAULT_REPORT brings the ring to its cycle, where the device takes the ring's flags, and then takes its causes,
which leaves the ring's status block. -/
theorem faultReports : Obligations.FaultReports := by
  intro ring cycle part s s1 x hp hc
  have hs1 : settled s ring.val cycle = s1 := rfl
  have hx : (beforePosts s ring.val ((s.ring ring.val).event ring.val cycle (fun _ r => r))).ring ring.val = x := rfl
  clear_value s1 x
  have hexec := exec_faultReport_of ring cycle part s (hs1 ▸ hp) (hs1 ▸ hc)
  have hmem := settled_mem s ring.val cycle
  have hmark := settled_first s ring.val cycle x hx
  have hshow := settled_shows s ring.val cycle
  rw [hs1] at hexec hmem hmark hshow
  refine ⟨s1.reportFault part ring.val, hexec, (s1.reportFault_mem part ring.val hc).trans hmem,
    s1.reportFault_causes part ring.val hc, ?_, ?_, ?_, fun ho hw => s1.reportFault_handling part ring.val ho hw⟩
  case refine_1 => -- the first faulting member
    intro hf
    rw [Ring.gather_unit_flags] at hf
    rw [s1.reportFault_unit part ring.val hc, hmark hf]
    rcases hfirst : x.unit.first with _ | f <;> rcases hm : x.freshSlots.head? with _ | m
    · rw [UnitStat.mark_none, Ring.collected_first, hfirst]
    · exact x.collected.mark_first_of_none _ m (x.collected_first.trans hfirst)
    · rw [UnitStat.mark_none, Ring.collected_first, hfirst]
    · rw [x.collected.mark_first_of_some _ m f (x.collected_first.trans hfirst), Ring.collected_stamp]
  case refine_2 => -- the flags
    intro c hcl p hps
    rw [s1.reportFault_unit part ring.val hc]
    exact hshow c hcl p hps
  case refine_3 => -- the step
    intro j hj hopen
    have ho := s1.stepOpen_of part j hj hopen
    refine ⟨⟨_, by rw [s1.reportFault_stepJob part ring.val hc ho, hj, Option.map_some], ?_⟩,
      s1.reportFault_report part ring.val hc ho⟩
    simp [StepJob.takeCauses, hopen]

end Sys2Proof.Machine

/-! # The vector commands (O9, O10, O12)

Each vector command gives its pipe to one operation in each cluster. What the operations come to on the elements is said once for
the FMA pipes' arithmetic, once for the VC pipe's element-wise work, and once for each command that is neither. -/

namespace Sys2Proof.Machine

/-! ## Commands of a pipe -/

/-- A command that in each cluster sets BUSY where its pipe is busy, and else does `g` (R113). -/
theorem PipeDoes.of {c : Instr} {i : Issue} {slot : Nat} {op g : Nat → Cluster → Cluster}
    (he : ∀ s, exec c s = s.eachOp i slot c op)
    (h : ∀ t x, op t x = if t < x.vec.until_ slot then x.vfault vfBusy (slot - 2) else g t x) : PipeDoes c i slot g := by
  intro s hs
  exact (he s).trans (State.eachOp_of s i slot c _ _ hs (fun x _ => h _ x))

/-- An element-wise command whose settings and operands do not depend on the pipes. -/
theorem PipeDoes.of_elementwise {c : Instr} {i : Issue} {slot lat dw g : Nat} {f : VSlot} {rm : Cluster → Rm}
    {act : Cluster → Nat → Bool} {op op' : Cluster → Nat → Nat → Nat × Fl}
    (he : ∀ s, exec c s = s.eachOp i slot c (fun t x => x.toPipe slot t 1 (fun y =>
      y.elementwise t slot lat f dw (y.count g) (rm y) (act y) (op y))))
    (hop : ∀ x v k d, op { x with vec := v } k d = op' x k d)
    (hrm : ∀ x v, rm { x with vec := v } = rm x := by exact fun _ _ => rfl)
    (hact : ∀ x v, act { x with vec := v } = act x := by exact fun _ _ => rfl) :
    PipeDoes c i slot (fun t x => ({ x with vec := x.vec.occupy slot t 1 } : Cluster).elementwise t slot lat f dw
      (x.count g) (rm x) (act x) (op' x)) := by
  refine .of he (fun t x => ?_)
  have hx : op { x with vec := x.vec.occupy slot t 1 } = op' x := funext fun k => funext (hop x _ k)
  rw [Cluster.toPipe, hrm, hact, hx]
  rfl

/-! ## Arithmetic on the FMA pipes (R115, R118, R119) -/

theorem fmtLat_flt {f : Fmt} {F : FFmt} (h : f = .flt F) (a b n : Nat) : fmtLat f a b n = if F.width = 64 then b else a := by
  rw [h, fmtLat]

/-- Code and flags that arithmetic on sources of one format delivers for element `k`. -/
def Cluster.arithAt (x : Cluster) (f : VSlot) (fl : FFmt → Rm → Bool → Nat → Nat → Nat → Nat → Nat × Fl)
    (it : Nat → Bool → Bool → Nat → Nat → Nat × Fl) (k d : Nat) : Nat × Fl :=
  let src (o : BitVec 6) : Nat := x.r.src o f.sf.width (govern [f.sf.width, f.df.width]) k
  match f.sf with
  | .flt F => fl F (x.rm f.rm f.df.width) (x.sat f) d (src f.src1) (src f.src2) (src f.src3)
  | .int w sg => it w sg (x.sat f) (src f.src1) (src f.src2)

theorem Cluster.arithAt_flt (x : Cluster) {f : VSlot} {F : FFmt} (h : f.sf = .flt F)
    (fl : FFmt → Rm → Bool → Nat → Nat → Nat → Nat → Nat × Fl) (it : Nat → Bool → Bool → Nat → Nat → Nat × Fl) (k d : Nat) :
    x.arithAt f fl it k d =
      let src (o : BitVec 6) : Nat := x.r.src o f.sf.width (govern [f.sf.width, f.df.width]) k
      fl F (x.rm f.rm f.df.width) (x.sat f) d (src f.src1) (src f.src2) (src f.src3) := by
  simp only [Cluster.arithAt, h]

theorem Cluster.arith_eq (x : Cluster) (t : Nat) (p : FmaPipe) (f : VSlot) (lat n : Nat)
    (fl : FFmt → Rm → Bool → Nat → Nat → Nat → Nat → Nat × Fl) (it : Nat → Bool → Bool → Nat → Nat → Nat × Fl) :
    x.arith t p f lat n fl it = x.toPipe p.slot t n (fun y => y.elementwise t p.slot lat f f.df.width
      (y.count (govern [f.sf.width, f.df.width])) (y.rmFor f) (y.active f) (y.arithAt f fl it)) := rfl

/-- An arithmetic command of latency `lat` and interval `n` on an FMA pipe. -/
theorem PipeDoes.of_arith {c : Instr} {i : Issue} {p : FmaPipe} {f : VSlot} {lat lat' n n' : Nat}
    {fl : FFmt → Rm → Bool → Nat → Nat → Nat → Nat → Nat × Fl} {it : Nat → Bool → Bool → Nat → Nat → Nat × Fl}
    {op : Cluster → Nat → Nat → Nat × Fl}
    (he : ∀ s, exec c s = s.eachOp i p.slot c (fun t x => x.arith t p f lat n fl it)) (hlat : lat = lat') (hn : n = n')
    (hop : ∀ x k d, x.arithAt f fl it k d = op x k d) :
    PipeDoes c i p.slot (fun t x => ({ x with vec := x.vec.occupy p.slot t n' } : Cluster).elementwise t p.slot lat' f
      f.df.width (x.count (govern [f.sf.width, f.df.width])) (x.rmFor f) (x.active f) (op x)) := by
  subst hlat hn
  obtain rfl : (fun x k d => x.arithAt f fl it k d) = op := funext fun x => funext fun k => funext (hop x k)
  refine .of he (fun t x => ?_)
  rw [Cluster.arith_eq, Cluster.toPipe]
  rfl

/-- Code and flags of element `k` of a widening product (R118). -/
def Cluster.wideAt (x : Cluster) (f : VSlot) (k d : Nat) : Nat × Fl :=
  let src (o : BitVec 6) : Nat := x.r.src o f.sf.width (govern [f.sf.width, f.df.width]) k
  match f.sf, f.df with
  | .flt F, .flt D => mulVal D (x.rm f.rm f.df.width) (x.sat f) d (F.decode (src f.src1)) (F.decode (src f.src2))
  | .int w sg, .int v sh => intArith v sh false (intVal w sg (src f.src1) * intVal w sg (src f.src2))
  | _, _ => (0, 0)

theorem Cluster.wideAt_flt (x : Cluster) {f : VSlot} {F D : FFmt} (hF : f.sf = .flt F) (hD : f.df = .flt D) (k d : Nat) :
    x.wideAt f k d =
      let src (o : BitVec 6) : Nat := x.r.src o f.sf.width (govern [f.sf.width, f.df.width]) k
      mulVal D (x.rm f.rm f.df.width) (x.sat f) d (F.decode (src f.src1)) (F.decode (src f.src2)) := by
  simp only [Cluster.wideAt, hF, hD]

theorem Cluster.wideAt_int (x : Cluster) {f : VSlot} {w v : Nat} {sg sh : Bool} (hw : f.sf = .int w sg) (hv : f.df = .int v sh)
    (k d : Nat) :
    x.wideAt f k d =
      let src (o : BitVec 6) : Nat := x.r.src o f.sf.width (govern [f.sf.width, f.df.width]) k
      intArith v sh false (intVal w sg (src f.src1) * intVal w sg (src f.src2)) := by
  simp only [Cluster.wideAt, hw, hv]

/-- VWMUL as it issues: an element-wise command of those elements. -/
theorem exec_vwmul_elementwise (i : Issue) (p : FmaPipe) (f : VSlot) (s : State) :
    exec (.vwmul i p f) s = s.eachOp i p.slot (.vwmul i p f) (fun t x => x.toPipe p.slot t 1 (fun y =>
      y.elementwise t p.slot 5 f f.df.width (y.count (govern [f.sf.width, f.df.width])) (y.rmFor f) (y.active f)
        (y.wideAt f))) := rfl

/-! ### Lanes of 32 bits (R105, R119) -/

theorem bits_eq_div_mod (x lo n : Nat) : bits x lo n = x / 2 ^ lo % 2 ^ n := by
  rw [bits, Nat.shiftRight_eq_div_pow]

/-- The four bytes of a lane, the least significant first. -/
theorem lane_bytes (x : Nat) : (List.range 4).map (fun k => bits x (8 * k) 8) =
    [x % 256, x / 2 ^ 8 % 256, x / 2 ^ 16 % 256, x / 2 ^ 24 % 256] := by
  simp [List.range_succ, bits_eq_div_mod]

/-- Settles O9: each command is arithmetic on sources of one format, or an element-wise command of its own, and on the formats
named its elements are those that the statement writes out. -/
theorem vectorArithmetic : Obligations.VectorArithmetic := by
  intro i p f g occ src rm rounds res arith
  refine ⟨?vadd, ?vsub, ?vmul, fun F hF => ⟨?vdiv, ?vsqrt⟩, fun F hF => ⟨?vfma, ?vfms, ?vfnma⟩, fun F D hF hD => ?wide,
    fun w v sg sh hw hv => ?wideInt, ?dot2, fun w sg hw => ?dot4⟩
  case vadd | vsub | vmul => exact .of_arith (fun _ => rfl) rfl rfl (fun _ _ _ => rfl)
  case vdiv | vsqrt => exact .of_arith (fun _ => rfl) rfl (fmtLat_flt hF ..) (fun x _ _ => x.arithAt_flt hF ..)
  case vfma | vfms | vfnma => exact .of_arith (fun _ => rfl) (fmtLat_flt hF ..) rfl (fun x _ _ => x.arithAt_flt hF ..)
  case wide => exact .of_elementwise (exec_vwmul_elementwise i p f) (fun x _ _ _ => x.wideAt_flt hF hD ..)
  case wideInt => exact .of_elementwise (exec_vwmul_elementwise i p f) (fun x _ _ _ => x.wideAt_int hw hv ..)
  case dot2 =>
    refine .of_elementwise (fun _ => rfl) (fun x _ k d => ?_)
    simp only [bits_eq_div_mod, pow_zero, Nat.div_one]
    rfl
  case dot4 =>
    refine .of_elementwise (fun _ => rfl) (fun x _ k d => ?_)
    simp only [lane_bytes, hw]
    rfl

/-! ## Element-wise work of the VC pipe (R110, R114, R115, R117, R120) -/

/-- An element-wise command of latency `lat` on the VC pipe. -/
theorem PipeDoes.of_logic {c : Instr} {i : Issue} {f : VSlot} {lat : Nat} {rm : Cluster → Rm}
    {op : Cluster → Nat → Nat → Nat → Nat → Nat × Fl} {op' : Cluster → Nat → Nat → Nat × Fl}
    (he : ∀ s, exec c s = s.eachOp i 4 c (fun t x => x.logic t lat f (rm x) (op x)))
    (hop : ∀ x k d, op x f.sf.width d (x.r.src f.src1 f.sf.width (govern [f.sf.width, f.df.width]) k)
      (x.r.src f.src2 f.sf.width (govern [f.sf.width, f.df.width]) k) = op' x k d) :
    PipeDoes c i 4 (fun t x => ({ x with vec := x.vec.occupy 4 t 1 } : Cluster).elementwise t 4 lat f f.df.width
      (x.count (govern [f.sf.width, f.df.width])) (rm x) (x.active f) (op' x)) := by
  obtain rfl := funext fun x => funext fun k => funext (hop x k)
  refine .of he (fun t x => ?_)
  rw [Cluster.logic, Cluster.toPipe]
  rfl

/-- Settles O10: but for VSEL, which writes every element, each command is element-wise work on the active elements. -/
theorem vectorLogic : Obligations.VectorLogic := by
  intro i f g occ src rm rounds w each exactly bits2 shift fun1 extreme
  have bit2 {c : Instr} {op : Nat → Nat → Nat} (he : ∀ s, exec c s = s.eachOp i 4 c (fun t x => x.vbit t f op)) :
      PipeDoes c i 4 (bits2 op) := .of_logic he (fun _ _ _ => rfl)
  have shifted {c : Instr} {op : Nat → Nat → Nat → Nat} (he : ∀ s, exec c s = s.eachOp i 4 c (fun t x => x.vshift t f op)) :
      PipeDoes c i 4 (shift (op w)) := .of_logic he (fun _ _ _ => rfl)
  refine ⟨bit2 (fun _ => rfl), bit2 (fun _ => rfl), bit2 (fun _ => rfl),
    bit2 (op := fun a _ => 2 ^ f.sf.width - 1 - a) (fun _ => rfl),
    shifted (op := shlOp) (fun _ => rfl), shifted (op := shrOp) (fun _ => rfl), shifted (op := sraOp) (fun _ => rfl),
    ?vmin, ?vmax, ?vsel, ?vcvt, ?vexp2, ?vrcp⟩
  case vsel => exact .of_elementwise (fun _ => rfl) (fun _ _ _ _ => rfl)
  all_goals exact .of_logic (fun _ => rfl) (fun _ _ _ => rfl)

/-! ## Comparisons (R110) -/

/-- Whether the condition of a comparison holds for element `k`, and its flags. -/
def Cluster.cmpAt (x : Cluster) (f : VSlot) (k : Nat) : Bool × Fl :=
  let src (o : BitVec 6) : Nat := x.r.src o f.sf.width (govern [f.sf.width]) k
  match f.sf with
  | .flt F => cmpOp F (f.src3.toNat % 8) (src f.src1) (src f.src2)
  | .int w sg =>
    let a := intVal w sg (src f.src1)
    let b := intVal w sg (src f.src2)
    (cmpHolds (f.src3.toNat % 8) (if a < b then -1 else if b < a then 1 else 0) false, 0)

theorem Cluster.cmpAt_flt (x : Cluster) {f : VSlot} {F : FFmt} (h : f.sf = .flt F) (k : Nat) :
    x.cmpAt f k =
      let src (o : BitVec 6) : Nat := x.r.src o f.sf.width (govern [f.sf.width]) k
      cmpOp F (f.src3.toNat % 8) (src f.src1) (src f.src2) := by
  simp only [Cluster.cmpAt, h]

/-- The width of the format is that of the elements that are compared. -/
theorem Cluster.cmpAt_int (x : Cluster) {f : VSlot} {w : Nat} {sg : Bool} (h : f.sf = .int w sg) (k : Nat) :
    x.cmpAt f k =
      let a := intVal w sg (x.r.src f.src1 w (govern [f.sf.width]) k)
      let b := intVal w sg (x.r.src f.src2 w (govern [f.sf.width]) k)
      (cmpHolds (f.src3.toNat % 8) (if a < b then -1 else if b < a then 1 else 0) false, 0) := by
  simp only [Cluster.cmpAt, h, Fmt.width]

/-- What a comparison makes due in a cluster where `one` says whether the condition holds for an element, and its flags: the bits
of the active elements alone, and the flags of all of them. -/
def Cluster.compared (x : Cluster) (t : Nat) (f : VSlot) (one : Nat → Bool × Fl) : Cluster :=
  let n := x.count (govern [f.sf.width])
  let act := (List.range n).filter (x.active f)
  (x.draws (x.rmFor f) n).2.deliver t 4 2
    (if act.isEmpty then [] else [.mreg (f.dst.toNat % 8) (BitVec.ofNat 16 (act.foldl (fun m k => m ||| 2 ^ k) 0))
      (BitVec.ofNat 16 (act.foldl (fun m k => m ||| (if (one k).1 then 2 ^ k else 0)) 0))])
    (act.foldl (fun a k => a ||| (one k).2) 0)

theorem Cluster.vcmp_eq (x : Cluster) (t : Nat) (f : VSlot) :
    x.vcmp t f = x.toPipe 4 t 1 (fun y => y.compared t f (y.cmpAt f)) := by
  simp only [Cluster.vcmp, List.foldl_map, List.isEmpty_map]
  rfl

/-! ## Accumulator reads (R125) -/

/-- What Table 5.7 forbids of a pair: a rounding mode, and four registers that go beyond v31. -/
theorem pair_forbidden_iff (pair : Bool) (rm : BitVec 3) (dst : Nat) :
    (pair = true ∧ rm ≠ 0) ∨ (pair = true ∧ 32 < dst + 4) ↔ pair = true ∧ (rm ≠ 0 ∨ 28 < dst) := by
  rw [← and_or_left, show 32 < dst + 4 ↔ 28 < dst by omega]

/-- Settles O12: each command is unfolded once, on the format that the statement names; a comparison's elements are those of
`Cluster.cmpAt`, and what forbids a pair to VACC.RD is said in the statement's words. -/
theorem vectorReductions : Obligations.VectorReductions := by
  intro i f runs occ w g
  refine ⟨.of (fun _ => rfl) (fun t x => ?vcmp),
    fun F hF => ⟨.of (fun _ => rfl) (fun t x => ?vqblk), .of (fun _ => rfl) (fun t x => ?vrsum)⟩,
    fun F hF => .of (fun _ => rfl) (fun t x => ?vdqblk), .of (fun _ => rfl) (fun t x => ?vaccRd)⟩
  case vcmp =>
    rw [Cluster.vcmp_eq, Cluster.toPipe]
    refine if_congr Iff.rfl rfl (congrArg (Cluster.compared _ t f) (funext fun k => ?_))
    split
    next F hF => exact Cluster.cmpAt_flt _ hF k
    next w sg hw => exact Cluster.cmpAt_int _ hw k
  case vqblk =>
    simp only [Cluster.vqblk, hF, Cluster.toPipe]
    rfl
  case vrsum =>
    simp only [Cluster.vrsum, hF, Cluster.toPipe]
    rfl
  case vdqblk =>
    simp only [Cluster.vdqblk, hF, Cluster.toPipe]
    rfl
  case vaccRd =>
    simp only [Cluster.vaccRd, Cluster.toPipe, pair_forbidden_iff]
    rfl

end Sys2Proof.Machine

/-! # The matrix slot (O14, O15, O16)

Inside a batch window every command of the slot sets BATCH (R94); outside, each command of Table 4.8 has one equation per case. -/

namespace Sys2Proof.Machine

@[simp] theorem bits_zero_lo (x n : Nat) : bits x 0 n = x % 2 ^ n := rfl

/-! ## Inside and outside a batch window (R94) -/

@[simp] theorem Cluster.matrixOp_closed (c : Cluster) (f : Cluster → Cluster) (h : c.bat.open_ = false) :
    c.matrixOp f = f c := by
  rw [Cluster.matrixOp, h, if_neg Bool.false_ne_true]

@[simp] theorem Cluster.matrixOp_open (c : Cluster) (f : Cluster → Cluster) (h : c.bat.open_ = true) :
    c.matrixOp f = c.mfault mfBatch := by
  rw [Cluster.matrixOp, if_pos h]

section
variable {c : Instr} {i : Issue} {k : Nat} {op : Nat → Cluster → Cluster}
  (he : ∀ s, exec c s = s.eachOp i k c (fun t x => x.matrixOp (op t)))
include he

/-- A command of the matrix slot does its own work where no batch window is open. -/
theorem ClusterDoes.outside_window {ok : Nat → Cluster → Prop} {g : Nat → Cluster → Cluster}
    (h : ∀ t x, ok t x → op t x = g t x) : ClusterDoes c i k (fun t x => x.bat.open_ = false ∧ ok t x) g :=
  .of _ _ _ _ _ _ he (fun t x ⟨hw, hok⟩ => (x.matrixOp_closed _ hw).trans (h t x hok))

/-- A command of the matrix slot sets BATCH where a batch window is open. -/
theorem ClusterDoes.inside_window : ClusterDoes c i k (fun _ x => x.bat.open_ = true) (fun _ x => x.mfault 8) :=
  .of _ _ _ _ _ _ he (fun _ x hw => x.matrixOp_open _ hw)

end

/-! ## The array's state (R88, R89) -/

section
variable (c : Cluster) (t : Nat)

theorem Cluster.mstart_off (h : c.mx.st = .off) :
    c.mstart t = { c with mx := { c.mx with st := .rampup, step := 1, rampNext := t + 8 } } := by
  rw [Cluster.mstart, h]

theorem Cluster.mstart_rampdn (h : c.mx.st = .rampdn) :
    c.mstart t = { c with mx := { c.mx with st := .rampup, rampNext := t + 8 } } := by
  rw [Cluster.mstart, h]

theorem Cluster.mstart_running (h : c.mx.st = .on ∨ c.mx.st = .rampup) : c.mstart t = c.mfault mfOrder := by
  rcases h with h | h <;> rw [Cluster.mstart, h]

theorem Cluster.mstop_on (h : c.mx.st = .on) :
    c.mstop t = { c with mx := { c.mx with st := .rampdn, step := 6, rampNext := t + 8 } } := by
  rw [Cluster.mstop, h]

theorem Cluster.mstop_rampup (h : c.mx.st = .rampup) :
    c.mstop t = { c with mx := { c.mx with st := .rampdn, rampNext := t + 8 } } := by
  rw [Cluster.mstop, h]

theorem Cluster.mstop_stopped (h : c.mx.st = .off ∨ c.mx.st = .rampdn) : c.mstop t = c.mfault mfOrder := by
  rcases h with h | h <;> rw [Cluster.mstop, h]

/-! ## Weights (R81, R82) -/

theorem Cluster.mldw_free (addr : Nat) (h : c.mx.loading = false) :
    c.mldw t addr = ({ c with mx := { c.mx with loading := true } } : Cluster).due t t 1 (.tile (bits addr 5 16 * 32)) := by
  rw [Cluster.mldw, h, if_neg Bool.false_ne_true]

theorem Cluster.mldw_loading (addr : Nat) (h : c.mx.loading = true) : c.mldw t addr = c.mfault mfOrder := by
  rw [Cluster.mldw, if_pos h]

theorem Cluster.mswap_ready (h : c.mx.shadow.valid = true ∧ c.mx.loading = false) :
    c.mswap = { c with mx := { c.mx with front := c.mx.shadow, shadow := c.mx.front } } := by
  simp [Cluster.mswap, h]

theorem Cluster.mswap_unready (h : c.mx.shadow.valid = false ∨ c.mx.loading = true) : c.mswap = c.mfault mfOrder := by
  rcases h with h | h <;> simp [Cluster.mswap, h]

/-- The address of a 32-byte descriptor within 2 MiB. -/
theorem descriptor_addr (x : Nat) : bits (x % 2 ^ 21) 5 16 * 32 = x % 2 ^ 21 / 32 * 32 := by
  rw [bits_eq_div_mod]
  omega

/-! ## Activations and read-outs (R83, R86, R90) -/

section
variable (sgna ovw : Bool) (ptr : BitVec 64) (word : Nat)

theorem Cluster.mmul_ready (hon : c.mx.st = .on) (hv : c.mx.front.valid = true)
    (ha : ptr.toNat % 2 ^ 21 % max 1 (c.mx.front.mode.ewidth / 8) = 0) :
    c.mmul t sgna ovw ptr word = ({ c with mx := { c.mx with busy := c.mx.busy + 1 } } : Cluster).due (t + 1) t 1
      (.mread c.mx.front sgna ovw ptr (word % 65536) (c.mx.front.mode.joinLat - 1)) := by
  rw [Cluster.mmul, if_pos ⟨hon, hv⟩]
  exact if_neg (not_not_intro ha)

theorem Cluster.mmul_misaligned (hon : c.mx.st = .on) (hv : c.mx.front.valid = true)
    (ha : ptr.toNat % 2 ^ 21 % max 1 (c.mx.front.mode.ewidth / 8) ≠ 0) :
    c.mmul t sgna ovw ptr word = c.mfault mfAlign := by
  rw [Cluster.mmul, if_pos ⟨hon, hv⟩]
  exact if_pos ha

theorem Cluster.mmul_unready (h : c.mx.st ≠ .on ∨ c.mx.front.valid = false) :
    c.mmul t sgna ovw ptr word = c.mfault mfOrder := by
  rw [Cluster.mmul, if_neg]
  rintro ⟨hon, hv⟩
  simp [hon, hv] at h

end

end

/-- Settles O14: outside a batch window a command of the matrix slot does what its equation for the array's state says; the
cases of MWR are the branches of its one definition, once the mode's code is known. -/
theorem matrixCommands : Obligations.MatrixCommands := by
  intro i f w sd m free order mx
  refine ⟨.outside_window (fun _ => rfl) (fun t x h => x.mstart_off t h),
    .outside_window (fun _ => rfl) (fun t x h => x.mstart_rampdn t h),
    .outside_window (fun _ => rfl) (fun t x h => x.mstart_running t h),
    .outside_window (fun _ => rfl) (fun t x h => x.mstop_on t h),
    .outside_window (fun _ => rfl) (fun t x h => x.mstop_rampup t h),
    .outside_window (fun _ => rfl) (fun t x h => x.mstop_stopped t h),
    .outside_window (fun _ => rfl) (fun t x h => ?mldw),
    .outside_window (fun _ => rfl) (fun t x h => x.mldw_loading t _ h),
    .outside_window (fun _ => rfl) (fun _ x h => x.mswap_ready h),
    .outside_window (fun _ => rfl) (fun _ x h => x.mswap_unready h),
    .outside_window (fun _ => rfl) (fun t x h => ?mmul),
    .outside_window (fun _ => rfl) (fun t x h => x.mmul_unready t _ _ _ _ h),
    .outside_window (fun _ => rfl) (fun t x ⟨hon, hv, ha⟩ => x.mmul_misaligned t _ _ _ _ hon hv ha),
    fun hm => ⟨.outside_window (fun _ => rfl) (fun t x ⟨hfree, ha⟩ => ?mwr),
      .outside_window (fun _ => rfl) (fun t x hbusy => ?overlap),
      .outside_window (fun _ => rfl) (fun t x ⟨hfree, ha⟩ => ?misaligned)⟩⟩
  case mldw => rw [x.mldw_free t _ h, bits_zero_lo, descriptor_addr]
  case mmul =>
    obtain ⟨hon, hv, ha⟩ := h
    rw [x.mmul_ready t _ _ _ _ hon hv ha, Nat.mod_mod, bits_zero_lo]
  case mwr =>
    simp only [hm]
    exact (if_neg (Nat.not_lt.mpr hfree)).trans (if_neg (not_not_intro ha))
  case overlap =>
    simp only [hm]
    exact if_pos hbusy
  case misaligned =>
    simp only [hm]
    exact (if_neg (Nat.not_lt.mpr hfree)).trans (if_pos ha)

/-! ## MBR (R92, R93, R100) -/

/-- The batch is triggered in the next ring cycle where the request carries the flush bit or fills the queue. -/
def Cluster.queued (c : Cluster) (t : Nat) (flush : Bool) : Cluster :=
  if flush || decide (c.batchCap ≤ c.bat.queue.length) then c.due (t + 1) t 1 .bTrigger else c

/-- The row request of an `MBR`. -/
def Cluster.rowReq (c : Cluster) (t : Nat) (ra rb : Fin 32) : RowReq :=
  ⟨c.r.getS ra.val, (c.r.getS rb.val).toNat % 2 ^ 16, t⟩

section
variable (c : Cluster) (t : Nat) (ra rb : Fin 32) (flush : Bool)

theorem Cluster.mbr_disabled (hq : (c.fireBatches t).bat.queue = []) (he : (c.fireBatches t).bat.en = false) :
    c.mbr t ra rb flush = (c.fireBatches t).mfault mfBatch := by
  simp [Cluster.mbr, hq, he]

theorem Cluster.mbr_more (hq : (c.fireBatches t).bat.queue ≠ []) :
    c.mbr t ra rb flush = Cluster.queued { c.fireBatches t with bat := { (c.fireBatches t).bat with
      queue := (c.fireBatches t).bat.queue ++ [(c.fireBatches t).rowReq t ra rb] } } t flush := by
  simp only [Cluster.mbr, List.isEmpty_eq_false_iff.mpr hq, Bool.false_and, if_neg Bool.false_ne_true]
  rfl

theorem Cluster.mbr_first (hq : (c.fireBatches t).bat.queue = []) (he : (c.fireBatches t).bat.en = true) :
    c.mbr t ra rb flush =
      let x := c.fireBatches t
      Cluster.queued (({ x with bat := { x.bat with
        queue := [x.rowReq t ra rb], first := t, qtoken := x.bat.token, qlimit := x.bat.limit
        qdesc := x.bat.desc } } : Cluster).due (t + x.bat.limit) t 1 (.bLimit t)) t flush := by
  simp only [Cluster.mbr, hq, he, List.isEmpty_nil, Bool.not_true, Bool.and_false, if_neg Bool.false_ne_true, if_true]
  rfl

end

/-- Settles O15: inside a window every command is refused alike; an MBR takes one of three ways by the queue and the batcher as
the triggers of its ring cycle leave them. -/
theorem batchWindow : Obligations.BatchWindow := by
  intro i f w sd ra rb flush inside batch req next mbr
  refine ⟨.inside_window (fun _ => rfl), .inside_window (fun _ => rfl), .inside_window (fun _ => rfl),
    .inside_window (fun _ => rfl), .inside_window (fun _ => rfl), .inside_window (fun _ => rfl),
    .of _ _ _ _ _ _ (fun _ => rfl) (fun t x ⟨hq, he⟩ => x.mbr_disabled t ra rb flush hq he),
    .of _ _ _ _ _ _ (fun _ => rfl) (fun t x hq => x.mbr_more t ra rb flush hq),
    .of _ _ _ _ _ _ (fun _ => rfl) (fun t x ⟨hq, he⟩ => x.mbr_first t ra rb flush hq he)⟩


/-! ## The ramp's clock (R89) -/

/-- The array as `MSTART` leaves it in ring cycle `t`, but for the step it makes from OFF. -/
def Matrix.rampingUp (x : Matrix) (t : Nat) : Matrix := { x with st := .rampup, rampNext := t + 8 }

/-- The array as `MSTOP` leaves it in ring cycle `t`, but for the step it makes from ON. -/
def Matrix.rampingDown (x : Matrix) (t : Nat) : Matrix := { x with st := .rampdn, rampNext := t + 8 }

section
variable (x : Matrix) (u f n : Nat)

/-- Nothing changes before the ring cycle of the next step. -/
theorem Matrix.rampAux_early (h : u < x.rampNext) : Matrix.rampAux u f x = x := by
  cases f with
  | zero => rfl
  | succ f => rw [Matrix.rampAux, if_pos h]

/-- A ramp to ON adds one step every 8 ring cycles as long as the array has fewer than seven. -/
theorem Matrix.rampAux_up (hs : x.st = .rampup) (hf : n ≤ f) (hn : x.step + n < 7) (hu : x.rampNext + 8 * n ≤ u + 8) :
    Matrix.rampAux u f x = Matrix.rampAux u (f - n) { x with step := x.step + n, rampNext := x.rampNext + 8 * n } := by
  induction n generalizing x f with
  | zero => rfl
  | succ n ih =>
    obtain ⟨f, rfl⟩ : ∃ g, f = g + 1 := ⟨f - 1, by omega⟩
    rw [Matrix.rampAux, if_neg (by omega), hs, Nat.succ_sub_succ]
    dsimp only
    rw [if_neg (by omega), ih _ _ rfl (by omega) (by dsimp only; omega) (by dsimp only; omega)]
    dsimp only
    rw [Nat.add_assoc, Nat.add_assoc, Nat.add_comm 1 n, Nat.mul_succ, Nat.add_comm 8]

/-- The seventh step of a ramp to ON. -/
theorem Matrix.rampAux_on (hs : x.st = .rampup) (hf : 0 < f) (h6 : 6 ≤ x.step) (hu : x.rampNext ≤ u) :
    Matrix.rampAux u f x = { x with step := 7, st := .on } := by
  obtain ⟨f, rfl⟩ : ∃ g, f = g + 1 := ⟨f - 1, by omega⟩
  rw [Matrix.rampAux, if_neg (by omega), hs]
  exact if_pos (Nat.succ_le_succ h6)

/-- A ramp to OFF takes one step every 8 ring cycles as long as the array keeps one. -/
theorem Matrix.rampAux_down (hs : x.st = .rampdn) (hf : n ≤ f) (hn : n < x.step) (hu : x.rampNext + 8 * n ≤ u + 8) :
    Matrix.rampAux u f x = Matrix.rampAux u (f - n) { x with step := x.step - n, rampNext := x.rampNext + 8 * n } := by
  induction n generalizing x f with
  | zero => rfl
  | succ n ih =>
    obtain ⟨f, rfl⟩ : ∃ g, f = g + 1 := ⟨f - 1, by omega⟩
    rw [Matrix.rampAux, if_neg (by omega), hs, Nat.succ_sub_succ]
    dsimp only
    rw [if_neg (by omega), ih _ _ rfl (by omega) (by dsimp only; omega) (by dsimp only; omega)]
    dsimp only
    rw [Nat.sub_sub, Nat.add_assoc, Nat.add_comm 1 n, Nat.mul_succ, Nat.add_comm 8]

/-- The last step of a ramp to OFF. -/
theorem Matrix.rampAux_off (hs : x.st = .rampdn) (hf : 0 < f) (h1 : x.step ≤ 1) (hu : x.rampNext ≤ u) :
    Matrix.rampAux u f x = { x with step := 0, st := .off } := by
  obtain ⟨f, rfl⟩ : ∃ g, f = g + 1 := ⟨f - 1, by omega⟩
  rw [Matrix.rampAux, if_neg (by omega), hs]
  exact if_pos h1

end

section
variable (x : Matrix) (t : Nat)

/-- The array between the `n`-th and the next step of a ramp to ON. -/
theorem Matrix.ramp_rampingUp (n j : Nat) (hn : n < 7 - x.step) (hj : j < 8) :
    (x.rampingUp t).ramp (t + 8 * n + j) =
      { x.rampingUp t with step := x.step + n, rampNext := t + 8 * (n + 1) } := by
  have hnext : t + 8 + 8 * n = t + 8 * (n + 1) := by omega
  rw [Matrix.ramp, Matrix.rampAux_up _ _ _ n rfl (by omega) (by dsimp only [rampingUp]; omega)
      (by dsimp only [rampingUp]; omega),
    Matrix.rampAux_early _ _ _ (by dsimp only [rampingUp]; omega)]
  simp only [rampingUp, hnext]

/-- A ramp to ON with `k` steps clocked ends 8 × (7 − k) ring cycles later. -/
theorem Matrix.ramp_rampingUp_on (u : Nat) (h6 : x.step ≤ 6) (hu : t + 8 * (7 - x.step) ≤ u) :
    ((x.rampingUp t).ramp u).st = .on ∧ ((x.rampingUp t).ramp u).step = 7 := by
  rw [Matrix.ramp, Matrix.rampAux_up _ _ _ (6 - x.step) rfl (by omega)
      (by dsimp only [rampingUp]; omega) (by dsimp only [rampingUp]; omega),
    Matrix.rampAux_on _ _ _ rfl (by omega) (by dsimp only [rampingUp]; omega) (by dsimp only [rampingUp]; omega)]
  exact ⟨rfl, rfl⟩

/-- The array between the `n`-th and the next step of a ramp to OFF. -/
theorem Matrix.ramp_rampingDown (n j : Nat) (h6 : x.step ≤ 6) (hn : n < x.step) (hj : j < 8) :
    (x.rampingDown t).ramp (t + 8 * n + j) =
      { x.rampingDown t with step := x.step - n, rampNext := t + 8 * (n + 1) } := by
  have hnext : t + 8 + 8 * n = t + 8 * (n + 1) := by omega
  rw [Matrix.ramp, Matrix.rampAux_down (x.rampingDown t) _ _ n rfl (by omega) hn (by dsimp only [rampingDown]; omega),
    Matrix.rampAux_early _ _ _ (by dsimp only [rampingDown]; omega)]
  simp only [rampingDown, hnext]

/-- A ramp to OFF with `k` steps clocked ends 8 × k ring cycles later. -/
theorem Matrix.ramp_rampingDown_off (u : Nat) (h1 : 1 ≤ x.step) (h6 : x.step ≤ 6) (hu : t + 8 * x.step ≤ u) :
    ((x.rampingDown t).ramp u).st = .off ∧ ((x.rampingDown t).ramp u).step = 0 := by
  rw [Matrix.ramp, Matrix.rampAux_down _ _ _ (x.step - 1) rfl (by omega)
      (by dsimp only [rampingDown]; omega) (by dsimp only [rampingDown]; omega),
    Matrix.rampAux_off _ _ _ rfl (by omega) (by dsimp only [rampingDown]; omega) (by dsimp only [rampingDown]; omega)]
  exact ⟨rfl, rfl⟩

end

/-- `CL_MSTAT` reads STATE in bits 1 and 0 and STEP in bits 4 to 2 (R100). -/
theorem Cluster.readReg_mstat (c : Cluster) (u : Nat) (o : Bool) (h : c.mx.step < 8) :
    c.readReg u o 0x500 % 32 = c.mx.st.code + 4 * c.mx.step := by
  have hcode : c.mx.st.code < 4 := by cases c.mx.st <;> decide
  simp only [Cluster.readReg, Nat.reduceLT, Nat.reduceLeDiff, if_false, false_and]
  omega

/-- Settles O16: the commands are those of O14, the clock steps are counted by induction on them, and the register's fields are
read off. -/
theorem rampTiming : Obligations.RampTiming := by
  unfold Obligations.RampTiming
  intro up down ramps
  refine ⟨fun i => ⟨.outside_window (fun _ => rfl) (fun t c h => c.mstart_rampdn t h),
      .outside_window (fun _ => rfl) (fun t c h => c.mstop_rampup t h),
      .outside_window (fun _ => rfl) (fun t c h => c.mstart_off t h),
      .outside_window (fun _ => rfl) (fun t c h => c.mstop_on t h)⟩,
    fun x t h1 h6 => ⟨fun n j hn hj => x.ramp_rampingUp t n j hn hj, fun u hu => x.ramp_rampingUp_on t u h6 hu,
      fun n j hn hj => x.ramp_rampingDown t n j h6 hn hj, fun u hu => x.ramp_rampingDown_off t u h1 h6 hu⟩,
    fun c t u o h => ⟨Cluster.readReg_mstat _ u o h, Cluster.readReg_mstat _ u o h⟩⟩

end Sys2Proof.Machine

/-! # The start and the end of a ring cycle (O17)

At the start of a ring cycle every result due by then has landed: landing takes them off a cluster's agenda, and what the ring
takes from its clusters leaves their agendas. -/

namespace Sys2Proof.Machine

/-! ## The agenda -/

@[simp] theorem mem_insDue (d e : Due) (l : List Due) : e ∈ insDue d l ↔ e = d ∨ e ∈ l := by
  induction l with
  | nil => simp [insDue]
  | cons x l ih =>
    rw [insDue]
    split
    · rw [List.mem_cons]
    · rw [List.mem_cons, List.mem_cons, ih, or_left_comm]

/-- No result due by ring cycle `t` waits in the cluster. -/
def Cluster.Landed (t : Nat) (c : Cluster) : Prop := ∀ d ∈ c.agenda, d.at_ ≤ t → d.act.phase ≠ 0

theorem Cluster.Landed.congr {t : Nat} {c c' : Cluster} (h : c.Landed t) (ha : c'.agenda = c.agenda) : c'.Landed t := by
  rwa [Cluster.Landed, ha]

/-- Work other than a result may become due. -/
theorem Cluster.Landed.due {t : Nat} {c : Cluster} (h : c.Landed t) (u issued slot : Nat) (a : Act) (ha : a.phase ≠ 0) :
    (c.due u issued slot a).Landed t := by
  intro d hd
  rcases (mem_insDue _ _ _).mp hd with rfl | hd
  · exact fun _ => ha
  · exact h d hd

/-! ## Landing -/

@[simp] theorem Cluster.writeReg_agenda (c : Cluster) (off : Nat) (v : BitVec 32) : (c.writeReg off v).agenda = c.agenda := by
  unfold Cluster.writeReg
  dsimp only
  split
  · rfl
  · split <;> rfl

@[simp] theorem Cluster.haltEngine_agenda (c : Cluster) (k : Nat) : (c.haltEngine k).agenda = c.agenda := by
  rw [Cluster.haltEngine]
  split <;> rfl

/-- Of what a result does when it lands, only a write of `CL_TRSUB` makes work due: the copy of the descriptor (R217). -/
theorem Cluster.Landed.land {t : Nat} {c : Cluster} (h : c.Landed t) (u : Nat) (a : Act) : (c.land u a).Landed t := by
  cases a with
  | swrs off v bidx =>
    rw [Cluster.land, Cluster.swrs]
    split
    · exact h.due _ _ _ _ (show (2 : Nat) ≠ 0 by decide)
    · split
      · exact h
      · exact h.congr (c.writeReg_agenda off v)
  | sthalt k => exact h.congr (c.haltEngine_agenda k)
  | _ => exact h

/-- After landing no result due by then waits. -/
theorem Cluster.landAll_landed (c : Cluster) (t : Nat) : (c.landAll t).Landed t := by
  rw [Cluster.landAll]
  refine List.foldlRecOn _ _ ?_ (fun c h d _ => h.land d.at_ d.act)
  intro d hd hle
  simpa [hle] using (List.mem_filter.mp hd).2

/-! ## What the ring takes from its clusters -/

theorem Ring.mem_each {r : Ring} {f : Nat → Cluster → Cluster} {c : Cluster} (h : c ∈ (r.each f).cl) :
    ∃ k, ∃ c' ∈ r.cl, c = f k c' := by
  obtain ⟨⟨k, c'⟩, hp, rfl⟩ := List.mem_map.mp h
  exact ⟨k, c', (List.of_mem_zip hp).2, rfl⟩

@[simp] theorem Ring.submit_cl (r : Ring) (t bidx : Nat) (desc : List Byte) : (r.submit t bidx desc).cl = r.cl := by
  simp only [Ring.submit, apply_ite Ring.cl, ite_self]

@[simp] theorem Ring.foldl_submit_cl (r : Ring) (u : Nat) (l : List (Nat × List Byte)) :
    (l.foldl (fun r p => r.submit u p.1 p.2) r).cl = r.cl := by
  induction l generalizing r with
  | nil => rfl
  | cons p l ih => exact (ih _).trans (r.submit_cl u p.1 p.2)

@[simp] theorem Ring.gather_agendas (r : Ring) (u : Nat) : (r.gather u).cl.map (·.agenda) = r.cl.map (·.agenda) := by
  simp only [Ring.gather]
  split
  · rfl
  · exact r.map_each (fun _ c => { c with fresh := false }) (·.agenda) (fun _ _ => rfl)

@[simp] theorem Ring.harvest_agendas (r : Ring) (u : Nat) : (r.harvest u).cl.map (·.agenda) = r.cl.map (·.agenda) := by
  rw [Ring.harvest, Ring.gather_agendas]
  exact (Ring.map_each _ (fun _ c => { c with subs := [], optw := none }) (·.agenda) (fun _ _ => rfl)).trans
    (congrArg _ (r.foldl_submit_cl u _))

@[simp] theorem Ring.pass_cl (r : Ring) (t : Nat) : (r.pass t).cl = r.cl := rfl

/-- At the start of a ring cycle no result due by then waits in any cluster (R111, R155). -/
theorem Ring.settle_landed (r : Ring) (ring t : Nat) (c : Cluster) (hc : c ∈ (r.settle ring t).cl) : c.Landed t := by
  have ha := List.mem_map_of_mem (f := (·.agenda)) hc
  rw [Ring.settle, Ring.pass_cl, Ring.harvest_agendas] at ha
  obtain ⟨c', hc', hagenda⟩ := List.mem_map.mp ha
  obtain ⟨_, c0, _, rfl⟩ := Ring.mem_each hc'
  exact (c0.landAll_landed t).congr hagenda.symm

/-! ## Events of a ring -/

/-- An event of an awake ring, as a command. -/
theorem State.ringEvent_of (s : State) (i : Issue) (f : Nat → Ring → Ring) (h : (s.ring i.ring.val).awake = true) :
    s.ringEvent i f = .next (afterRing s i.ring.val (f (cycleAt s i) (settledRing s i))) := by
  rw [State.ringEvent, s.event_of i f h]

theorem Matrix.checks_of (x : Matrix) (col : Nat) (hs : col < 12 * x.step) (hb : x.bypass ≠ some (col / 7))
    (hn : x.narrow = true → col < 77) : x.checks col = true := by
  simp only [Matrix.checks, Bool.and_eq_true, decide_eq_true_eq, bne_iff_ne, Bool.not_eq_true', Bool.and_eq_false_imp,
    decide_eq_false_iff_not, Nat.not_le]
  exact ⟨⟨hs, hb⟩, hn⟩

/-- A column check mismatch in an awake ring acts on the cluster of that ring. -/
theorem exec_columnCheckMismatch_of (cl : Fin 4096) (cycle : Nat) (col : Fin 84) (s : State)
    (h : (s.ring (cl.val / 16)).awake = true) :
    let n := cl.val / 16
    let q := (s.ring n).settle n (max cycle (s.ring n).now)
    exec (.columnCheckMismatch cl cycle col) s =
      .next (afterRing s n (q.put (cl.val % 16) ((q.get (cl.val % 16)).colchk col.val))) := by
  intro n q
  rw [exec_columnCheckMismatch, execColumnCheckMismatch]
  rw [s.event_of ⟨⟨n, by omega⟩, cycle⟩ _ h]
  rfl

/-- A mismatch of a column whose check runs sets COLCHK and raises its cause (R95). -/
theorem Cluster.colchk_of (c : Cluster) (col : Nat) (h : c.mx.checks col = true) :
    c.colchk col = { c with
      mx := { c.mx with fault := c.mx.fault ||| 4, col := if c.mx.fault &&& 4 = 0 then col else c.mx.col }
      flt := c.flt ++ [.colchk col]
      fresh := true } := by
  rw [Cluster.colchk, if_pos h]
  rfl

/-- Settles O17: each event brings the ring to the start of its ring cycle, or finishes the cycle, and nothing else. -/
theorem ringCycleEvents : Obligations.RingCycleEvents := by
  intro i cl col s k r
  refine ⟨fun ha => ?_, ?_⟩
  · have start {c : Instr} (he : exec c s = s.ringEvent i (fun _ r => r)) : exec c s = .next (afterRing s k r) :=
      he.trans (s.ringEvent_of i _ ha)
    have finish {c : Instr} (he : exec c s = s.ringEvent i (fun t r => r.finish i.ring t)) :
        exec c s = .next (afterRing s k (r.finish k (cycleAt s i))) := he.trans (s.ringEvent_of i _ ha)
    exact ⟨⟨_, start rfl, start rfl, rfl, fun c hc => Ring.settle_landed _ _ _ c hc⟩,
      finish rfl, finish rfl, finish rfl, finish rfl⟩
  · intro n q c ha hs hb hn
    have hexec := exec_columnCheckMismatch_of cl i.cycle col s ha
    have hcol := c.colchk_of col.val (c.mx.checks_of col.val hs hb hn)
    exact hexec.trans (congrArg (fun x => Host.Outcome.next (afterRing s n (q.put (cl.val % 16) x))) hcol)

end Sys2Proof.Machine

/-! # Landing (O4)

Results land in the order of the agenda, which is that of R112; each writes one register and leaves the rest. -/

namespace Sys2Proof.Machine

/-! ## Registers -/

section
variable (r : Regs) (i k : Nat)

theorem Regs.getS_setS (v : BitVec 64) (hk : k < 32) :
    (r.setS i v).getS k = if k = i ∧ k ≠ 0 then v else r.getS k := by
  unfold Regs.setS
  split
  · by_cases h0 : i = 0
    · rw [if_pos h0, if_neg (by omega)]
    · by_cases hi : i = k
      · subst hi
        simp [Regs.getS, h0, hk]
      · simp [Regs.getS, h0, hk, hi, Ne.symm hi]
  · rw [if_neg (by omega)]

theorem Regs.getV_setV (mask v : BitVec 128) (hk : k < 32) :
    (r.setV i mask v).getV k = if k = i then (r.getV k &&& ~~~mask) ||| (v &&& mask) else r.getV k := by
  unfold Regs.setV
  split
  · by_cases hi : i = k
    · subst hi
      simp [Regs.getV, hk]
    · simp [Regs.getV, hk, hi, Ne.symm hi]
  · rw [if_neg (by omega)]

theorem Regs.getM_setM (mask v : BitVec 16) (hk : k < 8) :
    (r.setM i mask v).getM k = if k = i then (r.getM k &&& ~~~mask) ||| (v &&& mask) else r.getM k := by
  unfold Regs.setM
  split
  · by_cases hi : i = k
    · subst hi
      simp [Regs.getM, hk]
    · simp [Regs.getM, hk, hi, Ne.symm hi]
  · rw [if_neg (by omega)]

theorem Regs.setS_frame (v : BitVec 64) :
    (r.setS i v).v = r.v ∧ (r.setS i v).m = r.m ∧ (r.setS i v).vl = r.vl := by
  unfold Regs.setS
  split <;> [split; skip] <;> exact ⟨rfl, rfl, rfl⟩

theorem Regs.setV_frame (mask v : BitVec 128) :
    (r.setV i mask v).s = r.s ∧ (r.setV i mask v).m = r.m ∧ (r.setV i mask v).vl = r.vl := by
  unfold Regs.setV
  split <;> exact ⟨rfl, rfl, rfl⟩

theorem Regs.setM_frame (mask v : BitVec 16) :
    (r.setM i mask v).s = r.s ∧ (r.setM i mask v).v = r.v ∧ (r.setM i mask v).vl = r.vl := by
  unfold Regs.setM
  split <;> exact ⟨rfl, rfl, rfl⟩

end

/-! ## The order of the agenda (R112) -/

theorem keyLt_trans {a b c : List Nat} (hab : keyLt a b = true) (hbc : keyLt b c = true) : keyLt a c = true := by
  induction a generalizing b c with
  | nil => simp [keyLt] at hab
  | cons x a ih =>
    cases b with
    | nil => simp [keyLt] at hab
    | cons y b =>
      cases c with
      | nil => simp [keyLt] at hbc
      | cons z c =>
        simp only [keyLt, Bool.or_eq_true, decide_eq_true_eq, Bool.and_eq_true, beq_iff_eq] at hab hbc ⊢
        rcases hab with h | ⟨rfl, h⟩ <;> rcases hbc with h' | ⟨rfl, h'⟩
        · exact .inl (h.trans h')
        · exact .inl h
        · exact .inl h'
        · exact .inr ⟨rfl, ih h h'⟩

theorem keyLt_irrefl (a : List Nat) : keyLt a a = false := by
  induction a with
  | nil => rfl
  | cons x a ih => simp [keyLt, ih]

theorem keyLt_asymm {a b : List Nat} (h : keyLt a b = true) : keyLt b a = false := by
  by_contra hba
  exact Bool.false_ne_true ((keyLt_irrefl a).symm.trans (keyLt_trans h (by simpa using hba)))

section
variable {p : Due → Bool} {d e : Due} {l : List Due}

/-- Of an agenda, only the entry that is inserted meets a test that no other meets. -/
theorem filter_insDue (hd : p d = true) (hl : ∀ x ∈ l, p x = false) : (insDue d l).filter p = [d] := by
  have hnil : l.filter p = [] := List.filter_eq_nil_iff.mpr (fun x hx => by simp [hl x hx])
  induction l with
  | nil => simp [insDue, hd]
  | cons x l ih =>
    rw [insDue]
    split
    · rw [List.filter_cons, if_pos hd, hnil]
    · have hx := hl x List.mem_cons_self
      have hl' : ∀ y ∈ l, p y = false := fun y hy => hl y (List.mem_cons_of_mem _ hy)
      rw [List.filter_cons, hx, if_neg Bool.false_ne_true,
        ih hl' (List.filter_eq_nil_iff.mpr (fun y hy => by simp [hl' y hy]))]

variable (hd : p d = true) (he : p e = true) (hl : ∀ x ∈ l, p x = false) (hde : keyLt d.key e.key = true)
include hd he hl hde

/-- The earlier of two entries comes first where it is inserted first. -/
theorem filter_insDue_later : (insDue e (insDue d l)).filter p = [d, e] := by
  induction l with
  | nil => simp [insDue, keyLt_asymm hde, hd, he]
  | cons x l ih =>
    have hx := hl x List.mem_cons_self
    have hl' : ∀ y ∈ l, p y = false := fun y hy => hl y (List.mem_cons_of_mem _ hy)
    by_cases hdx : keyLt d.key x.key = true
    · rw [insDue, if_pos hdx, insDue, if_neg (by simp [keyLt_asymm hde]), List.filter_cons, if_pos hd, filter_insDue he hl]
    · have hex : ¬ keyLt e.key x.key = true := fun h => hdx (keyLt_trans hde h)
      rw [insDue, if_neg hdx, insDue, if_neg hex, List.filter_cons, hx, if_neg Bool.false_ne_true, ih hl']

/-- The earlier of two entries comes first where it is inserted last. -/
theorem filter_insDue_earlier : (insDue d (insDue e l)).filter p = [d, e] := by
  induction l with
  | nil => simp [insDue, hde, hd, he]
  | cons x l ih =>
    have hx := hl x List.mem_cons_self
    have hl' : ∀ y ∈ l, p y = false := fun y hy => hl y (List.mem_cons_of_mem _ hy)
    by_cases hex : keyLt e.key x.key = true
    · have hins := filter_insDue he hl
      rw [insDue, if_pos hex] at hins ⊢
      rw [insDue, if_pos hde, List.filter_cons, if_pos hd, hins]
    · rw [insDue, if_neg hex, insDue]
      split
      · have hins := filter_insDue he hl
        rw [insDue, if_neg hex] at hins
        rw [List.filter_cons, if_pos hd, hins]
      · rw [List.filter_cons, hx, if_neg Bool.false_ne_true, ih hl']

end

/-- Two vector results of one ring cycle come about in issue order, then in slot order. -/
theorem keyLt_of_issued {u i1 i2 s1 s2 : Nat} {a b : Act} (ha : a.phase = 0) (hb : b.phase = 0) (h1 : 2 ≤ s1) (h2 : 2 ≤ s2)
    (h : i1 < i2 ∨ (i1 = i2 ∧ s1 < s2)) : keyLt (Due.key ⟨u, i1, s1, a⟩) (Due.key ⟨u, i2, s2, b⟩) = true := by
  simpa [Due.key, Due.late, keyLt, ha, hb, h1, h2] using h

/-! ## Landing -/

/-- Whether a result lands at the start of ring cycle `t`. -/
def Due.landsBy (t : Nat) (d : Due) : Bool := decide (d.at_ ≤ t) && d.act.phase == 0

/-- The cluster at the start of ring cycle `t`, its ramp stepped and the results that land off its agenda. -/
def Cluster.atStart (c : Cluster) (t : Nat) : Cluster :=
  { c with agenda := c.agenda.filter (fun d => !d.landsBy t), mx := c.mx.ramp t }

theorem Cluster.landAll_eq (c : Cluster) (t : Nat) :
    c.landAll t = (c.agenda.filter (Due.landsBy t)).foldl (fun c d => c.land d.at_ d.act) (c.atStart t) := rfl

theorem Cluster.landAll_single (c : Cluster) (t : Nat) (d : Due) (h : c.agenda.filter (Due.landsBy t) = [d]) :
    c.landAll t = (c.atStart t).land d.at_ d.act := by
  rw [Cluster.landAll_eq, h]
  rfl

/-- Two vector results due in one ring cycle land in the order of their issue, whichever became due first (R112). -/
theorem Cluster.landAll_two (c : Cluster) {t u i1 i2 s1 s2 : Nat} {a b : Act} (hu : u ≤ t) (h1 : 2 ≤ s1) (h2 : 2 ≤ s2)
    (h : i1 < i2 ∨ (i1 = i2 ∧ s1 < s2)) (hc : c.Landed t) (ha : a.phase = 0) (hb : b.phase = 0) (P : Cluster → Prop)
    (hP : ∀ x : Cluster, x.r = c.r → x.vflags = c.vflags → P ((x.land u a).land u b)) :
    P (((c.due u i1 s1 a).due u i2 s2 b).landAll t) ∧ P (((c.due u i2 s2 b).due u i1 s1 a).landAll t) := by
  have hl : ∀ d ∈ c.agenda, Due.landsBy t d = false := fun d hd => by simpa [Due.landsBy] using hc d hd
  have hpa : Due.landsBy t ⟨u, i1, s1, a⟩ = true := by simp [Due.landsBy, hu, ha]
  have hpb : Due.landsBy t ⟨u, i2, s2, b⟩ = true := by simp [Due.landsBy, hu, hb]
  have hkey := keyLt_of_issued (u := u) ha hb h1 h2 h
  constructor
  · rw [Cluster.landAll_eq, Cluster.due, Cluster.due, filter_insDue_later hpa hpb hl hkey]
    exact hP _ rfl rfl
  · rw [Cluster.landAll_eq, Cluster.due, Cluster.due, filter_insDue_earlier hpa hpb hl hkey]
    exact hP _ rfl rfl

end Sys2Proof.Machine

/-! # Accesses without conflict or error (O4) -/

namespace Sys2Proof.Machine

/-! ## Tables after a run of writes -/

section
variable {α β : Type} {m : Tab α}

theorem Tab.find_ins_same (m : Tab α) (i : Nat) (x : α) : Tab.find (Tab.ins i x m) i = some x := by
  induction m with
  | nil => simp [Tab.ins, Tab.find]
  | cons p m ih =>
    obtain ⟨k, v⟩ := p
    rw [Tab.ins]
    split
    · simp [Tab.find]
    · split
      · simp [Tab.find]
      · rw [Tab.find, if_neg (by omega), if_neg (by omega), ih]

theorem Tab.find_ins_ne (m : Tab α) (i j : Nat) (x : α) (h : j ≠ i) : Tab.find (Tab.ins i x m) j = Tab.find m j := by
  induction m with
  | nil => simp [Tab.ins, Tab.find, h]
  | cons p m ih =>
    obtain ⟨k, v⟩ := p
    rw [Tab.ins]
    split
    · rw [Tab.find, if_neg h]
      split
      · rw [Tab.find, if_neg (by omega), if_pos (by omega)]
      · rfl
    · split
      · subst_vars
        rw [Tab.find, Tab.find, if_neg h, if_neg h]
      · simp only [Tab.find, ih]

theorem Tab.find_foldl_ins_ne (key : β → Nat) (val : β → α) (l : List β) (m : Tab α) (i : Nat) (h : ∀ b ∈ l, key b ≠ i) :
    Tab.find (l.foldl (fun m b => Tab.ins (key b) (val b) m) m) i = Tab.find m i := by
  induction l generalizing m with
  | nil => rfl
  | cons b l ih =>
    rw [List.foldl_cons, ih _ (fun x hx => h x (List.mem_cons_of_mem _ hx)),
      Tab.find_ins_ne _ _ _ _ (h b List.mem_cons_self).symm]

/-- What is listed under a key that one of the writes names. -/
theorem Tab.find_foldl_ins (key : β → Nat) (val : β → α) (l : List β) (m : Tab α) (hn : (l.map key).Nodup) (b : β)
    (hb : b ∈ l) : Tab.find (l.foldl (fun m b => Tab.ins (key b) (val b) m) m) (key b) = some (val b) := by
  induction l generalizing m with
  | nil => cases hb
  | cons x l ih =>
    obtain ⟨hx, hn⟩ := List.nodup_cons.mp hn
    rw [List.foldl_cons]
    rcases List.mem_cons.mp hb with rfl | hb
    · rw [Tab.find_foldl_ins_ne _ _ _ _ _ (fun y hy hk => hx (List.mem_map.mpr ⟨y, hy, hk⟩)), Tab.find_ins_same]
    · exact ih _ hn hb

variable [DecidableEq α] {d : α}

theorem Tab.wf_foldl_set (key : β → Nat) (val : β → α) (l : List β) (h : Tab.wf d m = true) :
    Tab.wf d (l.foldl (fun m b => Tab.set d m (key b) (val b)) m) = true :=
  List.foldlRecOn (motive := fun m => Tab.wf d m = true) l _ h (fun _ h _ _ => Tab.wf_set _ _ _ _ h)

theorem Tab.get_foldl_set_ne (key : β → Nat) (val : β → α) (l : List β) (h : Tab.wf d m = true) (i : Nat)
    (hi : ∀ b ∈ l, key b ≠ i) : Tab.get d (l.foldl (fun m b => Tab.set d m (key b) (val b)) m) i = Tab.get d m i := by
  induction l generalizing m with
  | nil => rfl
  | cons b l ih =>
    rw [List.foldl_cons, ih (Tab.wf_set _ _ _ _ h) (fun x hx => hi x (List.mem_cons_of_mem _ hx)),
      Tab.get_set_ne _ _ _ _ _ h (hi b List.mem_cons_self).symm]

/-- A read of a key that one of the writes names. -/
theorem Tab.get_foldl_set (key : β → Nat) (val : β → α) (l : List β) (h : Tab.wf d m = true) (hn : (l.map key).Nodup) (b : β)
    (hb : b ∈ l) : Tab.get d (l.foldl (fun m b => Tab.set d m (key b) (val b)) m) (key b) = val b := by
  induction l generalizing m with
  | nil => cases hb
  | cons x l ih =>
    obtain ⟨hx, hn⟩ := List.nodup_cons.mp hn
    rw [List.foldl_cons]
    rcases List.mem_cons.mp hb with rfl | hb
    · rw [Tab.get_foldl_set_ne _ _ _ (Tab.wf_set _ _ _ _ h) _ (fun y hy hk => hx (List.mem_map.mpr ⟨y, hy, hk⟩)),
        Tab.get_set_same _ _ _ _ h]
    · exact ih (Tab.wf_set _ _ _ _ h) hn hb

end

/-! ## The local store without errors (R238, R244) -/

/-- The local store after a write of ring cycle `t`, to be read after ring cycle `vis`, with the lines of `w` written. -/
def LStore.stored (ls : LStore) (w : Tab Bool) (t vis : Nat) (l : LsBytes) : LStore :=
  { ls with written := w, bytes := putBytes ls.bytes l, hidden := ls.hide t vis l }

section
variable {ls : LStore} (hu : ls.upset = [])
include hu

theorem LStore.verdict_clean (l : Nat) : ls.verdict l = .clean := by
  rw [LStore.verdict, hu]
  split <;> rfl

theorem LStore.lost_clean (k : LsCtx) (l : Nat) : ls.lost k l = false := by
  rw [LStore.lost, LStore.verdict_clean hu]

/-- A line without errors is overwritten and nothing else. -/
theorem LStore.settleLine_clean (k : LsCtx) (l : Nat) (whole : Bool) : ls.settleLine k l whole = (ls, []) := by
  have hdel : { ls with upset := Tab.del l ls.upset } = ls := by
    cases ls
    subst hu
    rfl
  simp [LStore.settleLine, LStore.lost_clean hu, LStore.verdict_clean hu, hdel]

variable {k : LsCtx} (hk : k.bad = [])
include hk

/-- A reader receives what its ring cycle reads. -/
theorem LStore.byte_clean (a : Nat) : ls.byte k a = ls.raw k.cycle (a % 2 ^ 21) := by
  simp only [LStore.byte, hk, List.contains_nil, LStore.lost_clean hu, LStore.verdict_clean hu, if_neg Bool.false_ne_true]
  rfl

theorem LStore.note_clean (lines : List Nat) : LStore.note k lines ls = (ls, []) := by
  induction lines with
  | nil => rfl
  | cons l lines ih =>
    simp [LStore.note, hk, LStore.lost_clean hu, LStore.verdict_clean hu, ih]

omit hk in
/-- Lines without errors that are overwritten are marked written, one after another. -/
theorem LStore.foldl_settleLine_clean (whole : Nat → Bool) (lines : List Nat) (w : Tab Bool) :
    ∃ w', lines.foldl (fun (a : LStore × List Cause) n =>
      let x := a.1.settleLine k n (whole n)
      ({ x.1 with written := Tab.ins n true x.1.written }, a.2 ++ x.2)) ({ ls with written := w }, []) =
        ({ ls with written := w' }, []) := by
  induction lines generalizing w with
  | nil => exact ⟨w, rfl⟩
  | cons n lines ih =>
    rw [List.foldl_cons, LStore.settleLine_clean (ls := { ls with written := w }) hu k n _]
    exact ih _

/-- A write marks its lines written, merges its bytes, and hides them from the readers of its ring cycle. -/
theorem LStore.write_clean (vis : Nat) (l : LsBytes) :
    ∃ w, ls.write k vis l = (ls.stored w k.cycle vis l, []) := by
  have hkeep : l.filter (fun p => !k.bad.contains (bankOf (lineOf (p.1 % lsSize)))) = l := by simp [hk]
  unfold LStore.write
  rw [hkeep]
  obtain ⟨w, hw⟩ := LStore.foldl_settleLine_clean hu (k := k)
    (fun n => decide (64 ≤ (l.filter (fun p => lineOf (p.1 % lsSize) == n && p.2.2 == 0xFF)).length))
    (dedup (l.map (fun p => lineOf (p.1 % lsSize)))) ls.written
  exact ⟨w, by dsimp only at hw ⊢; rw [hw]; rfl⟩

end

/-! ## Bytes that a write merges -/

section
variable {m : Tab Byte} {l : LsBytes}

theorem wf_putBytes (h : Tab.wf 0 m = true) : Tab.wf 0 (putBytes m l) = true := by
  induction l generalizing m with
  | nil => exact h
  | cons p l ih => exact ih (Tab.wf_set _ _ _ _ h)

theorem get_putBytes_ne (h : Tab.wf 0 m = true) (x : Nat) (hx : ∀ p ∈ l, p.1 % lsSize ≠ x) :
    Tab.get 0 (putBytes m l) x = Tab.get 0 m x := by
  induction l generalizing m with
  | nil => rfl
  | cons p l ih =>
    rw [putBytes, ih (Tab.wf_set _ _ _ _ h) (fun q hq => hx q (List.mem_cons_of_mem _ hq)),
      Tab.get_set_ne _ _ _ _ _ h (hx p List.mem_cons_self).symm]

/-- A byte that is written once takes its value where its mask says so. -/
theorem get_putBytes (h : Tab.wf 0 m = true) (hn : (l.map (fun p => p.1 % lsSize)).Nodup) (p : Nat × Byte × Byte) (hp : p ∈ l) :
    Tab.get 0 (putBytes m l) (p.1 % lsSize) = (Tab.get 0 m (p.1 % lsSize) &&& ~~~p.2.2) ||| (p.2.1 &&& p.2.2) := by
  induction l generalizing m with
  | nil => cases hp
  | cons q l ih =>
    obtain ⟨hq, hn⟩ := List.nodup_cons.mp hn
    have hw := Tab.wf_set 0 m (q.1 % lsSize) ((Tab.get 0 m (q.1 % lsSize) &&& ~~~q.2.2) ||| (q.2.1 &&& q.2.2)) h
    rw [putBytes]
    rcases List.mem_cons.mp hp with rfl | hp
    · rw [get_putBytes_ne hw _ (fun x hx hk => hq (List.mem_map.mpr ⟨x, hx, hk⟩)), Tab.get_set_same _ _ _ _ h]
    · rw [ih hw hn hp, Tab.get_set_ne _ _ _ _ _ h]
      exact fun hk => hq (List.mem_map.mpr ⟨p, hp, hk⟩)

end

section
variable (ls : LStore) (w : Tab Bool) {t vis u : Nat} {l : LsBytes} (hn : (l.map (fun p => p.1 % lsSize)).Nodup)
  (p : Nat × Byte × Byte) (hp : p ∈ l)
include hn hp

/-- What is hidden of a byte that a write changes once: what the write's ring cycle reads. -/
theorem LStore.find_hide : Tab.find (ls.hide t vis l) (p.1 % lsSize) = some (ls.raw t (p.1 % lsSize), max t vis) :=
  Tab.find_foldl_ins (fun p : Nat × Byte × Byte => p.1 % lsSize) (fun p => (ls.raw t (p.1 % lsSize), max t vis)) l _ hn p hp

/-- Up to the ring cycle that a write names its bytes are read as its own ring cycle reads them (R124). -/
theorem LStore.raw_stored_early (hu : u ≤ max t vis) : (ls.stored w t vis l).raw u (p.1 % lsSize) = ls.raw t (p.1 % lsSize) := by
  rw [LStore.raw, LStore.stored, LStore.find_hide ls hn p hp]
  exact if_pos hu

/-- After the ring cycle that a write names its bytes are read (R124). -/
theorem LStore.raw_stored_late (hu : max t vis < u) :
    (ls.stored w t vis l).raw u (p.1 % lsSize) = Tab.get 0 (putBytes ls.bytes l) (p.1 % lsSize) := by
  rw [LStore.raw, LStore.stored, LStore.find_hide ls hn p hp]
  exact if_neg (Nat.not_le.mpr hu)

end

/-! ## The accumulator file (R63, R85) -/

theorem Mode.entryWords_cases (m : Mode) : m.entryWords = 1 ∨ m.entryWords = 2 ∨ m.entryWords = 4 := by
  cases m <;> decide

/-- Words of 64 bits, put together again. -/
theorem foldl_words (x n : Nat) :
    (List.range n).foldl (fun y k => y + bits x (64 * k) 64 * 2 ^ (64 * k)) 0 = x % 2 ^ (64 * n) := by
  induction n with
  | zero => simp [Nat.mod_one]
  | succ n ih =>
    rw [List.range_succ, List.foldl_append, ih, List.foldl_cons, List.foldl_nil, bits_eq_div_mod, Nat.mul_succ, Nat.pow_add,
      Nat.mod_mul, Nat.mul_comm (2 ^ (64 * n))]

section
variable {acc acc' : Tab Nat} {m : Mode} {w : Nat}

theorem accRead_congr (h : ∀ k, k < m.entryWords → Tab.get 0 acc' ((w + k) % 65536) = Tab.get 0 acc ((w + k) % 65536)) :
    accRead acc' m w = accRead acc m w :=
  List.foldl_ext _ _ _ (fun _ k hk => by rw [h k (List.mem_range.mp hk)])

variable (hw : Tab.wf 0 acc = true)
include hw

theorem wf_accWrite (x : Nat) : Tab.wf 0 (accWrite acc m w x) = true := Tab.wf_foldl_set _ _ _ hw

theorem get_accWrite_ne (x i : Nat) (hi : ∀ k, k < m.entryWords → (w + k) % 65536 ≠ i) :
    Tab.get 0 (accWrite acc m w x) i = Tab.get 0 acc i :=
  Tab.get_foldl_set_ne _ _ _ hw i (fun k hk => hi k (List.mem_range.mp hk))

theorem get_accWrite (x k : Nat) (hk : k < m.entryWords) :
    Tab.get 0 (accWrite acc m w x) ((w + k) % 65536) = bits x (64 * k) 64 := by
  refine Tab.get_foldl_set (fun k => (w + k) % 65536) _ _ hw ?_ k (List.mem_range.mpr hk)
  refine List.Nodup.map_on (fun i hi j hj hij => ?_) List.nodup_range
  have := m.entryWords_cases
  have := List.mem_range.mp hi
  have := List.mem_range.mp hj
  omega

/-- An entry reads as it was written. -/
theorem accRead_accWrite (x : Nat) : accRead (accWrite acc m w x) m w = x % 2 ^ (64 * m.entryWords) :=
  (List.foldl_ext _ _ _ (fun _ k hk => by rw [get_accWrite hw x k (List.mem_range.mp hk)])).trans (foldl_words x _)

end

/-! ## Joins (R84) -/

/-- Entries of one output vector that fits into the file share no word. -/
theorem accWord_disjoint (m : Mode) (word n i j x y : Nat) (hn : n * m.entryWords ≤ 65536) (hi : i < n) (hj : j < n) (hij : i ≠ j)
    (hx : x < m.entryWords) (hy : y < m.entryWords) : (accWord m word i + x) % 65536 ≠ (accWord m word j + y) % 65536 := by
  simp only [accWord]
  rcases m.entryWords_cases with h | h | h <;> rw [h] at hn hx hy ⊢ <;> omega

/-- The word that a join writes to an entry: the sum of what it held, or of zero, and the vector's. -/
def joined (m : Mode) (ovw : Bool) (old : Nat) (g : Sum) : Nat :=
  m.entryBits (m.join (if ovw then Sum.zero else m.entry old) g).1

section
variable (m : Mode) (word : Nat) (ovw : Bool) (sums : List Sum) {acc : Tab Nat}

theorem joinVector_concat (acc : Tab Nat) (g : Sum) : (joinVector m word ovw (sums ++ [g]) acc).1 =
    let st := (joinVector m word ovw sums acc).1
    let w := accWord m word sums.length
    accWrite st m w (joined m ovw (accRead st m w) g) := by
  rw [joinVector, List.length_append, List.length_singleton, List.range_succ, List.zip_append (by simp), List.foldl_append]
  rfl

variable (hw : Tab.wf 0 acc = true)
include hw

theorem wf_joinVector : Tab.wf 0 (joinVector m word ovw sums acc).1 = true := by
  induction sums using List.reverseRecOn with
  | nil => exact hw
  | append_singleton sums g ih =>
    rw [joinVector_concat]
    exact wf_accWrite ih _

/-- A join leaves every word outside its entries. -/
theorem get_joinVector_ne (i : Nat)
    (hi : ∀ j, j < sums.length → ∀ x, x < m.entryWords → (accWord m word j + x) % 65536 ≠ i) :
    Tab.get 0 (joinVector m word ovw sums acc).1 i = Tab.get 0 acc i := by
  induction sums using List.reverseRecOn with
  | nil => rfl
  | append_singleton sums g ih =>
    simp only [List.length_append, List.length_singleton] at hi
    rw [joinVector_concat]
    dsimp only
    rw [get_accWrite_ne (wf_joinVector m word ovw sums hw) _ _ (hi _ (by omega)), ih (fun j hj => hi j (by omega))]

/-- Each entry takes its own sum. -/
theorem accRead_joinVector (hfit : sums.length * m.entryWords ≤ 65536) (j : Nat) (hj : j < sums.length) :
    accRead (joinVector m word ovw sums acc).1 m (accWord m word j) =
      joined m ovw (accRead acc m (accWord m word j)) (sums.getD j Sum.zero) % 2 ^ (64 * m.entryWords) := by
  induction sums using List.reverseRecOn with
  | nil => cases hj
  | append_singleton sums g ih =>
    have hst := wf_joinVector m word ovw sums hw
    simp only [List.length_append, List.length_singleton] at hfit hj
    have hfit' : sums.length * m.entryWords ≤ 65536 := (Nat.mul_le_mul_right _ (Nat.le_succ _)).trans hfit
    have hsep (i : Nat) (hi : i < sums.length + 1) (hij : i ≠ j) (x y : Nat) (hx : x < m.entryWords) (hy : y < m.entryWords) :=
      accWord_disjoint m word _ i j x y hfit hi hj hij hx hy
    rw [joinVector_concat]
    dsimp only
    rcases Nat.lt_succ_iff_lt_or_eq.mp hj with hlt | rfl
    · rw [accRead_congr (fun y hy => get_accWrite_ne hst _ _ (fun x hx => hsep _ (by omega) (by omega) x y hx hy)),
        ih hfit' hlt, List.getD_append _ _ _ _ hlt]
    · rw [accRead_accWrite hst, List.getD_append_right _ _ _ _ (le_refl _), Nat.sub_self, List.getD_cons_zero,
        accRead_congr (fun y hy => get_joinVector_ne m word ovw sums hw _ (fun i hi x hx => hsep i (by omega) (by omega) x y hx hy))]

end

end Sys2Proof.Machine

/-! # Results, loads, stores and joins (O4) -/

namespace Sys2Proof.Machine

/-! ## One access of a ring cycle -/

@[simp] theorem Cluster.raises_nil (c : Cluster) : c.raises [] = c := by
  simp [Cluster.raises]

/-- The byte that ring cycle `t` reads, within the 2 MiB of the local store. -/
def LStore.rawAt (ls : LStore) (t x : Nat) : Byte := ls.raw t (x % 2 ^ 21)

section
variable {c : Cluster} {k : LsCtx} {t : Nat} {port : Bool} {d : Due} (hk : k.bad = []) (hu : c.ls.upset = [])
include hk hu

theorem LStore.read_clean (a n : Nat) : c.ls.read k a n = (List.range n).map (fun j => c.ls.rawAt k.cycle (a + j)) :=
  List.map_congr_left (fun _ _ => LStore.byte_clean hu hk _)

/-- A sequencer load (R241). -/
theorem Cluster.access_sld {r a : Nat} (hd : d.act = .sld r a) :
    c.access k t port d = c.due (d.issued + 6) d.issued d.slot
      (.sreg r (BitVec.ofNat 64 (leNat ((List.range 8).map (fun j => c.ls.rawAt k.cycle (a + j)))))) := by
  simp [Cluster.access, hd, Act.isWrite, LStore.note_clean hu hk, LStore.read_clean hk hu]

/-- A chunk of a vector load (R122, R241). -/
theorem Cluster.access_vld {a n lat : Nat} {es : List LdElt} (hd : d.act = .vld a n lat es) :
    c.access k t port d = c.dues (t + lat) d.issued d.slot (vput 0 (es.map (fun e =>
      (128 * e.reg + e.lo, e.width,
        if e.width = 4 then bits (c.ls.rawAt k.cycle (a + e.off / 2)).toNat (4 * (e.off % 2)) 4
        else leNat ((List.range (e.width / 8)).map (fun j => c.ls.rawAt k.cycle (a + e.off + j))))))) := by
  simp [Cluster.access, hd, Act.isWrite, LStore.note_clean hu hk, LStore.read_clean hk hu,
    LStore.byte_clean hu hk, LStore.rawAt]

/-- A store (R124, R238). -/
theorem Cluster.access_lsw {vis : Nat} {l : LsBytes} (hd : d.act = .lsw vis l) :
    ∃ w, c.access k t port d = { c with ls := c.ls.stored w k.cycle vis l } := by
  obtain ⟨w, hw⟩ := LStore.write_clean hu hk vis l
  exact ⟨w, by simp [Cluster.access, hd, hw]⟩

omit hk hu in
/-- A join (R84). -/
theorem Cluster.access_join {m : Mode} {word : Nat} {ovw : Bool} {sums : List Sum} {f : Fl}
    (hd : d.act = .join m word ovw sums f) :
    c.access k t port d = { c with
      acc := (joinVector m word ovw sums c.acc).1, mflags := c.mflags ||| f ||| (joinVector m word ovw sums c.acc).2 } := by
  simp [Cluster.access, hd]

end

/-! ## Two vector results of one ring cycle (R112) -/

section
variable (c : Cluster) (u r : Nat)

theorem Cluster.land_vreg_vreg (m1 m2 v1 v2 : BitVec 128) (hr : r < 32) :
    ((c.land u (.vreg r m1 v1)).land u (.vreg r m2 v2)).r.getV r =
      (((c.r.getV r &&& ~~~m1) ||| (v1 &&& m1)) &&& ~~~m2) ||| (v2 &&& m2) := by
  simp only [Cluster.land, Regs.getV_setV _ _ _ _ _ hr, if_true]

theorem Cluster.land_mreg_mreg (m1 m2 v1 v2 : BitVec 16) (hr : r < 8) :
    ((c.land u (.mreg r m1 v1)).land u (.mreg r m2 v2)).r.getM r =
      (((c.r.getM r &&& ~~~m1) ||| (v1 &&& m1)) &&& ~~~m2) ||| (v2 &&& m2) := by
  simp only [Cluster.land, Regs.getM_setM _ _ _ _ _ hr, if_true]

end

/-- Settles O4: a single result is landed on the cluster at the start of the ring cycle; two are landed in the order of their
issue; a load, a store and a join are the accesses without conflict or error. -/
theorem resultsLand : Obligations.ResultsLand := by
  refine ⟨fun c t u issued slot a h => ?single, fun c t u i1 i2 s1 s2 hu h1 h2 hi hc => ?two,
    fun c k t port d hk hup hls hacc => ?access⟩
  case single =>
    rw [c.landAll_single t _ h]
    refine ⟨?sreg, ?vreg, ?mreg, ?vl, ?vfl⟩
    case sreg =>
      rintro r v rfl
      obtain ⟨hv, hm, hvl⟩ := c.r.setS_frame r v
      exact ⟨fun k hk => c.r.getS_setS r k v hk, hv, hm, hvl, rfl, rfl, rfl, rfl, rfl⟩
    case vreg =>
      rintro r m v rfl
      obtain ⟨hs, hm, hvl⟩ := c.r.setV_frame r m v
      exact ⟨fun k hk => c.r.getV_setV r k m v hk, hs, hm, hvl, rfl, rfl, rfl, rfl, rfl⟩
    case mreg =>
      rintro r m v rfl
      obtain ⟨hs, hv, hvl⟩ := c.r.setM_frame r m v
      exact ⟨fun k hk => c.r.getM_setM r k m v hk, hs, hv, hvl, rfl, rfl, rfl, rfl, rfl⟩
    case vl =>
      rintro n rfl
      exact ⟨rfl, rfl, rfl, rfl, rfl, rfl⟩
    case vfl =>
      rintro f rfl
      exact ⟨rfl, rfl, rfl, rfl, rfl, rfl⟩
  case two =>
    intro both
    have inOrder (a b : Act) (P : Cluster → Prop) (ha : a.phase = 0) (hb : b.phase = 0)
        (hP : ∀ x : Cluster, x.r = c.r → x.vflags = c.vflags → P ((x.land u a).land u b)) : both a b P :=
      c.landAll_two hu h1 h2 hi hc ha hb P hP
    refine ⟨fun r m1 m2 v1 v2 hr => ?_, fun r m1 m2 v1 v2 hr => ?_, fun f1 f2 => ?_⟩
    · exact inOrder (.vreg r m1 v1) (.vreg r m2 v2) (fun c' => c'.r.getV r = _) rfl rfl
        (fun x hx _ => hx ▸ x.land_vreg_vreg u r m1 m2 v1 v2 hr)
    · exact inOrder (.mreg r m1 v1) (.mreg r m2 v2) (fun c' => c'.r.getM r = _) rfl rfl
        (fun x hx _ => hx ▸ x.land_mreg_mreg u r m1 m2 v1 v2 hr)
    · exact inOrder (.vfl f1) (.vfl f2) (fun c' => c'.vflags = _) rfl rfl
        (fun x _ hx => congrArg (fun f => f ||| f1 ||| f2) hx)
  case access =>
    intro c' rd
    refine ⟨fun r a hd => Cluster.access_sld hk hup hd, fun a n lat es hd => Cluster.access_vld hk hup hd,
      fun vis l hd hn hl => ?store, fun m word ovw sums f hd hfit => ?join⟩
    case store =>
      obtain ⟨w, hc'⟩ : ∃ w, c' = _ := Cluster.access_lsw hk hup hd
      have hmod (p) (hp : p ∈ l) : p.1 % lsSize = p.1 := Nat.mod_eq_of_lt (hl p hp)
      have hn' : (l.map (fun p => p.1 % lsSize)).Nodup := by rwa [List.map_congr_left hmod]
      rw [hc']
      refine ⟨rfl, rfl, rfl, rfl, fun p hp => ⟨?_, ?_, ?_⟩, fun x hx => ?_⟩
      · have hget := get_putBytes hls hn' p hp
        rwa [hmod p hp] at hget
      · have hraw := c.ls.raw_stored_early w (t := k.cycle) (vis := vis) hn' p hp (le_refl _)
        have hrd : rd p.1 = c.ls.raw k.cycle p.1 := congrArg (c.ls.raw k.cycle) (hmod p hp)
        rw [hrd]
        rwa [hmod p hp] at hraw
      · have hraw := c.ls.raw_stored_late w (t := k.cycle) (vis := vis) hn' p hp (Nat.lt_succ_self _)
        rwa [hmod p hp] at hraw
      · exact get_putBytes_ne hls x (fun p hp => (hmod p hp).trans_ne (hx p hp))
    case join =>
      rw [show c' = _ from Cluster.access_join hd]
      exact ⟨rfl, rfl, rfl, fun j hj => accRead_joinVector m word ovw sums hacc hfit j hj,
        fun i _ hi => get_joinVector_ne m word ovw sums hacc i hi⟩

end Sys2Proof.Machine

/-! # Sequencer arithmetic, masks and moves, vector loads and stores (O3, O11, O13)

A result command of the sequencer is one value of the registers; a mask command is one operation on the VC pipe; a load or store
is issued to the LS pipe by one rule, whatever the number of its fields. -/

namespace Sys2Proof.Machine

/-! ## Sequencer results and staged legs (R156, R157, R166, R171) -/

/-- A shift count is the low six bits of its source. -/
theorem shAmt_eq_mod (b : BitVec 64) : shAmt b = b.toNat % 64 := bits_zero_lo b.toNat 6

/-- The bundles of a leg stand in the timetable of the ring's target and class in its partition's image. -/
theorem State.legBundles_of {s : State} {ring leg : Nat} {im : Image} {t : Timetable}
    (him : (s.partOf ring).bind (fun part => (s.part part).image) = some im)
    (ht : im.timetable (im.targetOf ring) (s.ring ring).tt.c77 = some t) :
    s.legBundles ring leg = (t.bundles.drop (leg * 8192)).take 8192 := by
  rw [State.legBundles, him]
  simp only [ht]

/-- Settles O3: the sequencer's commands are results of one value each, VSETVL changes each cluster alike, LPRE is a slot of the
ring itself, and an arrived leg an event of it. -/
theorem sequencerArithmetic : Obligations.SequencerArithmetic := by
  intro i rd ra rb imm w leg s due res
  have result {c : Instr} {lat : Nat} {v : Regs → BitVec 64}
      (he : ∀ s, exec c s = s.slotOp i 0 c (fun t r => r.seqResult t lat rd v)) : SlotDoes c i 0 (due lat v) :=
    .of c i 0 (due lat v) he
  have alu {c : Instr} {lat : Nat} {op : BitVec 64 → BitVec 64 → BitVec 64}
      (he : ∀ s, exec c s = s.slotOp i 0 c (fun t r => r.seqAlu t lat rd ra rb op)) : SlotDoes c i 0 (res lat op) :=
    result (v := fun q => op (q.getS ra.val) (q.getS rb.val)) he
  have shift {c : Instr} {op : BitVec 64 → Nat → BitVec 64}
      (he : ∀ s, exec c s = s.slotOp i 0 c (fun t r => r.seqAlu t 1 rd ra rb (fun a b => op a (shAmt b)))) :
      SlotDoes c i 0 (res 1 (fun a b => op a (b.toNat % 64))) := by
    simp only [shAmt_eq_mod] at he
    exact alu (op := fun a b => op a (b.toNat % 64)) he
  refine ⟨?sadd, ?ssub, ?sand, ?sor, ?sxor, ?sshl, ?sshr, ?ssra, ?smul, ?smin, ?smax, ?sslt, ?saddi, ?sli, ?slih, ?vsetvl,
    ?lpre, ?staged⟩
  case sadd | ssub | sand | sor | sxor | smul => exact alu (fun _ => rfl)
  case sshl => exact shift (op := fun a n => a <<< n) (fun _ => rfl)
  case sshr => exact shift (op := fun a n => a >>> n) (fun _ => rfl)
  case ssra => exact shift (op := fun a n => a.sshiftRight n) (fun _ => rfl)
  case smin => exact alu (op := smin) (fun _ => rfl)
  case smax => exact alu (op := smax) (fun _ => rfl)
  case sslt => exact alu (op := sslt) (fun _ => rfl)
  case saddi => exact result (v := fun q => q.getS ra.val + immS imm) (fun _ => rfl)
  case sli => exact result (v := fun _ => immS imm) (fun _ => rfl)
  case slih => exact result (v := fun q => imm ++ (q.getS rd.val).setWidth 32) (fun _ => rfl)
  case vsetvl => exact .of _ _ _ _ (fun _ => rfl)
  case lpre => exact fun hs => s.slotOp_of i 0 (.lpre i leg) (fun _ r => r.lpre leg) hs
  case staged =>
    intro ha im t him ht r
    have he := s.ringEvent_of i (fun _ r => { r with tt := r.tt.staged (s.legBundles i.ring.val r.tt.other.leg) }) ha
    rw [s.legBundles_of him ht] at he
    exact he

/-! ## Masks and moves (R121) -/

/-- Settles O11: mask logic is one operation on two masks; MPOP and VMVSX each give the pipe to one result, or to none. -/
theorem vectorMasksAndMoves : Obligations.VectorMasksAndMoves := by
  intro i f m occ gives mask sreg n
  have logic {c : Instr} {op : BitVec 16 → BitVec 16 → BitVec 16}
      (he : ∀ s, exec c s = s.eachOp i 4 c (fun t x => x.mlogic t f op)) : PipeDoes c i 4 (mask op) :=
    .of he (fun t x => by rw [Cluster.mlogic, Cluster.toPipe]; rfl)
  refine ⟨logic (fun _ => rfl), logic (fun _ => rfl), logic (fun _ => rfl), logic (op := fun a _ => ~~~a) (fun _ => rfl),
    .of (fun _ => rfl) (fun t x => ?mpop), .of (fun _ => rfl) (fun t x => ?vmvsx)⟩
  case mpop =>
    rw [Cluster.mpop, Cluster.toPipe]
    rfl
  case vmvsx =>
    have masked : (x.count (govern [f.sf.width]) = 0 || !x.active f 0) = true ↔ n x = 0 ∨ x.active f 0 = false := by
      rw [Bool.or_eq_true, decide_eq_true_iff, Bool.not_eq_true']
      rfl
    rw [Cluster.vmvsx, Cluster.toPipe]
    exact if_congr Iff.rfl rfl (if_congr masked rfl rfl)

/-! ## Vector loads and stores (R113, R122) -/

/-- A command that takes the LS pipe for its own ring cycle alone bars no later one. -/
@[simp] theorem VecSt.occupy_ls_one (v : VecSt) (t : Nat) : v.occupy 5 t 1 = v := rfl

/-- Issue to the LS pipe: a busy pipe comes before a misaligned address, and a misaligned address leaves the pipe free. -/
theorem Cluster.toLs_eq (x : Cluster) (t n : Nat) (f : VSlot) (op : Cluster → Cluster) :
    x.toLs t n f op = if t < x.vec.until_ 5 then x.vfault vfBusy 3
      else if lsAddr x f % max 1 (f.sf.width / 8) = 0 then op { x with vec := x.vec.occupy 5 t n }
      else x.vfault vfAlign 3 := by
  by_cases ha : lsAddr x f % max 1 (f.sf.width / 8) = 0
  · have hm : lsMisaligned x f = false := by simp [lsMisaligned, ha]
    simp [Cluster.toLs, Cluster.toPipe, hm, ha]
  · have hm : lsMisaligned x f = true := bne_iff_ne.mpr ha
    simp [Cluster.toLs, Cluster.toPipe, hm, ha]

theorem Cluster.due_unless_r (c : Cluster) (p : Prop) [Decidable p] (u t slot : Nat) (a : Act) :
    (if p then c else c.due u t slot a).r = c.r := by
  split <;> rfl

/-- Two runs of steps that keep the registers agree where the steps do on the registers of the start. -/
theorem Cluster.foldl_congr_of_regs {β : Type} (x : Cluster) (l : List β) (g h : Cluster → β → Cluster)
    (hr : ∀ c b, (g c b).r = c.r) (hgh : ∀ c b, c.r = x.r → g c b = h c b) : l.foldl g x = l.foldl h x :=
  (List.foldl_rel (r := fun c c' => c = c' ∧ c.r = x.r) ⟨rfl, rfl⟩
    (fun b _ c _ ⟨hc, hx⟩ => ⟨hc ▸ hgh c b hx, (hr c b).trans hx⟩)).1

/-- Settles O13: each command is issued to the LS pipe alike, and where its address is aligned makes the accesses of its `n`
chunks due; a load computes its address again for each chunk, from registers that the accesses due before leave alone. -/
theorem vectorLoadsAndStores : Obligations.VectorLoadsAndStores := by
  intro i f w g addr occ ld st runs
  have load {c : Instr} {n lat : Nat} (he : ∀ s, exec c s = s.eachOp i 5 c (fun t x => x.vldOp t f n lat)) :
      runs c (ld n lat) := by
    refine .of he (fun t x => ?_)
    rw [Cluster.vldOp, Cluster.toLs_eq]
    refine if_congr Iff.rfl rfl (if_congr Iff.rfl (Cluster.foldl_congr_of_regs _ _ _ _ ?keeps (fun y j hy => ?chunk)) rfl)
    case keeps => exact fun y j => y.due_unless_r ..
    case chunk =>
      have ha : lsAddr y f = lsAddr x f := by rw [lsAddr, hy]; rfl
      rw [ha]
      rfl
  have store {c : Instr} {n : Nat} (he : ∀ s, exec c s = s.eachOp i 5 c (fun t x => x.vstOp t f n)) :
      runs c (st n) := by
    refine .of he (fun t x => ?_)
    rw [Cluster.vstOp, Cluster.toLs_eq]
    rfl
  exact ⟨load (fun _ => rfl), load (fun _ => rfl), load (fun _ => rfl), load (fun _ => rfl),
    store (fun _ => rfl), store (fun _ => rfl), store (fun _ => rfl), store (fun _ => rfl)⟩

end Sys2Proof.Machine

/-! # Step orders and the device after reset (O27, O59)

A fold over rings, regions or orders keeps what each of its steps keeps. A step order readies the rings of its partition and
records the step; no byte of the decks changes. -/

namespace Sys2Proof.Machine

/-! ## What a fold keeps -/

/-- What each step of a fold keeps, the fold keeps. -/
theorem foldl_keeps {σ α β : Type} (g : σ → β) (f : σ → α → σ) (h : ∀ s a, g (f s a) = g s) (l : List α) (s : σ) :
    g (l.foldl f s) = g s :=
  List.foldlRecOn l f (motive := fun t => g t = g s) rfl (fun t ht a _ => (h t a).trans ht)

/-! ## The device after reset -/

/-- No partition has been written since a reset. -/
theorem State.reset_part (k : Nat) : State.reset.part k = .reset := rfl

/-- No ring has been written since a reset. -/
theorem State.reset_ring (k : Nat) : State.reset.ring k = .reset := rfl

/-- Settles O59: each register has its value of reset, and a table with no entry reads as reset everywhere. -/
theorem atReset : Obligations.AtReset :=
  ⟨rfl, rfl, State.reset_part, rfl, fun k => by rw [State.reset_ring]; rfl, rfl, rfl, rfl, rfl, rfl, rfl, rfl, rfl, rfl, rfl, rfl⟩

/-! ## Rings that are made ready for a step (R197) -/

/-- An awake ring with its token counters at zero, ready to be started. -/
def Ring.readied (r : Ring) : Ring :=
  { r.each (fun _ c => { c with tok := [] }) with tok := [], tt := { r.tt with ended := false, report := false } }

/-- What a ring shows that is ready to be started. -/
def Ring.IsReady (r : Ring) : Prop :=
  r.tok = [] ∧ r.tt.ended = false ∧ r.tt.report = false ∧ ∀ c ∈ r.cl, c.tok = []

theorem Ring.readied_isReady (r : Ring) : r.readied.IsReady :=
  ⟨rfl, rfl, rfl, fun c hc => by
    obtain ⟨k, x, -, rfl⟩ := Ring.mem_each (r := r) (f := fun _ c => { c with tok := [] }) hc
    rfl⟩

/-- Ring `i` is made ready where it is awake. -/
def State.readyRing (s : State) (i : Nat) : State :=
  if (s.ring i).awake then s.setRing i (s.ring i).readied else s

@[simp] theorem State.readyRing_mem (s : State) (i : Nat) : (s.readyRing i).mem = s.mem := by
  unfold State.readyRing
  split <;> rfl

@[simp] theorem State.readyRing_parts (s : State) (i : Nat) : (s.readyRing i).parts = s.parts := by
  unfold State.readyRing
  split <;> rfl

theorem State.zeroTokens_eq (s : State) (part : Nat) :
    s.zeroTokens part =
      let t := (s.part part).rings.foldl State.readyRing s
      t.setPart part { t.part part with spanTok := [], devTok := [], faces := [] } := rfl

/-- Making ring `k` ready leaves every ring that is awake or ready so. -/
theorem State.readyRing_ring (s : State) (i k : Nat) :
    ((s.readyRing k).ring i).awake = (s.ring i).awake ∧
      (k = i ∨ (s.ring i).IsReady → (s.ring i).awake = true → ((s.readyRing k).ring i).IsReady) := by
  unfold State.readyRing
  by_cases hk : i = k
  · subst hk
    split
    · rw [State.ring_setRing]
      exact ⟨rfl, fun _ _ => (s.ring i).readied_isReady⟩
    · exact ⟨rfl, fun _ h => absurd h ‹_›⟩
  · split
    · rw [State.ring_setRing_ne _ _ _ _ hk]
      exact ⟨rfl, fun h _ => h.resolve_left (Ne.symm hk)⟩
    · exact ⟨rfl, fun h _ => h.resolve_left (Ne.symm hk)⟩

/-- The awake rings of a list are ready once each of them has been made so. -/
theorem State.ring_foldl_readyRing (l : List Nat) (s : State) (i : Nat) (hi : i ∈ l ∨ (s.ring i).IsReady)
    (ha : (s.ring i).awake = true) : ((l.foldl State.readyRing s).ring i).IsReady := by
  induction l generalizing s with
  | nil => exact hi.resolve_left (by simp)
  | cons k l ih =>
    obtain ⟨hw, hr⟩ := s.readyRing_ring i k
    refine ih (s.readyRing k) ?_ (hw.trans ha)
    rcases hi with hi | hi
    · rcases List.mem_cons.mp hi with rfl | hi
      · exact .inr (hr (.inl rfl) ha)
      · exact .inl hi
    · exact .inr (hr (.inr hi) ha)

/-! ## The step order -/

theorem State.startStep_mem (s : State) (part f slot ckpt : Nat) : (s.startStep part f slot ckpt).mem = s.mem :=
  foldl_keeps State.mem State.readyRing State.readyRing_mem _ s

/-- The rings of a partition whose step starts are ready, those that are awake. -/
theorem State.startStep_ring (s : State) (part f slot ckpt i : Nat) (hi : i ∈ (s.part part).rings)
    (ha : (s.ring i).awake = true) : ((s.startStep part f slot ckpt).ring i).IsReady :=
  s.ring_foldl_readyRing _ i (.inl hi) ha

/-- A partition whose step starts has the rest as it was. -/
theorem State.startStep_part (s : State) (part f slot ckpt : Nat) : ∃ j : StepJob,
    (s.startStep part f slot ckpt).part part = { s.part part with
      st := .running, spanTok := [], devTok := [], faces := [], opt := false, job := .step j } ∧
    j.fn = f ∧ j.slot = slot ∧ j.ckpt = ckpt ∧ j.faulted = false ∧ j.committed = false ∧ j.halting = false ∧ j.repeats = 0 := by
  have hp : ((s.part part).rings.foldl State.readyRing s).part part = s.part part :=
    foldl_keeps (·.part part) State.readyRing (fun t a => congrArg (Tab.get .reset · part) (t.readyRing_parts a)) _ s
  simp only [State.startStep, State.zeroTokens_eq, State.part_setPart, hp]
  exact ⟨_, rfl, rfl, rfl, rfl, rfl, rfl, rfl, rfl⟩

/-- A tenant's step order waits for the handling of a fault, or for a deck that is about to lose a channel. -/
theorem State.stepWaits_of (s : State) (f slot part : Nat) (h : TenantOrder s f slot part) :
    s.stepWaits f = ((s.part part).handling || s.failingOn part) := by
  obtain ⟨-, -, ht, hl, -⟩ := h
  simp only [State.stepWaits, ht, hl, Bool.not_false, Bool.and_true]

/-- Settles O27: an order that need not wait is taken, and starts a step or is refused by the partition's state. -/
theorem stepOrders : Obligations.StepOrders := by
  intro f k ckpt part s h
  have hw := s.stepWaits_of f.val k.val part h
  have taken (hh : (s.part part).handling = false) (hf : s.failingOn part = false) : exec (.step f k ckpt) s =
      .next (if (s.part part).st = .ready then (s.takeOrder f.val k.val).startStep part f.val k.val ckpt.toNat
        else (s.takeOrder f.val k.val).completeBad f.val k.val part stConflict) := by
    rw [exec_step, execStep, hw, hh, hf, State.vfOrder_of _ _ _ _ _ _ h]
    rfl
  refine ⟨fun hq => ?_, fun hh hf hst => ?_, fun hh hf hst => ?_⟩
  · rw [exec_step, execStep, hw, if_pos (by simpa using hq)]
  · rw [taken hh hf, if_neg hst]
  · obtain ⟨j, hp, hj⟩ := (s.takeOrder f.val k.val).startStep_part part f.val k.val ckpt.toNat
    refine ⟨_, (taken hh hf).trans (congrArg _ (if_pos hst)), State.startStep_mem .., ?_⟩
    rw [hp]
    exact ⟨rfl, rfl, rfl, rfl, rfl, rfl, ⟨j, rfl, hj⟩, fun r hr ha => State.startStep_ring _ _ _ _ _ r hr ha⟩

end Sys2Proof.Machine

/-! # Image loads (O33)

What completing an order, a read of the decks and a write of them leave as they are; what an image that is applied leaves of its
partition. -/

namespace Sys2Proof.Machine

/-! ## The device but for what it tells the outside -/

/-- The device without functions, outputs, event log and sessions: what answers and notices leave as it is. -/
def State.inner (s : State) : State :=
  { s with fns := [], outbox := [], log := [], il := { s.il with sessions := [] } }

theorem State.parts_of_inner {s t : State} (h : t.inner = s.inner) : t.parts = s.parts :=
  show t.inner.parts = s.inner.parts from congrArg _ h

theorem State.rings_of_inner {s t : State} (h : t.inner = s.inner) : t.rings = s.rings :=
  show t.inner.rings = s.inner.rings from congrArg _ h

theorem State.mem_of_inner {s t : State} (h : t.inner = s.inner) : t.mem = s.mem :=
  show t.inner.mem = s.inner.mem from congrArg _ h

theorem State.part_congr {s t : State} (h : t.parts = s.parts) (p : Nat) : t.part p = s.part p :=
  congrArg (fun l => Tab.get Partition.reset l p) h

@[simp] theorem State.setFn_inner (s : State) (f : Nat) (x : Fn) : (s.setFn f x).inner = s.inner := rfl
@[simp] theorem State.putBook_inner (s : State) (f o : Nat) (l : List Byte) : (s.putBook f o l).inner = s.inner := rfl
@[simp] theorem State.emit_inner (s : State) (o : Output) : (s.emit o).inner = s.inner := rfl
@[simp] theorem State.note_inner (s : State) (p n r c : Nat) : (s.note p n r c).inner = s.inner := rfl
@[simp] theorem State.reject_inner (s : State) (p c : Nat) : (s.reject p c).inner = s.inner := rfl

@[simp] theorem State.msix_inner (s : State) (f v : Nat) : (s.msix f v).inner = s.inner := by
  simp only [State.msix]
  split
  · rfl
  · split <;> rfl

@[simp] theorem State.complete_inner (s : State) (f k code detail : Nat) (result : List (Nat × List Byte)) :
    (s.complete f k code detail result).inner = s.inner := by
  simp only [State.complete]
  split
  · rfl
  · simp only [State.msix_inner, State.putBook_inner]
    exact foldl_keeps State.inner _ (fun t (p : Nat × List Byte) => t.putBook_inner f _ p.2) _ _

@[simp] theorem State.completeBad_inner (s : State) (f k part code : Nat) : (s.completeBad f k part code).inner = s.inner := by
  rw [State.completeBad, State.reject_inner, State.complete_inner]

@[simp] theorem State.notify_inner (s : State) (part kind arg : Nat) : (s.notify part kind arg).inner = s.inner := by
  simp only [State.notify]
  split
  · rfl
  · rw [State.msix_inner, State.setFn_inner]

/-! ## Reads of the decks leave their bytes (R250) -/

@[simp] theorem State.busyCycles_mem (s : State) (k n : Nat) : (s.busyCycles k n).mem = s.mem := rfl
@[simp] theorem State.notify_mem (s : State) (part kind arg : Nat) : (s.notify part kind arg).mem = s.mem :=
  State.mem_of_inner (s.notify_inner part kind arg)

@[simp] theorem State.withdraw_mem (s : State) (k r page cause : Nat) : (s.withdraw k r page cause).mem = s.mem := by
  simp only [State.withdraw]
  split
  · rw [State.notify_mem]; rfl
  · rfl

@[simp] theorem State.retirePage_mem (s : State) (k a cause : Nat) : (s.retirePage k a cause).mem = s.mem := by
  simp only [State.retirePage]
  split
  · exact s.withdraw_mem ..
  · split
    · split
      · rw [State.notify_mem]; rfl
      · rfl
    · rfl

@[simp] theorem State.fixRow_mem (s : State) (k a : Nat) : (s.fixRow k a).mem = s.mem := by
  simp only [State.fixRow]
  split <;> simp

@[simp] theorem State.correctedRead_mem (s : State) (k a : Nat) : (s.correctedRead k a).mem = s.mem := by
  simp only [State.correctedRead]
  split <;> simp

@[simp] theorem State.failedRead_mem (s : State) (k a : Nat) : (s.failedRead k a).mem = s.mem := by
  simp [State.failedRead]

/-- A read that meets at most four erroneous bytes leaves the granule's bytes. -/
theorem State.judgeGranule_mem (s : State) (dev wrong : Nat) (h : rsVerdict wrong ≠ .beyond) :
    (s.judgeGranule dev wrong).2.mem = s.mem := by
  simp only [State.judgeGranule]
  split
  · rfl
  · split
    · rfl
    · split
      · rfl
      · simp
      · simp
      · exact absurd ‹_› h

theorem State.meetPart_mem (s : State) (part pa n : Nat) (wrong : List Nat) (h : ∀ w ∈ wrong, rsVerdict w ≠ .beyond) :
    (s.meetPart part pa n wrong).mem = s.mem := by
  simp only [State.meetPart, State.meetErrors]
  split
  · rfl
  · refine List.foldlRecOn _ _ (motive := fun t : State => t.mem = s.mem) rfl (fun t ht x hx => ?_)
    split
    · exact ht
    · exact (t.judgeGranule_mem _ _ (h _ (List.of_mem_zip hx).2)).trans ht

theorem State.fetch_mem (s : State) (dev n : Nat) : (s.fetch dev n).mem = s.mem := rfl

theorem State.fetchPart_mem (s : State) (part pa n : Nat) : (s.fetchPart part pa n).mem = s.mem := by
  refine foldl_keeps State.mem _ (fun t p => ?_) _ s
  split
  · exact t.fetch_mem ..
  · rfl

theorem State.fabricOn_mem (s : State) : s.fabricOn.mem = s.mem := by
  simp only [State.fabricOn]
  split
  · rfl
  · rw [foldl_keeps State.mem _ (fun t die => foldl_keeps State.mem _ (fun u side => ?edge) _ t),
      foldl_keeps State.mem _ (fun t k => ?deck)]
    case edge | deck => split <;> rfl

/-! ## What a partition's image is, whatever is written to the decks -/

/-- The image of a partition and the number of its step. -/
def State.applied (s : State) (p : Nat) : Option Image × Nat := ((s.part p).image, (s.part p).stepno)

theorem State.applied_of_parts {s t : State} (h : t.parts = s.parts) : t.applied = s.applied :=
  funext fun p => by rw [State.applied, State.applied, State.part_congr h]

theorem State.setPart_applied (s : State) (i : Nat) (p : Partition)
    (h : p.image = (s.part i).image ∧ p.stepno = (s.part i).stepno) : (s.setPart i p).applied = s.applied := by
  funext j
  by_cases hj : j = i
  · rw [hj, State.applied, State.part_setPart, h.1, h.2, State.applied]
  · rw [State.applied, State.part_setPart_ne _ _ _ _ hj, State.applied]

theorem State.onStep_applied (s : State) (part : Nat) (f : StepJob → StepJob) : (s.onStep part f).applied = s.applied := by
  simp only [State.onStep]
  split
  · exact s.setPart_applied _ _ ⟨rfl, rfl⟩
  · rfl

theorem State.reportAll_parts (s : State) (part : Nat) : (s.reportAll part).parts = s.parts :=
  foldl_keeps State.parts (fun s i => s.setRing i (s.ring i).receiveReport) (fun _ _ => rfl) _ s

theorem State.faultStep_applied (s : State) (part : Nat) (prog : Bool) : (s.faultStep part prog).applied = s.applied := by
  simp only [State.faultStep]
  split
  · rw [State.applied_of_parts (State.reportAll_parts ..), State.onStep_applied]
  · rfl

theorem State.clearPoison_parts (s : State) (dev n : Nat) : (s.clearPoison dev n).parts = s.parts := by
  simp only [State.clearPoison]
  split <;> rfl

theorem State.land_parts (s : State) (dev : Nat) (bs : List Byte) : (s.land dev bs).parts = s.parts :=
  s.clearPoison_parts dev bs.length

theorem State.journalFull_applied (s : State) (part k : Nat) : (s.journalFull part k).applied = s.applied := by
  rw [State.journalFull, State.faultStep_applied]
  exact State.applied_of_parts rfl

theorem State.journalNow_applied (s : State) (part dev : Nat) : (s.journalNow part dev).2.applied = s.applied := by
  unfold State.journalNow
  extract_lets -underBinder k sd
  split
  · rfl
  · split
    · exact s.journalFull_applied ..
    · rfl
    · exact State.applied_of_parts rfl

theorem State.place_applied (s : State) (x : Nat × List Byte) : (s.place x).applied = s.applied := by
  simp only [State.place]
  split
  · rfl
  · split
    · rfl
    · split
      · exact State.applied_of_parts (s.land_parts ..)
      · next part _ =>
        have hj := s.journalNow_applied part (x.1 / 64 * 64)
        split
        · next t hq =>
          rw [hq] at hj
          exact (State.applied_of_parts (t.land_parts ..)).trans hj
        · next t hq =>
          rw [hq] at hj
          exact hj
        · next t _ hq =>
          rw [hq] at hj
          exact hj

theorem State.writePart_applied (s : State) (part pa : Nat) (bs : List Byte) : (s.writePart part pa bs).applied = s.applied := by
  refine foldl_keeps State.applied _ (fun t p => ?_) _ s
  split
  · split
    · rfl
    · split
      · exact foldl_keeps State.applied _ State.place_applied _ t
      · exact State.applied_of_parts (t.land_parts ..)
  · rfl

theorem State.putConsts_applied (part : Nat) (l : List (Nat × List Byte)) (s : State) :
    (s.putConsts part l).2.applied = s.applied := by
  induction l generalizing s with
  | nil => rfl
  | cons c cs ih =>
    rw [State.putConsts]
    split
    · rfl
    · exact (ih _).trans (s.writePart_applied ..)

theorem State.takeGroups_parts (s : State) (part : Nat) (rs : List GroupRec) : (s.takeGroups part rs).parts = s.parts := by
  refine foldl_keeps State.parts _ (fun t r => ?_) _ s
  split <;> rfl

theorem State.installImage_applied (s : State) (part : Nat) (im : Image) :
    (s.installImage part im).applied part = (some im, 0) := by
  simp only [State.installImage]
  rw [State.applied_of_parts (State.takeGroups_parts ..), State.applied, State.part_setPart]

/-! ## The end of a load -/

theorem State.endLoad_inner (s : State) (part : Nat) (j : LoadJob) (st : PState) (code detail : Nat)
    (result : List (Nat × List Byte)) : (s.endLoad part j st code detail result).inner =
      (s.setPart part { s.part part with st := st, job := .idle }).inner := by
  simp only [State.endLoad]
  split
  · exact State.complete_inner ..
  · rw [State.reject_inner, State.complete_inner]

theorem State.endLoad_part (s : State) (part : Nat) (j : LoadJob) (st : PState) (code detail : Nat)
    (result : List (Nat × List Byte)) :
    (s.endLoad part j st code detail result).part part = { s.part part with st := st, job := .idle } := by
  rw [State.part_congr (State.parts_of_inner (s.endLoad_inner ..)), State.part_setPart]

/-- An application that a hardware fault ends leaves the partition in EMPTY without an image (R151). -/
theorem State.failApply_part (s : State) (part : Nat) (j : LoadJob) :
    let p := (s.failApply part j).part part
    p.job = .idle ∧ p.stepno = 0 ∧ p.st = .empty ∧ p.image = none := by
  simp only [State.failApply, State.endLoad_part, State.part_setPart]
  trivial

/-- What the application of an image leaves of its partition, by whether it has gone through. -/
theorem State.applyImage_part (s : State) (part : Nat) (j : LoadJob) (v : Valid) (hw : Bool) :
    let p := (s.applyImage part j v hw).part part
    let whole := !hw && ((s.installImage part v.im).putConsts part v.consts).1
    p.job = .idle ∧ p.stepno = 0 ∧ p.st = (if whole then .ready else .empty) ∧
      p.image = (if whole then some v.im else none) := by
  cases hw with
  | true => exact State.failApply_part _ part j
  | false =>
    have ha := congrFun (State.putConsts_applied part v.consts (s.installImage part v.im)) part
    rw [State.installImage_applied] at ha
    rcases hq : (s.installImage part v.im).putConsts part v.consts with ⟨whole, t⟩
    simp only [hq, State.applied, Prod.mk.injEq] at ha
    simp only [State.applyImage, hq, Bool.not_false, Bool.true_and, Bool.false_eq_true, if_false]
    cases whole with
    | true => simp [State.endLoad_part, ha]
    | false => exact State.failApply_part t part j

/-! ## The order, and the end of validation -/

/-- An order that finds a context free is taken, and tested by checks 1 and 2 of Table 6.8. -/
theorem exec_imageLoad_of (f k : Fin 64) (addr len : Word) (part : Nat) (s : State) (h : TenantOrder s f.val k.val part)
    (hl : s.loads < 4) : exec (.imageLoad f k addr len) s = .next (
      if !(s.part part).st.idleOne then (s.takeOrder f.val k.val).rejectLoad f.val k.val part stConflict (1 * 2 ^ 24)
      else if decide (0 < len.toNat) && !s.boxMaps part addr.toNat len.toNat false then
        (s.takeOrder f.val k.val).rejectLoad f.val k.val part stBounds (2 * 2 ^ 24)
      else (s.takeOrder f.val k.val).setPart part { s.part part with
        st := .loading, came := (s.part part).st, job := .load ⟨f.val, k.val, addr.toNat, len.toNat⟩ }) := by
  have hw : s.loadWaits = false := decide_eq_false (Nat.not_le.mpr hl)
  rw [exec_imageLoad, execImageLoad, hw, State.vfOrder_of _ _ _ _ _ _ h, if_neg Bool.false_ne_true, State.takeOrder_part,
    State.takeOrder_boxMaps]

section
variable (part : Fin 64) (hw : Bool) (wrong : List Nat) (s : State) (j : LoadJob) (hj : (s.part part.val).job = .load j)
include hj

/-- Where a channel that the image lies on is retraining, it is read later (R260). -/
theorem exec_imageValidationEnd_waits (hs : ¬ s.rangeServes part.val j.addr j.len = true) :
    exec (.imageValidationEnd part hw wrong) s = .next s := by
  rw [exec_imageValidationEnd, execImageValidationEnd]
  split
  · next j' hj' =>
    obtain rfl : j = j' := PJob.load.inj (hj.symm.trans hj')
    exact if_pos (by simpa using hs)
  · rfl

/-- Else the image that is read, its granules meeting the erroneous bytes named, is refused or applied (R147, R437). -/
theorem exec_imageValidationEnd_of (hs : s.rangeServes part.val j.addr j.len = true) (t : State)
    (x : List Byte × List (Nat × Nat))
    (ht : (s.fabricOn.fetchPart part.val j.addr j.len).meetPart part.val j.addr j.len wrong = t)
    (hx : t.readImage part.val j.addr j.len = x) :
    (∀ e, t.validate part.val x.1 x.2 = .error e → exec (.imageValidationEnd part hw wrong) s =
      .next (t.endLoad part.val j (s.part part.val).came e.code e.detail [])) ∧
    (∀ v, t.validate part.val x.1 x.2 = .ok v → exec (.imageValidationEnd part hw wrong) s =
      .next (t.applyImage part.val j v hw)) := by
  rw [exec_imageValidationEnd, execImageValidationEnd]
  split
  · next j' hj' =>
    obtain rfl : j = j' := PJob.load.inj (hj.symm.trans hj')
    rw [if_neg (by rw [hs]; decide), ht]
    extract_lets u y
    have hy : y = x := hx
    clear_value y
    rw [hy]
    exact ⟨fun e hv => by rw [hv], fun v hv => by rw [hv]⟩
  · next h => exact absurd hj (h j)

end

/-- Settles O33: the order's tests are made in their order; what validation finds ends the load, and an image that passes is
applied whole or, where a fault ends its application, not at all. -/
theorem imageLoads : Obligations.ImageLoads := by
  intro f k addr len part hw wrong s
  refine ⟨fun h => ?_, fun j hj => ?_⟩
  · intro s1 p maps
    have order := exec_imageLoad_of f k addr len _ s h
    have idle (hi : p.st.idleOne = true) : ¬ (!p.st.idleOne) = true := by rw [hi]; decide
    refine ⟨fun hl => ?_, fun hl hi => ?_, fun hl hi hm => ?_, fun hl hi hm => ?_⟩
    · rw [exec_imageLoad, execImageLoad, State.loadWaits, if_pos (decide_eq_true hl)]
    · rw [order hl, if_pos (by rw [hi]; rfl)]
    · obtain ⟨h0, hb⟩ := Classical.not_imp.mp hm
      rw [order hl, if_neg (idle hi), if_pos (by rw [decide_eq_true h0, Bool.eq_false_of_not_eq_true hb]; rfl)]
    · rw [order hl, if_neg (idle hi), if_neg]
      intro hq
      obtain ⟨h0, hb⟩ := Bool.and_eq_true_iff.mp hq
      rw [hm (of_decide_eq_true h0)] at hb
      exact Bool.false_ne_true hb
  · intro s1 x served
    have checked (hs : served) := exec_imageValidationEnd_of part hw wrong s j hj hs s1 x rfl rfl
    refine ⟨exec_imageValidationEnd_waits part hw wrong s j hj, fun hs e hv => ?_, fun hs v hv => ?_⟩
    · refine ⟨_, (checked hs).1 e hv, fun hb => ?_, rfl, ?_⟩
      · rw [State.mem_of_inner (s1.endLoad_inner ..), State.setPart_mem, State.meetPart_mem _ _ _ _ _ hb, State.fetchPart_mem,
          State.fabricOn_mem]
      · rw [State.endLoad_part]
        exact ⟨rfl, rfl⟩
    · exact ⟨_, (checked hs).2 v hv, rfl, State.applyImage_part s1 part.val j v hw⟩

end Sys2Proof.Machine

/-! # Orders of the operator (O58)

What an admitted message does, by its command: a creation and what it leaves in the owner records, the end of a partition and of
its rings, firmware and the anchor. -/

namespace Sys2Proof.Machine

/-! ## Admission, and the session of an admitted message -/

theorem Admitted.mono {s : State} {h : Mgmt} {lk rc lk' rc' : Bool} {x : Session} (ha : Admitted s h lk rc x)
    (hl : lk = true → lk' = true) (hr : rc = true → rc' = true) : Admitted s h lk' rc' x := by
  obtain ⟨h1, h2, h3, h4, h5, h6, h7, h8, h9⟩ := ha
  exact ⟨h1, h2, h3, h4, h5, h6, fun h => hl (h7 h), fun h => hr (h8 h), h9⟩

/-- A command that names something of the device, where neither R345 nor R352 bars it: the ownership test decides. -/
theorem State.commandOwn_of (s : State) (h : Mgmt) (x : Session) (own : State → Bool) (g : State → State)
    (ha : Admitted s h false false x) : s.commandOwn h own g =
      if own (heard s h x) then g (heard s h x) else (heard s h x).rejectMsg h 0xFF stOwnership := by
  have hl : s.il.locked = false := by
    obtain ⟨-, -, -, -, -, -, h7, -, -⟩ := ha
    exact Bool.eq_false_of_not_eq_true (fun hq => Bool.false_ne_true (h7 hq))
  have hb : (s.il.boot == .recovery) = false := by
    obtain ⟨-, -, -, -, -, -, -, h8, -⟩ := ha
    exact beq_false_of_ne (fun hq => Bool.false_ne_true (h8 hq))
  have hg : ((heard s h x).il.locked || (heard s h x).il.boot == .recovery) = false := by
    show (s.il.locked || s.il.boot == .recovery) = false
    rw [hl, hb]
    rfl
  rw [State.commandOwn, State.command_of _ _ _ _ x _ (ha.mono (fun _ => rfl) (fun _ => rfl)), hg]
  cases own (heard s h x) <;> rfl

theorem State.session_setSession (s : State) (i : Nat) (x y : Session) (h : s.session i = some x) :
    (s.setSession i (some y)).session i = some y := by
  have hi : i < s.il.sessions.length := by
    by_contra hn
    rw [State.session, List.getD_eq_default _ _ (Nat.not_lt.mp hn)] at h
    cases h
  rw [State.session, State.setSession, List.getD_eq_getElem _ _ (by simpa using hi), List.getElem_set_self]

theorem heard_session {s : State} {h : Mgmt} {x : Session} (hx : s.session h.sess.val = some x) :
    (heard s h x).session h.sess.val =
      some { x with rx := some h.seq, count := x.count + 1, last := max x.last h.tick } :=
  s.session_setSession _ x _ hx

/-! ## Replies -/

@[simp] theorem State.setSession_inner (s : State) (i : Nat) (x : Option Session) : (s.setSession i x).inner = s.inner := rfl

@[simp] theorem State.reply_inner (s : State) (h : Mgmt) (code : Nat) (data : List Nat) :
    (s.reply h code data).inner = s.inner := by
  unfold State.reply
  split <;> rfl

@[simp] theorem State.rejectMsg_inner (s : State) (h : Mgmt) (part code : Nat) : (s.rejectMsg h part code).inner = s.inner := by
  rw [State.rejectMsg, State.reject_inner, State.reply_inner]

@[simp] theorem State.answer_inner (s : State) (o : Origin) (code : Nat) (data : List Nat) :
    (s.answer o code data).inner = s.inner := by
  cases o with
  | slot f k => exact s.complete_inner ..
  | mgmt h => exact s.reply_inner ..

theorem State.edges_of_inner {s t : State} (h : t.inner = s.inner) : t.edges = s.edges :=
  show t.inner.edges = s.inner.edges from congrArg _ h

theorem State.ring_congr {s t : State} (h : t.rings = s.rings) (i : Nat) : t.ring i = s.ring i :=
  congrArg (fun l => Tab.get Ring.reset l i) h

theorem State.spans_of_inner {s t : State} (h : t.inner = s.inner) : t.spans = s.spans :=
  show t.inner.spans = s.inner.spans from congrArg _ h

theorem State.flash_of_inner {s t : State} (h : t.inner = s.inner) :
    t.il.flashA = s.il.flashA ∧ t.il.flashB = s.il.flashB :=
  ⟨show t.inner.il.flashA = s.inner.il.flashA from congrArg (·.il.flashA) h,
    show t.inner.il.flashB = s.inner.il.flashB from congrArg (·.il.flashB) h⟩

/-! ## Creation (R131) -/

@[simp] theorem mem_setIns (i j : Nat) (l : List Nat) : j ∈ setIns i l ↔ j = i ∨ j ∈ l := by
  induction l with
  | nil => simp [setIns]
  | cons k l ih =>
    rw [setIns]
    split
    · simp
    · split
      · subst_vars
        simp
      · simp only [List.mem_cons, ih]
        tauto

theorem mem_foldl_setIns (l acc : List Nat) (j : Nat) : j ∈ l.foldl (fun m r => setIns r m) acc ↔ j ∈ l ∨ j ∈ acc := by
  induction l generalizing acc with
  | nil => simp
  | cons k l ih =>
    rw [List.foldl_cons, ih, mem_setIns, List.mem_cons]
    tauto

/-- The owner records of the decks (R248). -/
def State.owners (s : State) (k : Nat) : Tab Nat := (s.deck k).owner

/-- Who holds what: the partitions and the owner records. -/
def State.holding (s : State) : Tab Partition × (Nat → Tab Nat) := (s.parts, s.owners)

theorem State.setSpan_holding (s : State) (k : Nat) (x : Span) (h : x.deck.owner = s.owners k) :
    (s.setSpan k x).holding = s.holding := by
  refine Prod.ext rfl (funext fun i => ?_)
  by_cases hi : i = k
  · subst hi
    exact (congrArg (·.deck.owner) (s.span_setSpan i x)).trans h
  · exact congrArg (·.deck.owner) (s.span_setSpan_ne k i x hi)

theorem State.setDeck_holding (s : State) (k : Nat) (d : Deck) (h : d.owner = s.owners k) :
    (s.setDeck k d).holding = s.holding := s.setSpan_holding k _ h

theorem State.zeroRegion_holding (s : State) (k r : Nat) : (s.zeroRegion k r).holding = s.holding :=
  State.setDeck_holding _ k _ rfl

/-- A deck that comes on, scrubbed or not, is held as before (R395). -/
theorem State.deckOn_holding (s : State) (k : Nat) : (s.deckOn k).holding = s.holding := by
  unfold State.deckOn
  extract_lets -underBinder d
  split
  · rfl
  · extract_lets -underBinder t u
    refine (u.setDeck_holding k _ ?same).trans ?_
    case same => rfl
    refine (foldl_keeps State.holding _ (fun t r => t.zeroRegion_holding k r) _ _).trans ?_
    exact s.setDeck_holding k _ rfl
  · exact s.setDeck_holding k _ rfl

theorem State.setEdge_holding (s : State) (die side : Nat) (e : Edge) : (s.setEdge die side e).holding = s.holding := rfl

theorem State.fabricOn_holding (s : State) : s.fabricOn.holding = s.holding := by
  unfold State.fabricOn
  split
  · rfl
  · refine (foldl_keeps State.holding _ (fun t die => foldl_keeps State.holding _ (fun u side => ?edge) _ t) _ _).trans
      ((foldl_keeps State.holding _ (fun t k => ?deck) _ _).trans rfl)
    case edge =>
      dsimp only
      split
      · exact u.setEdge_holding ..
      · rfl
    case deck =>
      dsimp only
      split
      · exact t.setDeck_holding k _ rfl
      · rfl

theorem State.wakeForGrant_holding (s : State) (k : Nat) : (s.wakeForGrant k).holding = s.holding := by
  unfold State.wakeForGrant
  split
  · rw [State.deckOn_holding, State.fabricOn_holding]
  · split
    · exact s.deckOn_holding k
    · rfl

/-- A region is granted: its deck wakes, and its owner record names the partition. -/
def State.grant (id : Nat) (s : State) (x : Nat × Nat) : State :=
  let t := s.wakeForGrant x.1
  t.setDeck x.1 { t.deck x.1 with owner := Tab.ins x.2 (id + 1) (t.deck x.1).owner }

theorem State.grant_parts (id : Nat) (s : State) (x : Nat × Nat) : (s.grant id x).parts = s.parts :=
  congrArg Prod.fst (s.wakeForGrant_holding x.1)

theorem State.grant_owner_same (id : Nat) (s : State) (x : Nat × Nat) : Tab.get 0 ((s.grant id x).owners x.1) x.2 = id + 1 := by
  rw [State.grant, State.owners, State.deck_setDeck, Tab.get_ins_same]

theorem State.grant_owner_ne (id : Nat) (s : State) (x y : Nat × Nat) (h : y ≠ x) :
    Tab.get 0 ((s.grant id x).owners y.1) y.2 = Tab.get 0 (s.owners y.1) y.2 := by
  rw [← show (s.wakeForGrant x.1).owners = s.owners from congrArg Prod.snd (s.wakeForGrant_holding x.1)]
  by_cases h1 : y.1 = x.1
  · have h2 : y.2 ≠ x.2 := fun h2 => h (Prod.ext h1 h2)
    rw [h1, State.grant, State.owners, State.deck_setDeck, Tab.get_ins_ne _ _ _ _ _ h2, State.owners]
  · rw [State.grant, State.owners, State.deck_setDeck_ne _ _ _ _ h1, State.owners]

/-- Once all of a list of regions are granted, the owner record of each names the partition. -/
theorem State.foldl_grant_owner (id : Nat) (l : List (Nat × Nat)) (s : State) (y : Nat × Nat)
    (h : y ∈ l ∨ Tab.get 0 (s.owners y.1) y.2 = id + 1) : Tab.get 0 ((l.foldl (State.grant id) s).owners y.1) y.2 = id + 1 := by
  induction l generalizing s with
  | nil => exact h.resolve_left (by simp)
  | cons x l ih =>
    refine ih (s.grant id x) ?_
    by_cases hx : y = x
    · rw [hx]
      exact .inr (s.grant_owner_same id x)
    · rw [s.grant_owner_ne id x y hx]
      exact h.imp_left (fun hm => (List.mem_cons.mp hm).resolve_left hx)

theorem State.newWork_holding (s : State) (id k : Nat) : (s.newWork id k).holding = s.holding := s.setSpan_holding k _ rfl

/-- A partition as it comes into being: asleep, in EMPTY, with its rings and regions (R131). -/
def Partition.created (p : Partition) (rings : List Nat) (regions : List (Nat × Nat)) : Partition :=
  { Partition.reset with
    st := .empty, came := .empty, tenancy := p.tenancy
    rings := rings.foldl (fun l r => setIns r l) []
    regions := regions.foldl (fun l x => setIns (x.1 * 256 + x.2) l) [] }

theorem State.createPart_holding (s : State) (id : Nat) (rings : List Nat) (regions : List (Nat × Nat)) :
    (s.createPart id rings regions).holding =
      (regions.foldl (State.grant id) (s.setPart id ((s.part id).created rings regions))).holding :=
  foldl_keeps State.holding (State.newWork · id) (fun t k => t.newWork_holding id k) _ _

theorem State.createPart_part (s : State) (id : Nat) (rings : List Nat) (regions : List (Nat × Nat)) :
    (s.createPart id rings regions).part id = (s.part id).created rings regions := by
  have hp := (congrArg Prod.fst (s.createPart_holding id rings regions)).trans
    (foldl_keeps State.parts (State.grant id) (State.grant_parts id) _ _)
  rw [State.part_congr hp, State.part_setPart]

theorem State.createPart_owner (s : State) (id : Nat) (rings : List Nat) (regions : List (Nat × Nat)) (x : Nat × Nat)
    (hx : x ∈ regions) : Tab.get 0 ((s.createPart id rings regions).owners x.1) x.2 = id + 1 := by
  have ho := congrFun (congrArg Prod.snd (s.createPart_holding id rings regions)) x.1
  exact (congrArg (Tab.get 0 · x.2) ho).trans (State.foldl_grant_owner id regions _ x (.inl hx))

/-! ## What an ending partition shows the rest of the device (R133, R338) -/

@[simp] theorem State.closeOrders_inner (s : State) (part f taken : Nat) : (s.closeOrders part f taken).inner = s.inner := by
  refine foldl_keeps State.inner _ (fun t k => ?_) _ s
  split
  · exact t.completeBad_inner ..
  · exact t.completeBad_inner ..
  · rfl

@[simp] theorem State.overtake_inner (s : State) (part : Nat) : (s.overtake part).inner = s.inner := by
  unfold State.overtake
  split
  · exact s.completeBad_inner ..
  · rfl

theorem State.answerHalts_inner (s : State) (part : Nat) (slots : Bool) :
    (s.answerHalts part slots).inner = (s.setPart part { s.part part with halts := [] }).inner := by
  refine foldl_keeps State.inner _ (fun t o => ?_) _ _
  split
  · split
    · exact t.answer_inner ..
    · rfl
  · exact t.answer_inner ..

/-- The orders of a partition's tenant are closed. -/
def State.tenantClosed (s : State) (part : Nat) : State :=
  match (s.part part).vf with
  | some f => s.closeOrders part f stConflict
  | none => s

theorem State.tenantClosed_inner (s : State) (part : Nat) : (s.tenantClosed part).inner = s.inner := by
  unfold State.tenantClosed
  split
  · exact s.closeOrders_inner ..
  · rfl

/-- An accepted end before its rings stand still: orders and halts are answered, the job is begun, and the rings have their
reports. -/
def State.announceEnd (s : State) (part : Nat) (job : PJob) (st : PState) : State :=
  let t := (s.tenantClosed part).answerHalts part false
  (t.setPart part { t.part part with job := job, st := st }).reportAll part

theorem State.beginEnd_eq (s : State) (part : Nat) (job : PJob) (st : PState) :
    s.beginEnd part job st = (s.announceEnd part job st).proceed part := rfl

theorem State.reportAll_edges (s : State) (part : Nat) : (s.reportAll part).edges = s.edges :=
  foldl_keeps State.edges (fun s i => s.setRing i (s.ring i).receiveReport) (fun _ _ => rfl) _ s

theorem Ring.receiveReport_still (r : Ring) : r.receiveReport.still = r.still := by
  unfold Ring.receiveReport
  split <;> rfl

theorem State.reportAll_still (s : State) (part i : Nat) : ((s.reportAll part).ring i).still = (s.ring i).still := by
  rw [State.ring_reportAll]
  split
  · exact (s.ring i).receiveReport_still
  · rfl

/-- The end begins; the rest of the partition, the routers, and what stands still are as before. -/
theorem State.announceEnd_keeps (s : State) (part : Nat) (job : PJob) (st : PState) :
    (s.announceEnd part job st).part part = { s.part part with halts := [], job := job, st := st } ∧
      (s.announceEnd part job st).edges = s.edges ∧ (s.announceEnd part job st).allStill part = s.allStill part := by
  have ha := (s.tenantClosed part).answerHalts_inner part false
  have hc := s.tenantClosed_inner part
  have hp : ((s.tenantClosed part).answerHalts part false).part part = { s.part part with halts := [] } := by
    rw [State.part_congr (State.parts_of_inner ha), State.part_setPart, State.part_congr (State.parts_of_inner hc)]
  have hr (i : Nat) : ((s.tenantClosed part).answerHalts part false).ring i = s.ring i :=
    State.ring_congr ((State.rings_of_inner ha).trans ((State.setPart_rings ..).trans (State.rings_of_inner hc))) i
  have hq : (s.announceEnd part job st).part part = { s.part part with halts := [], job := job, st := st } := by
    rw [State.announceEnd, State.part_congr (State.reportAll_parts ..), State.part_setPart, hp]
  refine ⟨hq, ?_, ?_⟩
  · exact (State.reportAll_edges ..).trans ((State.edges_of_inner ha).trans
      ((State.setPart_edges ..).trans (State.edges_of_inner hc)))
  · rw [State.allStill, hq, State.allStill]
    refine congrArg ((s.part part).rings.all ·) (funext fun i => ?_)
    rw [State.announceEnd, State.reportAll_still, State.ring_setPart, hr]

/-! ## Rings go off, and the end goes on -/

theorem State.takeWork_parts (s : State) (k : Nat) : (s.takeWork k).parts = s.parts := by
  unfold State.takeWork
  dsimp only
  split
  · rfl
  · split <;> rfl

theorem State.takeWork_edges (s : State) (k : Nat) : (s.takeWork k).edges = s.edges := by
  unfold State.takeWork
  dsimp only
  split
  · rfl
  · split <;> rfl

theorem State.takeWork_ring_ne (s : State) (k i : Nat) (h : i ≠ k) : (s.takeWork k).ring i = s.ring i := by
  unfold State.takeWork
  dsimp only
  split
  · rfl
  · split <;> exact s.ring_setRing_ne k i _ h

theorem State.saveStreams_eq (s : State) (k : Nat) : ∃ m, s.saveStreams k = { s with srCopy := m } := ⟨_, rfl⟩

/-- A ring's power switch opens: the ring is off, and partitions, routers and the other rings are as before. -/
theorem State.ringOff_keeps (s : State) (k : Nat) : (s.ringOff k).parts = s.parts ∧ (s.ringOff k).edges = s.edges ∧
    ((s.ringOff k).ring k).awake = false ∧ ∀ i, i ≠ k → (s.ringOff k).ring i = s.ring i := by
  unfold State.ringOff
  dsimp only
  split
  · next ha => exact ⟨rfl, rfl, by simpa using ha, fun _ _ => rfl⟩
  · obtain ⟨m, hm⟩ := (s.takeWork k).saveStreams_eq k
    rw [hm]
    refine ⟨s.takeWork_parts k, s.takeWork_edges k, ?_, fun i hi => ?_⟩
    · rw [State.ring_setRing]
      rfl
    · rw [State.ring_setRing_ne _ _ _ _ hi]
      exact s.takeWork_ring_ne k i hi

theorem State.ringsOff_keeps (s : State) (l : List Nat) : (s.ringsOff l).parts = s.parts ∧ (s.ringsOff l).edges = s.edges :=
  ⟨foldl_keeps State.parts _ (fun t k => (t.ringOff_keeps k).1) l s,
    foldl_keeps State.edges _ (fun t k => (t.ringOff_keeps k).2.1) l s⟩

theorem State.ringsOff_awake (l : List Nat) (s : State) (i : Nat) (hi : i ∈ l ∨ (s.ring i).awake = false) :
    ((s.ringsOff l).ring i).awake = false := by
  induction l generalizing s with
  | nil => exact hi.resolve_left (by simp)
  | cons k l ih =>
    obtain ⟨-, -, hk, hne⟩ := s.ringOff_keeps k
    refine ih (s.ringOff k) ?_
    by_cases h : i = k
    · rw [h]
      exact .inr hk
    · rw [hne i h]
      exact hi.imp_left (fun hm => (List.mem_cons.mp hm).resolve_left h)

theorem State.startScrub_keeps (s : State) (l : List (Nat × Nat)) :
    (s.startScrub l).parts = s.parts ∧ (s.startScrub l).rings = s.rings ∧ (s.startScrub l).edges = s.edges :=
  ⟨foldl_keeps State.parts _ (fun _ _ => by rfl) l s, foldl_keeps State.rings _ (fun _ _ => by rfl) l s,
    foldl_keeps State.edges _ (fun _ _ => by rfl) l s⟩

/-- Where a teardown is under way, the rings go off and its last steps follow (R133). -/
theorem State.powerOffEnd_of_teardown (s : State) (part : Nat) (h : Mgmt) (off : Bool) (hj : (s.part part).job = .teardown h off) :
    ∃ u : State, s.powerOffEnd part = u.finishEnd part ∧ u.part part = { s.part part with job := .teardown h true } ∧
      u.edges = s.edges ∧ ∀ r ∈ (s.part part).rings, (u.ring r).awake = false := by
  obtain ⟨hp, he⟩ := s.ringsOff_keeps (s.part part).rings
  let t := s.ringsOff (s.part part).rings
  let v := t.setPart part { t.part part with job := .teardown h true }
  obtain ⟨vp, vr, ve⟩ := v.startScrub_keeps (s.part part).regionPairs
  refine ⟨v.startScrub (s.part part).regionPairs, ?_, ?_, ve.trans he, fun r hr => ?_⟩
  · simp only [State.powerOffEnd, hj, v, t]
  · rw [State.part_congr vp, State.part_setPart, State.part_congr hp]
  · rw [State.ring_congr vr]
    exact State.ringsOff_awake _ s r (.inl hr)

/-! ## The last steps of an end (R133, R338, R362) -/

theorem State.meterEvent_parts (s : State) (ev : PEvent) (part : Nat) (l : List Nat) :
    (s.meterEvent ev part l).parts = s.parts := rfl

theorem State.beginTenancy_rings (s : State) (part vf : Nat) : (s.beginTenancy part vf).rings = s.rings := rfl

theorem State.zeroStreams_rings (s : State) (l : List Nat) : (s.zeroStreams l).rings = s.rings :=
  foldl_keeps State.rings _ (fun _ _ => by rfl) l s

theorem State.settleVfs_rings (s : State) : s.settleVfs.rings = s.rings := by
  unfold State.settleVfs
  split <;> rfl

theorem State.freeGroups_rings (s : State) (part : Nat) : (s.freeGroups part).rings = s.rings := rfl

theorem State.freeSiding_rings (s : State) (part : Nat) : (s.freeSiding part).rings = s.rings := rfl

theorem State.clearTenancy_rings (s : State) (part : Nat) : (s.clearTenancy part).rings = s.rings := by
  have hz := (((s.freeGroups part).freeSiding part).zeroStreams_rings (s.part part).rings).trans
    ((State.freeSiding_rings ..).trans (s.freeGroups_rings part))
  unfold State.clearTenancy
  dsimp only
  rw [State.settleVfs_rings, State.setPart_rings]
  split
  · rw [State.setFn_rings, hz]
  · exact hz

theorem State.restFree_keeps (s : State) : s.restFree.rings = s.rings ∧ s.restFree.parts = s.parts := by
  unfold State.restFree
  split
  · refine ⟨foldl_keeps State.rings _ (fun t k => ?_) _ s, foldl_keeps State.parts _ (fun t k => ?_) _ s⟩
    all_goals
      dsimp only
      split <;> rfl
  · exact ⟨rfl, rfl⟩

theorem State.release_rings (s : State) (part : Nat) : (s.release part).rings = s.rings :=
  (State.restFree_keeps _).1.trans (foldl_keeps State.rings _ (fun _ _ => by rfl) _ s)

/-- A partition that is released is gone. -/
theorem State.release_st (s : State) (part : Nat) : ((s.release part).part part).st = .absent := by
  obtain ⟨u, hu⟩ : ∃ u : State, s.release part =
      (u.setPart part { Partition.reset with tenancy := (s.part part).tenancy }).restFree.meterEvent .teardown part
        (s.part part).rings := ⟨_, rfl⟩
  rw [hu, State.part_congr (State.meterEvent_parts ..), State.part_congr (State.restFree_keeps _).2, State.part_setPart]
  rfl

theorem State.finishEnd_rings (s : State) (part : Nat) : (s.finishEnd part).rings = s.rings := by
  unfold State.finishEnd
  split
  · split
    · rfl
    · rw [State.rings_of_inner (State.reply_inner ..), State.release_rings, State.clearTenancy_rings]
  · split
    · rfl
    · extract_lets -underBinder t u
      have ht : t.rings = s.rings := s.clearTenancy_rings part
      have hu : u.rings = s.rings := by
        unfold u
        split
        · rw [State.beginTenancy_rings, ht]
        · exact ht
      split
      · rw [State.rings_of_inner (State.complete_inner ..), hu]
      · exact hu
  · rfl

theorem State.inRouters_congr {s t : State} (h : t.edges = s.edges) (part : Nat) : t.inRouters part = s.inRouters part :=
  congrArg (·.any (fun e => e.2.held.any (fun f => f.2.part.toNat == part))) h

/-- A teardown whose rings are off ends at once where there is no region to scrub and no flit in a router. -/
theorem State.finishEnd_absent (s : State) (part : Nat) (h : Mgmt) (hj : (s.part part).job = .teardown h true)
    (hr : (s.part part).regions = []) (hi : s.inRouters part = false) : ((s.finishEnd part).part part).st = .absent := by
  have hl : s.lingers part = false := by
    rw [State.lingers, hi, State.scrubbing, Partition.regionPairs, hr]
    rfl
  unfold State.finishEnd
  rw [hj]
  dsimp only
  rw [if_neg (by rw [hl]; decide), State.part_congr (State.parts_of_inner (State.reply_inner ..))]
  exact (s.clearTenancy part).release_st part

/-- A teardown whose rings stand still, with no region to scrub and no flit in a router, ends at once. -/
theorem State.beginEnd_absent (s : State) (part : Nat) (h : Mgmt) (hs : s.allStill part = true) (hr : (s.part part).regions = [])
    (hi : s.inRouters part = false) : ((s.beginEnd part (.teardown h false) .teardown).part part).st = .absent := by
  obtain ⟨hp, he, ha⟩ := s.announceEnd_keeps part (.teardown h false) .teardown
  rw [State.beginEnd_eq]
  generalize s.announceEnd part (.teardown h false) .teardown = t at hp he ha
  have hj : (t.part part).job = .teardown h false := by rw [hp]
  obtain ⟨u, hu, up, ue, -⟩ := t.powerOffEnd_of_teardown part h false hj
  have hq : t.proceed part = t.powerOffEnd part := by
    unfold State.proceed
    rw [hj]
    exact if_pos (ha.trans hs)
  rw [hq, hu]
  refine u.finishEnd_absent part h (by rw [up]) (by rw [up, hp]; exact hr) ?_
  rw [State.inRouters_congr (ue.trans he), hi]

theorem State.allStill_of_inner {s t : State} (h : t.inner = s.inner) (part : Nat) : t.allStill part = s.allStill part := by
  rw [State.allStill, State.part_congr (State.parts_of_inner h), State.allStill]
  exact congrArg _ (funext fun i => by rw [State.ring_congr (State.rings_of_inner h)])

/-! ## Firmware (R353, R409) -/

theorem State.writeSlot_flash (s : State) (im : FwImage) :
    (s.il.slotB = true → (s.writeSlot im).il.flashA = some im ∧ (s.writeSlot im).il.flashB = s.il.flashB) ∧
    (s.il.slotB = false → (s.writeSlot im).il.flashB = some im ∧ (s.writeSlot im).il.flashA = s.il.flashA) := by
  refine ⟨fun hb => ?_, fun hb => ?_⟩
  · simp only [State.writeSlot, hb, if_true, and_self]
  · simp only [State.writeSlot, hb, Bool.false_eq_true, if_false, and_self]

/-- What a slot holds while it is being written verifies nowhere (R409). -/
theorem Interlock.verifies_partly (y : Interlock) (im : FwImage) : y.verifies (partly im) = false := by
  simp [Interlock.verifies, partly]

theorem slotMax_eq : slotMax = 33554432 := rfl

section
variable (s : State) (h : Mgmt) (l : List (Nat × List Byte)) (im : FwImage) (cut : Bool)
  (hw : l.head?.map (·.1) = some 0) (hs : s.il.signed im = true)
include hw hs

/-- A whole and signed image that is not below the floor and fits is written to the slot that did not boot. -/
theorem State.updateFirmware_flash (hf : s.il.floor ≤ im.svn) (hl : (chunkBytes l).length ≤ 33554432) :
    let new := if cut = true then partly im else im
    let t := s.updateFirmware h l im cut
    (s.il.slotB = true → t.il.flashA = some new ∧ t.il.flashB = s.il.flashB) ∧
      (s.il.slotB = false → t.il.flashB = some new ∧ t.il.flashA = s.il.flashA) := by
  have hn : ¬ (im.svn < s.il.floor ∨ slotMax < (chunkBytes l).length) := by
    rw [slotMax_eq]
    omega
  unfold State.updateFirmware
  simp only [hw, hs, hn, decide_true, Bool.not_true, Bool.or_false, Bool.false_eq_true, if_false]
  cases cut with
  | true => exact s.writeSlot_flash (partly im)
  | false =>
    obtain ⟨ha, hb⟩ := State.flash_of_inner ((s.writeSlot im).reply_inner h stOk [])
    simp only [Bool.false_eq_true, if_false, ha, hb]
    exact s.writeSlot_flash im

/-- One that is below the floor, or does not fit, is refused, and the slots stay. -/
theorem State.updateFirmware_refused (hb : im.svn < s.il.floor ∨ 33554432 < (chunkBytes l).length) :
    (s.updateFirmware h l im cut).il.flashA = s.il.flashA ∧ (s.updateFirmware h l im cut).il.flashB = s.il.flashB := by
  rw [← slotMax_eq] at hb
  unfold State.updateFirmware
  simp only [hw, hs, hb, decide_true, Bool.not_true, Bool.or_false, Bool.false_eq_true, if_false, if_true]
  exact State.flash_of_inner (s.rejectMsg_inner ..)

end

/-- The device once a message with a chunk has been admitted, its session holding the chunks listed. -/
def State.chunked (s : State) (h : Mgmt) (x : Session) (l : List (Nat × List Byte)) : State :=
  (heard s h x).setSession h.sess.val
    (some { x with rx := some h.seq, count := x.count + 1, last := max x.last h.tick, chunks := l })

theorem State.chunked_il (s : State) (h : Mgmt) (x : Session) (l : List (Nat × List Byte)) :
    ∃ sessions, (s.chunked h x l).il = { s.il with sessions := sessions } := ⟨_, rfl⟩

/-- A chunk of an admitted message joins those of its session; the last one brings the update. -/
theorem exec_fwChunk_of (s : State) (h : Mgmt) (x : Session) (o : Nat) (data : List Byte) (last : Bool) (im : FwImage) (cut : Bool)
    (ha : Admitted s h false false x) : exec (.fwChunk h o data last im cut) s = .next (
      if chunkMax < data.length then (heard s h x).rejectMsg h 0xFF stFormat
      else
        let l := addChunk x.chunks o data
        let t := s.chunked h x (if last then [] else l)
        if last then t.updateFirmware h l im cut else t.reply h stOk []) := by
  obtain ⟨-, hx, -⟩ := id ha
  rw [exec_fwChunk, execFwChunk, State.command_of _ _ _ _ x _ (ha.mono id (fun _ => rfl)), heard_session hx]
  rfl

/-! ## The commands -/

section
variable {s : State} {h : Mgmt} {x : Session}

theorem heard_createOwn (s : State) (h : Mgmt) (x : Session) (rings : List Nat) (regions : List (Nat × Nat)) :
    (heard s h x).createOwn rings regions = s.createOwn rings regions := rfl

/-- A creation that is admitted: the ownership test, what else forbids it, or the partition comes into being (R131, R336). -/
theorem exec_create_of (ha : Admitted s h false false x) (want : Byte) (rings : List Nat) (regions : List (Nat × Nat)) :
    (s.createOwn rings regions = false →
      exec (.create h want rings regions) s = .next ((heard s h x).rejectMsg h 0xFF stOwnership)) ∧
    (∀ code, s.createOwn rings regions = true → s.createBad want.toNat rings regions = some code →
      exec (.create h want rings regions) s = .next ((heard s h x).rejectMsg h 0xFF code)) ∧
    (∀ id, s.createOwn rings regions = true → s.createBad want.toNat rings regions = none → s.newIdent want.toNat = some id →
      exec (.create h want rings regions) s = .next (((heard s h x).createPart id rings regions).reply h stOk [id])) := by
  rw [exec_create, execCreate, State.commandOwn_of _ _ x _ _ ha, heard_createOwn, heard_createBad, heard_newIdent]
  refine ⟨fun hown => ?_, fun code hown hbad => ?_, fun id hown hbad hid => ?_⟩
  · rw [if_neg (by rw [hown]; decide)]
  · rw [if_pos hown, hbad]
  · rw [if_pos hown, hbad, hid, Option.getD_some]

/-- A partition that has come into being, once the reply is on its way. -/
theorem created_of (s : State) (h : Mgmt) (id : Nat) (rings : List Nat) (regions : List (Nat × Nat)) :
    let t := (s.createPart id rings regions).reply h stOk [id]
    (t.part id).st = .empty ∧ (t.part id).vf = none ∧ (∀ r, r ∈ (t.part id).rings ↔ r ∈ rings) ∧
      ∀ r ∈ regions, Tab.get 0 (t.deck r.1).owner r.2 = id + 1 := by
  intro t
  have hi : t.inner = (s.createPart id rings regions).inner := State.reply_inner ..
  have hp : t.part id = (s.part id).created rings regions :=
    (State.part_congr (State.parts_of_inner hi) id).trans (s.createPart_part id rings regions)
  refine ⟨congrArg _ hp, congrArg _ hp, fun r => ?_, fun r hr => ?_⟩
  · rw [hp]
    exact (mem_foldl_setIns rings [] r).trans (by simp)
  · refine Eq.trans ?_ (s.createPart_owner id rings regions r hr)
    exact congrArg (fun l => Tab.get 0 (Tab.get Span.reset l r.1).deck.owner r.2) (State.spans_of_inner hi)

theorem exec_halt_of (ha : Admitted s h false false x) (part : Fin 64) : exec (.halt (.mgmt h) part) s = .next (
    if (s.part part.val).st = .running then (heard s h x).haltPart part.val [.mgmt h]
    else (heard s h x).rejectMsg h part.val stConflict) := by
  rw [exec_halt, execHalt, State.command_of _ _ _ _ x _ ha, heard_part]

theorem exec_svnCommit_of (ha : Admitted s h false false x) : exec (.svnCommit h) s = .next (
    if s.il.svn ≤ s.il.floor then (heard s h x).rejectMsg h 0xFF stConflict
    else if 63 < s.il.svn then (heard s h x).rejectMsg h 0xFF stBounds
    else ({ heard s h x with il := { (heard s h x).il with floor := s.il.svn } } : State).reply h stOk []) := by
  rw [exec_svnCommit, execSvnCommit, State.command_of _ _ _ _ x _ ha]
  rfl

theorem exec_lifecycle_of (ha : Admitted s h false false x) (target : BitVec 2) (token : List Byte) :
    (s.lifecycleBad target.toNat true true = none →
      exec (.lifecycle h target true true true token) s = .next (({ heard s h x with il := { (heard s h x).il with
        lc := target.toNat, attested := s.il.attested && decide (target ≠ 3) } } : State).reply h stOk [])) ∧
    (∀ code, s.lifecycleBad target.toNat true true = some code →
      exec (.lifecycle h target true true true token) s = .next ((heard s h x).rejectMsg h 0xFF code)) := by
  rw [exec_lifecycle, execLifecycle, State.command_of _ _ _ _ x _ ha, heard_lifecycleBad, Bool.and_self]
  exact ⟨fun hbad => by rw [hbad, heard_attested], fun code hbad => by rw [hbad]⟩

theorem exec_anchor_of (ha : Admitted s h false false x) (hn : s.il.anchor ≠ none) (cert : List Byte) (signed : Bool) :
    exec (.anchor h cert signed) s = .next (
      if signed then ({ heard s h x with il := { (heard s h x).il with anchor := some cert } } : State).reply h stOk []
      else (heard s h x).rejectMsg h 0xFF stOwnership) := by
  obtain ⟨c, hc⟩ := Option.ne_none_iff_exists'.mp hn
  rw [exec_anchor, execAnchor, hc]
  exact congrArg _ (State.commandOwn_of _ _ x _ _ ha)

theorem exec_teardown_of (ha : Admitted s h true false x) (part : Fin 64) : exec (.teardown h part) s = .next (
    if (s.part part.val).st = .absent ∨ (s.part part.val).st = .teardown then (heard s h x).rejectMsg h part.val stConflict
    else ((heard s h x).overtake part.val).beginEnd part.val (.teardown h false) .teardown) := by
  rw [exec_teardown, execTeardown, State.command_of _ _ _ _ x _ ha, heard_part]
  split
  · next hst => rw [if_pos (.inl hst)]
  · next hst => rw [if_pos (.inr hst)]
  · next habsent htorn => rw [if_neg (fun hst => hst.elim habsent htorn)]

/-- A teardown that is admitted begins, and is over where nothing keeps it waiting. -/
theorem teardown_begins (ha : Admitted s h true false x) (part : Fin 64) (h1 : (s.part part.val).st ≠ .absent)
    (h2 : (s.part part.val).st ≠ .teardown) : ∃ t, exec (.teardown h part) s = .next t ∧
      t = ((heard s h x).overtake part.val).beginEnd part.val (.teardown h false) .teardown ∧
      (s.allStill part.val = true → (s.part part.val).regions = [] → s.inRouters part.val = false →
        (t.part part.val).st = .absent) := by
  refine ⟨_, (exec_teardown_of ha part).trans (congrArg _ (if_neg (fun hst => hst.elim h1 h2))), rfl, fun hs hr hi => ?_⟩
  have ho := (heard s h x).overtake_inner part.val
  refine State.beginEnd_absent _ part.val h ?_ ?_ ?_
  · rw [State.allStill_of_inner ho, heard_allStill, hs]
  · rw [State.part_congr (State.parts_of_inner ho), heard_part, hr]
  · rw [State.inRouters_congr (State.edges_of_inner ho)]
    exact hi

/-- The chunks of a firmware image, and what its last one does (R353, R409). -/
theorem firmware_chunks (ha : Admitted s h false false x) (o : Nat) (data : List Byte) (im : FwImage) (cut : Bool)
    (hd : data.length ≤ 61440) :
    exec (.fwChunk h o data false im cut) s = .next (((heard s h x).setSession h.sess.val (some { x with
      rx := some h.seq, count := x.count + 1, last := max x.last h.tick, chunks := addChunk x.chunks o data })).reply h stOk []) ∧
    ((addChunk x.chunks o data).head?.map (·.1) = some 0 → s.il.signed im = true →
      let size := (chunkBytes (addChunk x.chunks o data)).length
      (s.il.floor ≤ im.svn → size ≤ 33554432 → ∃ t, exec (.fwChunk h o data true im cut) s = .next t ∧
        let new := if cut = true then partly im else im
        (s.il.slotB = true → t.il.flashA = some new ∧ t.il.flashB = s.il.flashB) ∧
          (s.il.slotB = false → t.il.flashB = some new ∧ t.il.flashA = s.il.flashA)) ∧
      (im.svn < s.il.floor ∨ 33554432 < size →
        ∃ t, exec (.fwChunk h o data true im cut) s = .next t ∧ t.il.flashA = s.il.flashA ∧ t.il.flashB = s.il.flashB)) := by
  have chunk (last : Bool) := (exec_fwChunk_of s h x o data last im cut ha).trans
    (congrArg _ (if_neg (show ¬ chunkMax < data.length from Nat.not_lt.mpr hd)))
  refine ⟨chunk false, fun hw hs => ?_⟩
  obtain ⟨sessions, hil⟩ := s.chunked_il h x []
  have update := chunk true
  simp only [if_true] at update
  generalize s.chunked h x [] = t at hil update
  have hs' : t.il.signed im = true := by rw [hil]; exact hs
  have flash := t.updateFirmware_flash h _ im cut hw hs'
  have refused := t.updateFirmware_refused h _ im cut hw hs'
  rw [hil] at flash refused
  exact ⟨fun hf hl => ⟨_, update, flash hf hl⟩, fun hb => ⟨_, update, refused hb⟩⟩

end

/-- The first anchor needs no session, but the land PROV_EN (R367). -/
theorem exec_anchor_first (s : State) (h : Mgmt) (cert : List Byte) (hn : s.il.anchor = none) (hb : s.il.boot = .booted)
    (hl : s.il.locked = false) (hp : s.lands.provEn = true) : exec (.anchor h cert false) s =
      .next (({ s.rouse with il := { s.il with anchor := some cert } } : State).reply h stOk []) := by
  have hp' : s.rouse.lands.provEn = true := hp
  have hb' : s.rouse.il.boot = .booted := hb
  have hl' : s.rouse.il.locked = false := hl
  rw [exec_anchor, execAnchor, hn]
  dsimp only
  rw [if_neg (by rw [hb]; decide), if_neg (by rw [hp']; decide), if_neg (by rw [hl', hb']; decide)]
  rfl

/-- Where no hold has been reached in time, a teardown turns the rings off (R133 step 1). -/
theorem exec_teardownHaltTimeout_of (s : State) (part : Fin 64) (h : Mgmt) (hj : (s.part part.val).job = .teardown h false) :
    exec (.teardownHaltTimeout part) s = .next (s.rouse.powerOffEnd part.val) ∧
      ∀ r ∈ (s.part part.val).rings, ((s.rouse.powerOffEnd part.val).ring r).awake = false := by
  refine ⟨by rw [exec_teardownHaltTimeout, execTeardownHaltTimeout, hj], fun r hr => ?_⟩
  obtain ⟨u, hu, -, -, off⟩ := s.rouse.powerOffEnd_of_teardown part.val h false hj
  rw [hu, State.ring_congr (u.finishEnd_rings part.val)]
  exact off r hr

/-- Settles O58: each message is admitted, and its command is the branch of its equation that the state and the operands pick. -/
theorem managementOrders : Obligations.ManagementOrders := by
  intro h x want rings regions part o n data token cert im cut target page s s1 p ok bad
  refine ⟨fun ha => ⟨?create, ?createBad, ?created, ?halts, ?haltBad, ?partitions, ?chunks, ?chunkBad, ?svnBad, ?svn, ?lifecycle,
    ?lifecycleBad, ?anchor, ?eventlog, ?record, ?reg, ?regBad⟩, fun ha => ⟨?tornBad, ?torn, ?reset, ?telemetry⟩,
    exec_anchor_first s h cert, ?timeout⟩
  case create => exact (exec_create_of ha want rings regions).1
  case createBad => exact (exec_create_of ha want rings regions).2.1
  case created =>
    obtain ⟨-, -, made⟩ := exec_create_of ha want rings regions
    exact fun id hown hbad hid => ⟨_, made id hown hbad hid, rfl, created_of s1 h id rings regions⟩
  case halts => exact fun hst => (exec_halt_of ha part).trans (congrArg _ (if_pos hst))
  case haltBad => exact fun hst => (exec_halt_of ha part).trans (congrArg _ (if_neg hst))
  case partitions => rw [exec_partitions, execPartitions, State.command_of _ _ _ _ x _ ha, heard_parts]
  case chunks =>
    intro hd
    obtain ⟨hchunk, hlast⟩ := firmware_chunks ha o data im cut hd
    refine ⟨hchunk, fun hw hs => ?_⟩
    obtain ⟨hfits, hrefused⟩ := hlast hw hs
    exact ⟨fun hf hl => ⟨hfits hf hl, fun y => y.verifies_partly im⟩, hrefused⟩
  case chunkBad => exact fun hd last => (exec_fwChunk_of s h x o data last im cut ha).trans (congrArg _ (if_pos hd))
  case svnBad => exact fun hle => (exec_svnCommit_of ha).trans (congrArg _ (if_pos hle))
  case svn =>
    intro hlt h63
    rw [exec_svnCommit_of ha, if_neg (Nat.not_le.mpr hlt), if_neg (Nat.not_lt.mpr h63)]
  case lifecycle => exact (exec_lifecycle_of ha target token).1
  case lifecycleBad => exact (exec_lifecycle_of ha target token).2
  case anchor => exact fun hn => ⟨exec_anchor_of ha hn cert true, exec_anchor_of ha hn cert false⟩
  case eventlog => rw [exec_eventlog, execEventlog, State.command_of _ _ _ _ x _ ha, heard_log]
  case record =>
    intro r hr
    rw [exec_meterRecord, execMeterRecord, State.command_of _ _ _ _ x _ ha, heard_mirror, hr]
  case reg =>
    intro r hr
    rw [exec_meterReg, execMeterReg, State.command_of _ _ _ _ x _ ha, heard_mirror, hr]
  case regBad =>
    intro hr
    rw [exec_meterReg, execMeterReg, State.command_of _ _ _ _ x _ ha, heard_mirror, hr]
  case tornBad => exact fun hst => (exec_teardown_of ha part).trans (congrArg _ (if_pos hst))
  case torn => exact teardown_begins ha part
  case reset => rw [exec_reset, execReset, State.command_of _ _ _ _ x _ ha]
  case telemetry =>
    intro l hl
    rw [exec_telemetry, execTelemetry, State.command_of _ _ _ _ x _ ha,
      show (heard s h x).telemetryPage page.toNat = some l from hl]
  case timeout =>
    intro hj
    obtain ⟨he, off⟩ := exec_teardownHaltTimeout_of s part h hj
    exact ⟨_, he, rfl, off⟩

end Sys2Proof.Machine

/-! # Results, loads, stores and branches of the sequencer (O5, O6, O7)

Results land in the order of the agenda, whoever made them; each command of the sequencer slot acts on the ring at the start of its
ring cycle, and a branch of the ring is one rule over the outcomes of its clusters. -/

namespace Sys2Proof.Machine

/-! ## Two results of one ring cycle (R112, R157) -/

/-- Two results due in one ring cycle land in the order of their keys, whichever became due first. -/
theorem Cluster.landAll_inOrder (c : Cluster) {t u i1 i2 s1 s2 : Nat} {a b : Act} (hu : u ≤ t) (hc : c.Landed t)
    (ha : a.phase = 0) (hb : b.phase = 0) (hkey : keyLt (Due.key ⟨u, i1, s1, a⟩) (Due.key ⟨u, i2, s2, b⟩) = true)
    (P : Cluster → Prop) (hP : ∀ x : Cluster, x.r = c.r → P ((x.land u a).land u b)) :
    P (((c.due u i1 s1 a).due u i2 s2 b).landAll t) ∧ P (((c.due u i2 s2 b).due u i1 s1 a).landAll t) := by
  have hl : ∀ d ∈ c.agenda, Due.landsBy t d = false := fun d hd => by simpa [Due.landsBy] using hc d hd
  have hpa : Due.landsBy t ⟨u, i1, s1, a⟩ = true := by simp [Due.landsBy, hu, ha]
  have hpb : Due.landsBy t ⟨u, i2, s2, b⟩ = true := by simp [Due.landsBy, hu, hb]
  constructor
  · rw [Cluster.landAll_eq, Cluster.due, Cluster.due, filter_insDue_later hpa hpb hl hkey]
    exact hP _ rfl
  · rw [Cluster.landAll_eq, Cluster.due, Cluster.due, filter_insDue_earlier hpa hpb hl hkey]
    exact hP _ rfl

/-- A sequencer result comes before a later one of the sequencer, and before every vector result. -/
theorem keyLt_of_sequencer {u i1 i2 s1 s2 : Nat} {a b : Act} (ha : a.phase = 0) (hb : b.phase = 0)
    (h : (s1 = 0 ∧ s2 = 0 ∧ i1 < i2) ∨ (s1 = 0 ∧ 2 ≤ s2)) :
    keyLt (Due.key ⟨u, i1, s1, a⟩) (Due.key ⟨u, i2, s2, b⟩) = true := by
  rcases h with ⟨rfl, rfl, hi⟩ | ⟨rfl, h2⟩
  · simp [Due.key, Due.late, keyLt, ha, hb, hi]
  · simp [Due.key, Due.late, keyLt, ha, hb, h2]

/-- Of two results that land in one sequencer register other than s0, the second stays. -/
theorem Cluster.land_sreg_sreg (c : Cluster) (u r k : Nat) (v1 v2 : BitVec 64) (h0 : 0 < r) (hk : k < 32) :
    ((c.land u (.sreg r v1)).land u (.sreg r v2)).r.getS k = if k = r then v2 else c.r.getS k := by
  simp only [Cluster.land, Regs.getS_setS _ _ _ _ hk]
  split
  · next h => rw [if_pos h.1]
  · next h => rw [if_neg (by omega)]

/-- Settles O5: the two results land in the order of their keys, and the second to land stays. -/
theorem laterResultKept : Obligations.LaterResultKept := by
  intro c t u i1 i2 s1 s2 r v1 v2 hu h0 _ hs hc kept
  exact c.landAll_inOrder hu hc rfl rfl (keyLt_of_sequencer (a := .sreg r v1) (b := .sreg r v2) rfl rfl hs) kept
    (fun x hx k hk => hx ▸ x.land_sreg_sreg u r k v1 v2 h0 hk)

/-! ## Sequencer loads, stores and cluster registers (R158, R159) -/

/-- A command of slot `k` that is one change of the ring does that change wherever it issues. -/
theorem exec_slotOp_of {c : Instr} {i : Issue} {k : Nat} {f : Nat → Ring → Ring}
    (he : ∀ s, exec c s = s.slotOp i k c f) {s : State} {q : Ring} (hq : f (cycleAt s i) (ringAt s i k) = q)
    (hs : Issues s i k c) : exec c s = .next (afterRing s i.ring.val q) := by
  rw [he, State.slotOp_of _ _ _ _ _ hs, hq]

/-- The address of a sequencer load or store is the low 21 bits of its sum. -/
theorem seqAddr_eq (q : Regs) (ra : Fin 32) (imm : BitVec 32) :
    seqAddr q ra imm = (q.getS ra.val + imm.signExtend 64).toNat % 2 ^ 21 := rfl

/-- Settles O6: each command is a slot of the ring; a load or a store makes its access due in the clusters whose address is
aligned, and the first other one is the ring's fault. -/
theorem sequencerLoadsAndStores : Obligations.SequencerLoadsAndStores := by
  intro i rd ra rb imm off s r runs addr bad t ld st flag
  have hr : ringAt s i 0 = r := rfl
  have ht : cycleAt s i = t := rfl
  clear_value r t
  have sld : r.sld t rd ra imm = flag (r.each (fun _ c => ld c)) := by
    simp only [Ring.sld, seqAddr_eq]
    rfl
  have sst : r.sst t rb ra imm = flag (r.each (fun _ c => st c)) := by
    simp only [Ring.sst, seqAddr_eq]
    rfl
  have slot {c : Instr} {f : Nat → Ring → Ring} (he : ∀ s, exec c s = s.slotOp i 0 c f) {q : Ring} (hq : f t r = q) :
      runs c q :=
    exec_slotOp_of he (ht ▸ hr ▸ hq)
  exact ⟨slot (fun _ => rfl) sld, slot (fun _ => rfl) sst, slot (f := fun t r => r.srds t rd off.toNat) (fun _ => rfl) rfl,
    slot (f := fun t r => r.swrs t ra off.toNat) (fun _ => rfl) rfl⟩

/-! ## Branches (R160, R161) -/

/-- The ring with the bundle at the branch's target, within the current leg, as the next. -/
def Ring.goTo (r : Ring) (target : BitVec 13) : Ring :=
  { r with tt := { r.tt with next := r.tt.bidx / 8192 * 8192 + target.toNat } }

/-- A branch: the ring goes where logical slot 0 decides, and faults where another cluster decides otherwise. -/
theorem Ring.branch_eq (r : Ring) (target : BitVec 13) (p : Cluster → Bool) :
    r.branch target p =
      let r' := if p (r.get 0) then r.goTo target else r
      if ∃ c ∈ r.cl, p c ≠ p (r.get 0) then r'.ttFault 2 none else r' := by
  have hall : r.cl.all (fun c => p c == p (r.get 0)) = true ↔ ¬ ∃ c ∈ r.cl, p c ≠ p (r.get 0) := by
    simp
  by_cases h : ∃ c ∈ r.cl, p c ≠ p (r.get 0)
  · rw [Ring.branch, if_neg (mt hall.mp (not_not.mpr h))]
    exact (if_pos h).symm
  · rw [Ring.branch, if_pos (hall.mpr h)]
    exact (if_neg h).symm

/-- A branch that every cluster takes. -/
theorem Ring.branch_always (r : Ring) (target : BitVec 13) : r.branch target (fun _ => true) = r.goTo target := by
  rw [Ring.branch_eq]
  simp

/-- Settles O7: each branch is a slot of the ring that follows the branch rule on the outcome of its clusters. -/
theorem branches : Obligations.Branches := by
  intro i ra rb target s r runs t go
  have hr : ringAt s i 0 = r := rfl
  have ht : cycleAt s i = t := rfl
  clear_value r t
  have go_eq {p p' : Cluster → Bool} (hp : p' = p) : r.branch target p' = go p := hp ▸ r.branch_eq target p'
  have equal : r.branch target (fun c => c.r.getS ra.val == c.r.getS rb.val) =
      go (fun c => decide (c.r.getS ra.val = c.r.getS rb.val)) := go_eq (funext fun c => Bool.eq_iff_iff.mpr (by simp))
  have unequal : r.branch target (fun c => c.r.getS ra.val != c.r.getS rb.val) =
      go (fun c => decide (c.r.getS ra.val ≠ c.r.getS rb.val)) := go_eq (funext fun c => Bool.eq_iff_iff.mpr (by simp))
  have counts : r.branch target (fun c => c.r.getS ra.val - 1 != 0) =
      go (fun c => decide (c.r.getS ra.val - 1 ≠ 0)) := go_eq (funext fun c => Bool.eq_iff_iff.mpr (by simp))
  have count : r.bnzd t ra target = (go (fun c => decide (c.r.getS ra.val - 1 ≠ 0))).each (fun _ c =>
      c.due (t + 1) t 0 (.sreg ra.val (c.r.getS ra.val - 1))) := counts ▸ rfl
  have slot {c : Instr} {f : Nat → Ring → Ring} (he : ∀ s, exec c s = s.slotOp i 0 c f) {q : Ring} (hq : f t r = q) :
      runs c q :=
    exec_slotOp_of he (ht ▸ hr ▸ hq)
  exact ⟨slot (fun _ => rfl) (r.branch_always target), slot (fun _ => rfl) equal, slot (fun _ => rfl) unequal,
    slot (fun _ => rfl) (go_eq rfl),
    slot (f := fun t r => r.bnzd t ra target) (fun _ => rfl) count⟩

end Sys2Proof.Machine

/-! # What a command of a ring leaves unchanged (O8)

A ring changes itself, its span's work count and status block, and of its partition the optimizer phase, the status blocks and the
token ports of its units; this is one relation between two states, kept by each thing that the device takes from a ring. -/

namespace Sys2Proof.Machine

/-! ## The partition of a ring -/

/-- An entry put into a table that answers a test like the value it replaces leaves the first key that meets the test. -/
theorem Tab.find?_ins {α : Type} (d : α) (m : Tab α) (i : Nat) (x : α) (f : α → Bool) (hd : f d = false)
    (hx : f x = f (Tab.get d m i)) :
    ((Tab.ins i x m).find? (fun p => f p.2)).map (·.1) = (m.find? (fun p => f p.2)).map (·.1) := by
  induction m with
  | nil => simp [Tab.ins, hx, Tab.get, hd]
  | cons p m ih =>
    obtain ⟨k, v⟩ := p
    rw [Tab.get] at hx
    rw [Tab.ins]
    split
    · next hlt =>
      rw [if_neg (by omega), if_pos hlt, hd] at hx
      rw [List.find?_cons_of_neg (by simp [hx])]
    · next hge =>
      split
      · next he =>
        subst he
        rw [if_pos rfl] at hx
        simp only [List.find?_cons, hx]
        cases f v <;> rfl
      · next hne =>
        rw [if_neg hne, if_neg hge] at hx
        rw [List.find?_cons, List.find?_cons]
        split
        · rfl
        · exact ih hx

/-- A partition that keeps its rings leaves every ring with its partition. -/
theorem State.partOf_setPart (s : State) (i j : Nat) (p : Partition) (h : p.rings = (s.part i).rings) :
    (s.setPart i p).partOf j = s.partOf j :=
  Tab.find?_ins Partition.reset s.parts i p (fun q => q.rings.contains j) rfl (congrArg (·.contains j) h)

/-! ## What a ring may change -/

/-- A span without what it takes from its rings: work counts and the status block. -/
def Span.apart (x : Span) : Span := { x with work := [], unit := .reset }

/-- From `s` to `t` only ring `k` has changed, with what the rest of the device takes from it. -/
structure State.RingChanges (k : Nat) (s t : State) : Prop where
  outside : ∃ rs sps ps, t = { s with rings := rs, spans := sps, parts := ps }
  ring : ∀ j, j ≠ k → t.ring j = s.ring j
  span : ∀ j, j ≠ k / 16 → t.span j = s.span j
  ownSpan : (t.span (k / 16)).apart = (s.span (k / 16)).apart
  work : ∀ q, s.partOf k ≠ some q →
    Tab.get ⟨0, 0⟩ (t.span (k / 16)).work q = Tab.get ⟨0, 0⟩ (s.span (k / 16)).work q
  part : ∀ q, s.partOf k ≠ some q → t.part q = s.part q
  ownPart : ∀ q, (t.part q).apart = (s.part q).apart
  partOf : ∀ j, t.partOf j = s.partOf j

namespace State.RingChanges

variable {k : Nat} {s t u : State}

theorem refl (k : Nat) (s : State) : s.RingChanges k s :=
  ⟨⟨_, _, _, rfl⟩, fun _ _ => rfl, fun _ _ => rfl, rfl, fun _ _ => rfl, fun _ _ => rfl, fun _ => rfl, fun _ => rfl⟩

theorem trans (h : s.RingChanges k t) (h' : t.RingChanges k u) : s.RingChanges k u where
  outside := by
    obtain ⟨rs, sps, ps, rfl⟩ := h.outside
    obtain ⟨rs', sps', ps', rfl⟩ := h'.outside
    exact ⟨rs', sps', ps', rfl⟩
  ring j hj := (h'.ring j hj).trans (h.ring j hj)
  span j hj := (h'.span j hj).trans (h.span j hj)
  ownSpan := h'.ownSpan.trans h.ownSpan
  work q hq := (h'.work q (h.partOf k ▸ hq)).trans (h.work q hq)
  part q hq := (h'.part q (h.partOf k ▸ hq)).trans (h.part q hq)
  ownPart q := (h'.ownPart q).trans (h.ownPart q)
  partOf j := (h'.partOf j).trans (h.partOf j)

/-- The ring itself may become anything. -/
theorem setRing (s : State) (k : Nat) (r : Ring) : s.RingChanges k (s.setRing k r) where
  outside := ⟨_, _, _, rfl⟩
  ring j hj := s.ring_setRing_ne k j r hj
  span _ _ := rfl
  ownSpan := rfl
  work _ _ := rfl
  part _ _ := rfl
  ownPart _ := rfl
  partOf _ := rfl

/-- The ring's span may take a status block, and work of the ring's partition. -/
theorem setSpan (s : State) (k : Nat) (x : Span) (hx : x.apart = (s.span (k / 16)).apart)
    (hw : ∀ q, s.partOf k ≠ some q → Tab.get ⟨0, 0⟩ x.work q = Tab.get ⟨0, 0⟩ (s.span (k / 16)).work q) :
    s.RingChanges k (s.setSpan (k / 16) x) where
  outside := ⟨_, _, _, rfl⟩
  ring _ _ := rfl
  span j hj := s.span_setSpan_ne _ j x hj
  ownSpan := by rw [State.span_setSpan, hx]
  work q hq := by rw [State.span_setSpan, hw q hq]
  part _ _ := rfl
  ownPart _ := rfl
  partOf _ := rfl

/-- The ring's partition may take its phase, status blocks and token ports. -/
theorem setPart (s : State) (k i : Nat) (p : Partition) (hi : s.partOf k = some i) (hp : p.apart = (s.part i).apart) :
    s.RingChanges k (s.setPart i p) where
  outside := ⟨_, _, _, rfl⟩
  ring _ _ := rfl
  span _ _ := rfl
  ownSpan := rfl
  work _ _ := rfl
  part q hq := s.part_setPart_ne i q p (fun h => hq (h ▸ hi))
  ownPart := (State.KeepsParts.setPart s i p hp).2
  partOf j := s.partOf_setPart i j p (show p.apart.rings = (s.part i).apart.rings from congrArg _ hp)

/-- What stays of each partition. -/
theorem part_eq (h : s.RingChanges k t) (q : Nat) :
    ∃ b x u m, t.part q = { s.part q with opt := b, optAt := x, units := u, faces := m } :=
  ⟨(t.part q).opt, (t.part q).optAt, (t.part q).units, (t.part q).faces,
    congrArg (fun p : Partition => { p with
      opt := (t.part q).opt, optAt := (t.part q).optAt, units := (t.part q).units, faces := (t.part q).faces }) (h.ownPart q)⟩

/-- What stays of the ring's span. -/
theorem span_eq (h : s.RingChanges k t) : t.span (k / 16) =
    { s.span (k / 16) with work := (t.span (k / 16)).work, unit := (t.span (k / 16)).unit } :=
  congrArg (fun x : Span => { x with work := (t.span (k / 16)).work, unit := (t.span (k / 16)).unit }) h.ownSpan

/-- No deck changes. -/
theorem deck (h : s.RingChanges k t) (j : Nat) : t.deck j = s.deck j := by
  by_cases hj : j = k / 16
  · subst hj
    exact (congrArg Span.deck h.ownSpan :)
  · exact congrArg Span.deck (h.span j hj)

end State.RingChanges

/-! ## What the device takes from a ring -/

theorem State.takeXfers_ringChanges (s : State) (k : Nat) : s.RingChanges k (s.takeXfers k) := by
  simp only [State.takeXfers]
  split
  · exact .refl k s
  · split
    · exact .refl k s
    · exact .setRing _ _ _

theorem State.takeWork_ringChanges (s : State) (k : Nat) : s.RingChanges k (s.takeWork k) := by
  simp only [State.takeWork]
  split
  · exact .refl k s
  · split
    · exact .setRing _ _ _
    · next part hp =>
      refine (State.RingChanges.setRing _ _ _).trans (.setSpan _ _ _ rfl (fun q hq => ?_))
      exact Tab.get_ins_ne _ _ _ _ _ (fun h => hq (h ▸ hp))

theorem State.takePhase_ringChanges (s : State) (k : Nat) : s.RingChanges k (s.takePhase k) := by
  simp only [State.takePhase]
  split
  · exact .refl k s
  · next part hp =>
    split
    · exact .setPart _ _ _ _ hp rfl
    · exact .refl k s

theorem State.takePosts_ringChanges (s : State) (k : Nat) : s.RingChanges k (s.takePosts k) := by
  simp only [State.takePosts]
  split
  · exact .refl k s
  · split
    · exact .setRing _ _ _
    · next part hp =>
      split
      · exact .setRing _ _ _
      · exact (State.RingChanges.setRing _ _ _).trans (.setPart _ _ _ _ hp rfl)

theorem State.takeFlagsAs_ringChanges (s : State) (k : Nat) (timed : Bool) : s.RingChanges k (s.takeFlagsAs k timed) := by
  simp only [State.takeFlagsAs]
  split
  · exact .refl k s
  · have hs (r : Ring) (x : UnitStat) : s.RingChanges k
        ((s.setRing k r).setSpan (k / 16) { (s.setRing k r).span (k / 16) with unit := x }) :=
      (State.RingChanges.setRing _ _ _).trans (.setSpan _ _ _ rfl (fun _ _ => rfl))
    split
    · exact hs _ _
    · next part hp =>
      split
      · exact hs _ _
      · exact (hs _ _).trans (.setPart _ _ _ _ hp rfl)

/-- Whatever a ring becomes, the rest of the device takes from it no more than this. -/
theorem afterRing_ringChanges (s : State) (k : Nat) (r : Ring) : s.RingChanges k (afterRing s k r) :=
  (((((State.RingChanges.setRing s k r).trans (State.takeXfers_ringChanges _ k)).trans (State.takeWork_ringChanges _ k)).trans
    (State.takePhase_ringChanges _ k)).trans (State.takePosts_ringChanges _ k)).trans (State.takeFlagsAs_ringChanges _ k true)

/-- A command of a slot changes its ring, and what the device takes from the ring. -/
theorem exec_slot (c : Instr) (i : Issue) (s : State) (h : slotRing c = some i) :
    ∃ r, exec c s = .next (afterRing s i.ring.val r) := by
  cases c <;> cases h <;> exact ⟨_, rfl⟩

/-- Settles O8: a slot changes its ring, and the rest of the device takes from the ring no more than a ring may change. -/
theorem slotFrame : Obligations.SlotFrame := by
  intro c i s t hc he
  obtain ⟨r, hr⟩ := exec_slot c i s hc
  obtain rfl : afterRing s i.ring.val r = t := Host.Outcome.next.inj (hr.symm.trans he)
  have hch := afterRing_ringChanges s i.ring.val r
  generalize afterRing s i.ring.val r = t at hch
  have hdeck := hch.deck
  have hspan := hch.span_eq
  have hpart := hch.part_eq
  obtain ⟨⟨rs, sps, ps, rfl⟩, ring, span, -, work, part, -, -⟩ := hch
  exact ⟨rfl, rfl, rfl, rfl, rfl, rfl, rfl, rfl, rfl, rfl, rfl, rfl, rfl, rfl, rfl, rfl, rfl, rfl, rfl, rfl, rfl, rfl, rfl, rfl,
    rfl, rfl, ring, hdeck, part, hpart, span, ⟨_, _, hspan, work⟩⟩

end Sys2Proof.Machine

/-! # Coasts, posts and the reaching of holds (O18, O19)

What comes about in a ring cycle and what the device takes from a ring leave the ring's clock and its timetable side, so that a
coast ends when the ring cycles have passed. -/

namespace Sys2Proof.Machine

/-! ## The clock of a ring -/

/-- What a ring keeps while the things of a ring cycle come about: whether it is awake, its ring cycle, its timetable side. -/
def Ring.clock (r : Ring) : Bool × Nat × RingTt := (r.awake, r.now, r.tt)

@[simp] theorem Ring.each_clock (r : Ring) (f : Nat → Cluster → Cluster) : (r.each f).clock = r.clock := rfl
@[simp] theorem Ring.put_clock (r : Ring) (k : Nat) (c : Cluster) : (r.put k c).clock = r.clock := rfl

@[simp] theorem Ring.gather_clock (r : Ring) (u : Nat) : (r.gather u).clock = r.clock := by
  simp only [Ring.gather]
  split <;> rfl

@[simp] theorem Ring.submit_clock (r : Ring) (t bidx : Nat) (desc : List Byte) : (r.submit t bidx desc).clock = r.clock := by
  rw [Ring.submit, apply_ite Ring.clock]
  exact ite_self _

@[simp] theorem Ring.harvest_clock (r : Ring) (u : Nat) : (r.harvest u).clock = r.clock := by
  rw [Ring.harvest, Ring.gather_clock]
  exact foldl_keeps Ring.clock (fun r (p : Nat × List Byte) => r.submit u p.1 p.2) (fun r p => r.submit_clock u p.1 p.2) _ r

@[simp] theorem Ring.postTok_clock (r : Ring) (name n src slot : Nat) : (r.postTok name n src slot).clock = r.clock := by
  simp only [Ring.postTok]
  split <;> rfl

@[simp] theorem Ring.postRing_clock (r : Ring) (u : Nat) : (r.postRing u).clock = r.clock :=
  foldl_keeps Ring.clock (fun r (p : RingPost) => r.postTok p.name p.count p.src p.slot)
    (fun r p => r.postTok_clock p.name p.count p.src p.slot) _ _

@[simp] theorem Ring.cycle_clock (r : Ring) (ring u : Nat) : (r.cycle ring u).clock = r.clock := by
  rw [Ring.cycle, Ring.postRing_clock, Ring.harvest_clock, Ring.each_clock]

@[simp] theorem Ring.settleAux_clock (ring t n : Nat) (r : Ring) : (Ring.settleAux ring t n r).clock = r.clock := by
  induction n generalizing r with
  | zero => rfl
  | succ n ih =>
    rw [Ring.settleAux]
    split
    · split
      · rw [ih, Ring.cycle_clock]
      · rfl
    · rfl

/-- A ring is settled by what comes about in the ring cycles before, which leaves its clock, and then by their passing. -/
theorem Ring.settle_eq_pass (r : Ring) (ring t : Nat) : ∃ q : Ring, q.clock = r.clock ∧ r.settle ring t = q.pass t :=
  ⟨_, by simp, rfl⟩

/-- A settled ring stands at its ring cycle, or a later one that it had come to before. -/
theorem Ring.settle_now (r : Ring) (ring t : Nat) : (r.settle ring t).now = max t r.now := by
  obtain ⟨q, hq, he⟩ := r.settle_eq_pass ring t
  rw [he]
  exact congrArg (max t ·.2.1) hq

@[simp] theorem RingTt.flow_run (x : RingTt) (t : Nat) : (x.flow t).run = x.run := by
  simp only [RingTt.flow]
  split
  · rfl
  · split <;> rfl

/-- A coasting ring issues once the ring cycle of its next bundle has come (R165). -/
theorem Ring.settle_coasted (r : Ring) (ring t : Nat) (hr : r.tt.run = .coasting) (ht : r.tt.coastEnd ≤ t) :
    (r.settle ring t).tt.run = .issuing := by
  obtain ⟨q, hq, he⟩ := r.settle_eq_pass ring t
  obtain ⟨-, htt⟩ := Prod.mk.inj (Prod.mk.inj hq).2
  simp [he, Ring.pass, htt, hr, ht]

/-! ## A ring once the device has taken from it -/

/-- What a ring keeps when the device takes from it: all but its clusters, its work, its status block and its posts. -/
def Ring.apart (r : Ring) : Ring :=
  { r with cl := [], worked := 0, unit := .reset, news := [], fresh := false, posted := [] }

@[simp] theorem Ring.apart_tt (r : Ring) : r.apart.tt = r.tt := rfl
@[simp] theorem Ring.apart_now (r : Ring) : r.apart.now = r.now := rfl

theorem Ring.gather_apart (r : Ring) (u : Nat) : (r.gather u).apart = r.apart := by
  simp only [Ring.gather]
  split <;> rfl

theorem State.takeXfers_apart (s : State) (k : Nat) : ((s.takeXfers k).ring k).apart = (s.ring k).apart := by
  simp only [State.takeXfers]
  split
  · rfl
  · split
    · rfl
    · rw [State.ring_setRing]
      rfl

theorem State.takeWork_apart (s : State) (k : Nat) : ((s.takeWork k).ring k).apart = (s.ring k).apart := by
  simp only [State.takeWork]
  split
  · rfl
  · split <;> simp only [State.ring_setSpan, State.ring_setRing] <;> rfl

theorem State.takePhase_ring (s : State) (k : Nat) : (s.takePhase k).ring k = s.ring k := by
  simp only [State.takePhase]
  split
  · rfl
  · split <;> rfl

theorem State.takePosts_apart (s : State) (k : Nat) : ((s.takePosts k).ring k).apart = (s.ring k).apart := by
  rcases s.takePosts_ring k with hr | hr <;> rw [hr]
  rfl

theorem State.takeFlags_apart (s : State) (k : Nat) : ((s.takeFlags k).ring k).apart = (s.ring k).apart := by
  rw [State.takeFlags_ring]
  split
  · rfl
  · exact (s.ring k).gather_apart _

/-- What the device takes from a ring leaves the ring's clock, its timetable side, its tokens and its Trestle engine. -/
theorem afterRing_apart (s : State) (k : Nat) (r : Ring) : ((afterRing s k r).ring k).apart = r.apart := by
  rw [afterRing, State.takeFlags_apart, State.takePosts_apart, State.takePhase_ring, State.takeWork_apart, State.takeXfers_apart,
    State.ring_setRing]

theorem afterRing_tt (s : State) (k : Nat) (r : Ring) : ((afterRing s k r).ring k).tt = r.tt := by
  rw [← Ring.apart_tt, afterRing_apart, Ring.apart_tt]

theorem afterRing_now (s : State) (k : Nat) (r : Ring) : ((afterRing s k r).ring k).now = r.now := by
  rw [← Ring.apart_now, afterRing_apart, Ring.apart_now]

/-! ## Posts above the ring (R194, R198) -/

/-- A post to a shared counter that does not overflow adds its count. -/
theorem State.postShared_of (s : State) (part span : Nat) (sc : Scope) (name n src cluster : Nat)
    (h : (s.part part).counter span sc name + n < 2 ^ 32) : s.postShared part span sc name n src cluster =
      s.setPart part ((s.part part).setCounter span sc name ((s.part part).counter span sc name + n)) :=
  if_pos h

/-- The ring's oldest post at span or device scope whose writes have landed reaches the partition's counter. -/
theorem exec_tokenPostApplied_of (s : State) (i : Issue) (p : RingPost) (q : Ring) (part : Nat)
    (ha : (s.ring i.ring.val).awake = true) (s1 : State) (hs1 : afterRing s i.ring.val (settledRing s i) = s1)
    (hp : (s1.ring i.ring.val).takePost = some (p, q)) (hpart : s1.partOf i.ring.val = some part)
    (hc : (s1.part part).counter (i.ring.val / 16) p.scope p.name + p.count < 2 ^ 32) :
    exec (.tokenPostApplied i) s =
      .next (((s1.setRing i.ring.val q).setRing i.ring.val (q.lateAdd p.scope p.name p.count)).setPart part
        ((s1.part part).setCounter (i.ring.val / 16) p.scope p.name
          ((s1.part part).counter (i.ring.val / 16) p.scope p.name + p.count))) := by
  have he := (s.event_of i (fun _ r => r) ha).trans hs1
  simp only [exec_tokenPostApplied, execTokenPostApplied, he, hp, State.postLate, State.partOf_setRing, hpart, State.ring_setRing]
  exact congrArg Host.Outcome.next (State.postShared_of _ _ _ _ _ _ _ _ hc)

/-- The end of a coast brings an awake coasting ring to the ring cycle of its next bundle. -/
theorem exec_coastEnd_of (s : State) (i : Issue) (ha : (s.ring i.ring.val).awake = true)
    (hr : (s.ring i.ring.val).tt.run = .coasting) : exec (.coastEnd i) s = .next (afterRing s i.ring.val
      (settledRing s ⟨i.ring, max i.cycle (s.ring i.ring.val).tt.coastEnd⟩)) := by
  have he := s.event_of ⟨i.ring, max i.cycle (s.ring i.ring.val).tt.coastEnd⟩ (fun _ r => r) ha
  rw [exec_coastEnd, execCoastEnd, ← he, State.atRing, State.atRing, if_pos (by simp [ha, hr])]

/-- Settles O18: a coast and a post are slots of the ring; a coast ends by the passing of its ring cycles; a post that is applied
reaches the counter of the ring's partition. -/
theorem coastsAndPosts : Obligations.CoastsAndPosts := by
  intro i count scope name n s k r q
  have hr : ringAt s i slotWhole = r := rfl
  have hq : ringAt s i 7 = q := rfl
  clear_value r q
  refine ⟨exec_slotOp_of (fun _ => rfl) (hr ▸ rfl), .of _ _ _ _ (fun _ => rfl), fun hsc => exec_slotOp_of (fun _ => rfl) ?above,
    fun ha hrun => ⟨_, exec_coastEnd_of s i ha hrun, ?ends⟩, ?applied⟩
  case above =>
    rw [hq]
    cases scope with
    | cluster => exact absurd rfl hsc
    | _ => rfl
  case ends =>
    rw [afterRing_tt, afterRing_now]
    refine ⟨Ring.settle_coasted _ _ _ hrun ?_, ?_⟩
    · exact (le_max_right _ _).trans (le_max_left _ _)
    · rw [settledRing, Ring.settle_now, cycleAt]
      exact max_eq_left (le_max_right _ _)
  case applied =>
    intro p q part ha s1 hp hpart _ hc
    refine ⟨_, exec_tokenPostApplied_of s i p q part ha s1 rfl hp hpart hc, ?_, ?_⟩
    · rw [State.ring_setPart, State.ring_setRing]
    · rw [State.part_setPart]

/-! ## Holds that are reached (R168 to R170, R173) -/

section
variable (r : Ring) (t : Nat) (k : HoldKind)

/-- A ring that no report has reached stops at the hold. -/
theorem Ring.reach_of_unreported (h : r.tt.report = false) :
    r.reach t k = { r with tt := { r.tt with hold := some ⟨k, t, false⟩, run := .hold } } :=
  if_neg (by simp [h])

/-- A ring that a report has reached halts at the hold, and its Trestle engine stops. -/
theorem Ring.reach_of_reported (h : r.tt.report = true) : r.reach t k =
    { r with tt := { r.tt with hold := none, run := .halted }, tr := { r.tr with run := none, queue := [] } } :=
  if_pos h

end

/-- END tells the arrays that are ON or RAMPUP to stop. -/
def Ring.stopArrays (r : Ring) (t : Nat) : Ring :=
  r.each (fun _ c => if c.mx.st = .on ∨ c.mx.st = .rampup then c.mstop t else c)

theorem exec_endHold_eq (i : Issue) (s : State) :
    exec (.endHold i) s = s.holdOp i slotWhole (.endHold i) .fin (fun t r => r.stopArrays t) := by
  simp only [exec_endHold, execEndHold, Ring.stopArrays, Bool.or_eq_true, beq_iff_eq]

/-- A hold bundle reaches its hold wherever it issues, and then does what is its own. -/
theorem exec_holdOp_of {c : Instr} {i : Issue} {h : HoldKind} {f : Nat → Ring → Ring}
    (he : ∀ s, exec c s = s.holdOp i slotWhole c h f) {s : State} {q : Ring}
    (hq : (ringAt s i slotWhole).reach (cycleAt s i) h = q) (hs : Issues s i slotWhole c) :
    exec c s = .next (afterRing s i.ring.val (f (cycleAt s i) q)) :=
  exec_slotOp_of he (congrArg (f (cycleAt s i)) hq) hs

/-- Settles O19: each hold bundle is a slot of the ring that reaches its hold, and then does what is its own. -/
theorem holdsReached : Obligations.HoldsReached := by
  intro i scope name count mask target s r runs at_ halted stops stages
  have hr : ringAt s i slotWhole = r := rfl
  clear_value r
  have holds (q : HoldKind → Ring) (hq : ∀ h, r.reach (cycleAt s i) h = q h) :
      runs (.twait i scope name count) (q (.twait scope name.toNat count.toNat)) ∧ runs (.swait i mask) (q (.swait mask)) ∧
      runs (.leg i target) (stages (q (.leg target.toNat))) ∧ runs (.endHold i) (stops (q .fin)) := by
    rw [← hr] at hq
    exact ⟨exec_holdOp_of (f := fun _ r => r) (fun _ => rfl) (hq _), exec_holdOp_of (f := fun _ r => r) (fun _ => rfl) (hq _),
      exec_holdOp_of (f := fun _ r => { r with tt := r.tt.stage (legOf target.toNat) }) (fun _ => rfl) (hq _),
      exec_holdOp_of (exec_endHold_eq i) (hq _)⟩
  exact ⟨fun h => holds at_ (fun k => r.reach_of_unreported _ k h),
    fun h => holds (fun _ => halted) (fun k => r.reach_of_reported _ k h)⟩

end Sys2Proof.Machine

/-! # The release of holds and their limit (O20)

Seeking the ring cycle of a release changes nothing but the ring; a release ends the hold in the ring itself, and a shared counter
that serves the ring bars the other rings that share it from their tests of the ring cycle they are in. -/

namespace Sys2Proof.Machine

/-! ## Seeking the ring cycle of a release (R168) -/

theorem State.seekFree_ringChanges (k c n : Nat) (s : State) : s.RingChanges k (State.seekFree k c n s) := by
  induction n generalizing s with
  | zero => exact .refl k s
  | succ n ih =>
    rw [State.seekFree]
    split
    · exact .refl k s
    · exact (afterRing_ringChanges s k _).trans (ih _)

/-- The device once a ring has been brought to the ring cycle in which its hold is released, or to ring cycle `c`. -/
theorem State.seekFree_settled (s : State) (k c n : Nat) : s.RingChanges k (State.seekFree k c n (settled s k 0)) :=
  (afterRing_ringChanges s k _).trans (State.seekFree_ringChanges k c n _)

theorem State.RingChanges.mem {k : Nat} {s t : State} (h : s.RingChanges k t) : t.mem = s.mem := by
  obtain ⟨_, _, _, rfl⟩ := h.outside
  rfl

theorem State.RingChanges.fns {k : Nat} {s t : State} (h : s.RingChanges k t) : t.fns = s.fns := by
  obtain ⟨_, _, _, rfl⟩ := h.outside
  rfl

/-! ## Which rings a shared counter may still serve (R195) -/

/-- The shared counter has served another ring in the ring cycle that this one is in. -/
def Ring.Barred (r : Ring) (sc : Scope) (name : Nat) : Prop := r.gone.1 = r.now ∧ (sc, name) ∈ r.gone.2

theorem Ring.passed_barred (r : Ring) (sc : Scope) (name : Nat) : (r.passed sc name).Barred sc name :=
  ⟨rfl, List.mem_cons_self⟩

/-- A counter that has served another ring serves no hold of this one in its ring cycle. -/
theorem Ring.mayTest_of_barred {r : Ring} {sc : Scope} {name : Nat} (h : r.Barred sc name) (n : Nat) :
    r.mayTest (.twait sc name n) = false := by
  simp [Ring.mayTest, h.1, h.2]

/-- A hold may be tested where the ring cycle has not ended and its counter has served no other ring in it. -/
theorem Ring.mayTest_of {r : Ring} {k : HoldKind} (he : r.ended ≤ r.now)
    (hk : ∀ sc name n, k = .twait sc name n → r.gone.1 = r.now → (sc, name) ∉ r.gone.2) : r.mayTest k = true := by
  cases k with
  | twait sc name n => simpa [Ring.mayTest, he, ← not_and_or] using hk sc name n rfl
  | _ => simp [Ring.mayTest, he]

section
variable (sc : Scope) (name : Nat) (l : List Nat) (s : State) (j : Nat)

/-- The rings of `l` are told that a shared counter has served another. -/
def State.passAll : State := l.foldl (fun s i => s.setRing i ((s.ring i).passed sc name)) s

theorem State.passAll_ring : ∃ g, (State.passAll sc name l s).ring j = { s.ring j with gone := g } := by
  refine List.foldlRecOn l _ (motive := fun t : State => ∃ g, t.ring j = { s.ring j with gone := g })
    ⟨_, rfl⟩ (fun t ht i _ => ?_)
  obtain ⟨g, hg⟩ := ht
  by_cases hi : j = i
  · subst hi
    rw [State.ring_setRing, hg]
    exact ⟨_, rfl⟩
  · rw [State.ring_setRing_ne _ _ _ _ hi]
    exact ⟨g, hg⟩

theorem State.passAll_ring_of_notMem (h : j ∉ l) : (State.passAll sc name l s).ring j = s.ring j :=
  List.foldlRecOn l _ (motive := fun t : State => t.ring j = s.ring j) rfl
    (fun t ht i hi => (t.ring_setRing_ne i j _ (fun hj => h (hj ▸ hi))).trans ht)

theorem State.passAll_barred (h : j ∈ l ∨ (s.ring j).Barred sc name) :
    ((State.passAll sc name l s).ring j).Barred sc name := by
  induction l generalizing s with
  | nil => exact h.resolve_left (by simp)
  | cons i l ih =>
    refine ih _ ?_
    by_cases hj : j = i
    · subst hj
      rw [State.ring_setRing]
      exact .inr ((s.ring j).passed_barred sc name)
    · rw [State.ring_setRing_ne _ _ _ _ hj]
      exact h.imp_left (fun hm => (List.mem_cons.mp hm).resolve_left hj)

theorem State.passAll_keeps :
    let t := State.passAll sc name l s
    t.parts = s.parts ∧ t.mem = s.mem ∧ t.fns = s.fns :=
  ⟨foldl_keeps State.parts _ (fun _ _ => by rfl) l s, foldl_keeps State.mem _ (fun _ _ => by rfl) l s,
    foldl_keeps State.fns _ (fun _ _ => by rfl) l s⟩

end

/-- The other rings that share a counter with a ring. -/
def Partition.sharers (p : Partition) (ring : Nat) (sc : Scope) : List Nat :=
  p.rings.filter (fun i => i != ring && (sc == .device || i / 16 == ring / 16))

theorem State.serveShared_eq (s : State) (part ring : Nat) (sc : Scope) (name n : Nat) :
    s.serveShared part ring sc name n = State.passAll sc name ((s.part part).sharers ring sc)
      (s.setPart part ((s.part part).setCounter (ring / 16) sc name ((s.part part).counter (ring / 16) sc name - n))) := rfl

theorem Partition.ring_notMem_sharers (p : Partition) (ring : Nat) (sc : Scope) : ring ∉ p.sharers ring sc := by
  simp [Partition.sharers]

theorem Partition.mem_sharers (p : Partition) {ring j : Nat} {sc : Scope} (hj : j ∈ p.rings) (hne : j ≠ ring)
    (hs : sc = .device ∨ j / 16 = ring / 16) : j ∈ p.sharers ring sc := by
  simp [Partition.sharers, hj, hne, hs]

/-! ## What a release takes from the partition (R195, R301) -/

/-- From `s` to `t` ring `k` takes from the device what its hold asks for: the memory, the functions and the ring's timetable side stay,
and another ring only learns which counters have served. -/
def State.Releases (k : Nat) (s t : State) : Prop :=
  t.mem = s.mem ∧ t.fns = s.fns ∧ (∀ j, j ≠ k → ∃ g, t.ring j = { s.ring j with gone := g }) ∧
    (t.ring k).tt = (s.ring k).tt

theorem State.serveShared_releases (s : State) (part k : Nat) (sc : Scope) (name n : Nat) :
    s.Releases k (s.serveShared part k sc name n) := by
  rw [State.serveShared_eq]
  obtain ⟨-, hm, hf⟩ := State.passAll_keeps sc name ((s.part part).sharers k sc)
    (s.setPart part ((s.part part).setCounter (k / 16) sc name ((s.part part).counter (k / 16) sc name - n)))
  exact ⟨hm, hf, fun j _ => State.passAll_ring .., congrArg Ring.tt
    (State.passAll_ring_of_notMem _ _ _ _ _ (Partition.ring_notMem_sharers _ k sc))⟩

/-- The release of a hold for a shared counter: the counter serves the ring; beyond that only the ring's clusters may change. -/
theorem State.releaseShared_of (s : State) {k part : Nat} {sc : Scope} (name n : Nat) (hsc : sc = .span ∨ sc = .device)
    (hp : s.partOf k = some part) :
    let u := s.serveShared part k sc name n
    let t := s.releaseShared k (.twait sc name n)
    t.parts = u.parts ∧ u.Releases k t ∧ ∀ j, j ≠ k → t.ring j = u.ring j := by
  intro u t
  have same : u.parts = u.parts ∧ u.Releases k u ∧ ∀ j, j ≠ k → u.ring j = u.ring j :=
    ⟨rfl, ⟨rfl, rfl, fun _ _ => ⟨_, rfl⟩, rfl⟩, fun _ _ => rfl⟩
  rcases hsc with rfl | rfl
  · have ht : t = u := by simp only [t, State.releaseShared, hp, u]
    rwa [ht]
  · rcases hn : u.normOf part name with _ | ⟨reg, v⟩
    · have ht : t = u := by simp only [t, State.releaseShared, hp, u, hn]
      rwa [ht]
    · have ht : t = u.setRing k ((u.ring k).each (fun _ c => { c with r := c.r.setS reg (BitVec.ofNat 64 v) })) := by
        simp only [t, State.releaseShared, hp, u, hn]
      rw [ht]
      refine ⟨rfl, ⟨rfl, rfl, fun j hj => ⟨_, State.ring_setRing_ne _ _ _ _ hj⟩, ?_⟩,
        fun j hj => State.ring_setRing_ne _ _ _ _ hj⟩
      rw [State.ring_setRing]
      rfl

/-- Every other hold takes nothing from the partition. -/
theorem State.releaseShared_own (s : State) (k : Nat) (h : HoldKind)
    (hk : ∀ sc name n part, h = .twait sc name n → (sc = .span ∨ sc = .device) → s.partOf k ≠ some part) :
    s.releaseShared k h = s := by
  unfold State.releaseShared
  split
  · next hp => exact absurd hp (hk _ _ _ _ rfl (.inl rfl))
  · next hp => exact absurd hp (hk _ _ _ _ rfl (.inr rfl))
  · rfl

theorem State.Releases.trans {k : Nat} {s t u : State} (h : s.Releases k t) (h' : t.Releases k u) : s.Releases k u := by
  obtain ⟨hm, hf, hr, ht⟩ := h
  obtain ⟨hm', hf', hr', ht'⟩ := h'
  refine ⟨hm'.trans hm, hf'.trans hf, fun j hj => ?_, ht'.trans ht⟩
  obtain ⟨g, hg⟩ := hr j hj
  obtain ⟨g', hg'⟩ := hr' j hj
  exact ⟨g', by rw [hg', hg]⟩

theorem State.releaseShared_releases (s : State) (k : Nat) (h : HoldKind) : s.Releases k (s.releaseShared k h) := by
  by_cases hk : ∃ sc name n part, h = .twait sc name n ∧ (sc = .span ∨ sc = .device) ∧ s.partOf k = some part
  · obtain ⟨sc, name, n, part, rfl, hsc, hp⟩ := hk
    exact (s.serveShared_releases part k sc name n).trans (s.releaseShared_of name n hsc hp).2.1
  · rw [s.releaseShared_own k h (fun sc name n part hh hsc hp => hk ⟨sc, name, n, part, hh, hsc, hp⟩)]
    exact ⟨rfl, rfl, fun _ _ => ⟨_, rfl⟩, rfl⟩

/-! ## What a release does to the ring (Table 7.7) -/

theorem RingTt.selectLeg_eq (x : RingTt) (leg : Nat) : ∃ b, x.selectLeg leg = { x with cur := b } := by
  unfold RingTt.selectLeg
  split
  · exact ⟨_, rfl⟩
  · split
    · exact ⟨_, rfl⟩
    · exact ⟨_, rfl⟩

section
variable (r : Ring) (t : Nat)

/-- The timetable side of a ring whose hold is released. -/
def RingTt.freed (x : RingTt) (t : Nat) : RingTt :=
  { x with hold := none, run := .issuing, holdcnt := x.holdcnt + 1, nextCycle := t + 1, at_ := none }

theorem Ring.release_twait (sc : Scope) (name n : Nat) : (r.release t (.twait sc name n)).tt = r.tt.freed t := by
  cases sc <;> rfl

theorem Ring.release_leg (target : Nat) :
    ∃ b, (r.release t (.leg target)).tt = { r.tt.freed t with cur := b, next := target } := by
  obtain ⟨b, hb⟩ := (r.tt.freed t).selectLeg_eq (legOf target)
  exact ⟨b, congrArg (fun x : RingTt => { x with next := target }) hb⟩

theorem Ring.release_start : ∃ b, (r.release t .start).tt = { r.tt.freed t with cur := b } :=
  (r.tt.freed t).selectLeg_eq _

/-- A release leaves the ring at no hold. -/
theorem Ring.release_hold (k : HoldKind) : (r.release t k).tt.hold = none := by
  cases k with
  | twait sc name n => rw [Ring.release_twait]; rfl
  | leg target => obtain ⟨b, hb⟩ := r.release_leg t target; rw [hb]; rfl
  | start => obtain ⟨b, hb⟩ := r.release_start t; rw [hb]; rfl
  | swait mask => rfl
  | fin => rfl

/-- Every release but that of END lets the next bundle issue in the following ring cycle. -/
theorem Ring.release_issues (k : HoldKind) (h : k ≠ .fin) :
    (r.release t k).tt.run = .issuing ∧ (r.release t k).tt.nextCycle = t + 1 := by
  cases k with
  | twait sc name n => rw [Ring.release_twait]; exact ⟨rfl, rfl⟩
  | leg target => obtain ⟨b, hb⟩ := r.release_leg t target; rw [hb]; exact ⟨rfl, rfl⟩
  | start => obtain ⟨b, hb⟩ := r.release_start t; rw [hb]; exact ⟨rfl, rfl⟩
  | swait mask => exact ⟨rfl, rfl⟩
  | fin => exact absurd rfl h

/-- A change that is the same in each cluster. -/
theorem Ring.each_cl (f : Cluster → Cluster) : (r.each (fun _ c => f c)).cl = r.cl.map f := by
  show ((List.range r.cl.length).zip r.cl).map (f ∘ Prod.snd) = r.cl.map f
  rw [← List.map_map, List.map_snd_zip (by simp)]

theorem Ring.release_cl_cluster (name n : Nat) : (r.release t (.twait .cluster name n)).cl =
    r.cl.map (fun c => { c with tok := Tab.set 0 c.tok name (Tab.get 0 c.tok name - n) }) :=
  Ring.each_cl _ _

end

/-! ## HOLD_RELEASE -/

/-- A hold is released where its condition holds within its limit, no report has come and its counter may serve it. -/
theorem State.frees_of (s : State) (k : Nat) (h : Hold) (ha : (s.ring k).awake = true) (hh : (s.ring k).tt.hold = some h)
    (hrun : (s.ring k).tt.run = .hold) (hrep : (s.ring k).tt.report = false) (hexp : h.expired = false)
    (hsince : h.since ≤ (s.ring k).now) (hlim : (s.ring k).now < h.since + (s.ring k).tt.limit)
    (htest : (s.ring k).mayTest h.kind = true) (hcond : (s.ring k).condition (s.ring k).now (s.sharedOf k) h.kind = true) :
    s.frees k = true := by
  simp [State.frees, ha, hh, hrun, hrep, hexp, hsince, hlim, htest, hcond]

/-- The release of a hold, in the ring cycle that the ring has been brought to. -/
theorem exec_holdRelease_of (i : Issue) (s s1 : State) (h : Hold)
    (hs1 : State.seekFree i.ring.val i.cycle (i.cycle + 1) (settled s i.ring.val 0) = s1)
    (hh : (s1.ring i.ring.val).tt.hold = some h) (hf : s1.frees i.ring.val = true) :
    exec (.holdRelease i) s = .next ((s1.setRing i.ring.val
      ((s1.ring i.ring.val).release (s1.ring i.ring.val).now h.kind)).releaseShared i.ring.val h.kind) := by
  subst hs1
  rw [exec_holdRelease]
  delta execHoldRelease
  simp only [settled] at hh hf ⊢
  simp only [hh, hf, if_true]

/-- A hold whose condition comes within its limit: the limit's event brings the ring to it. -/
theorem exec_holdLimitExpiry_freed (i : Issue) (s s2 : State) (h : Hold) (hh : (s.ring i.ring.val).tt.hold = some h)
    (hs2 : State.seekFree i.ring.val (h.since + (s.ring i.ring.val).tt.limit - 1)
      (h.since + (s.ring i.ring.val).tt.limit - 1 + 1) (settled s i.ring.val 0) = s2)
    (hf : s2.frees i.ring.val = true) : exec (.holdLimitExpiry i) s = .next s2 := by
  rw [settled] at hs2
  simp only [exec_holdLimitExpiry, execHoldLimitExpiry, hh, hs2, hf, Bool.not_true, Bool.and_false, Bool.false_eq_true, if_false]

/-- A hold whose limit runs out. -/
def Ring.expire (r : Ring) (h : Hold) : Ring :=
  ({ r with tt := { r.tt with hold := some { h with expired := true } } } : Ring).ttFault tfHoldtime none

theorem exec_holdLimitExpiry_expired (i : Issue) (s s2 : State) (h : Hold) (hh : (s.ring i.ring.val).tt.hold = some h)
    (hs2 : State.seekFree i.ring.val (h.since + (s.ring i.ring.val).tt.limit - 1)
      (h.since + (s.ring i.ring.val).tt.limit - 1 + 1) (settled s i.ring.val 0) = s2)
    (ha : (s2.ring i.ring.val).awake = true) (hrun : (s2.ring i.ring.val).tt.run = .hold)
    (hrep : (s2.ring i.ring.val).tt.report = false) (hexp : h.expired = false) (hf : s2.frees i.ring.val = false) :
    exec (.holdLimitExpiry i) s = .next (afterRing s2 i.ring.val
      ((settledRing s2 ⟨i.ring, h.since + (s.ring i.ring.val).tt.limit - 1 + 1⟩).expire h)) := by
  have he := s2.event_of ⟨i.ring, h.since + (s.ring i.ring.val).tt.limit - 1 + 1⟩ (fun _ r => r.expire h) ha
  rw [settled] at hs2
  simp only [exec_holdLimitExpiry, execHoldLimitExpiry, hh, hs2, hf, ha, hrun, hrep, hexp]
  exact congrArg Host.Outcome.next he

theorem Ring.expire_tt (r : Ring) (h : Hold) :
    (r.expire h).tt.fault &&& 4 = 4 ∧ (r.expire h).tt.hold = some { h with expired := true } :=
  ⟨(by decide : ∀ x : BitVec 4, (x ||| 4) &&& 4 = 4) r.tt.fault, rfl⟩

/-- A shared counter that releases a hold gives up its count and bars the other rings that share it (R195). -/
theorem State.releaseShared_counter (s : State) {k part : Nat} {sc : Scope} (name n : Nat) (hsc : sc = .span ∨ sc = .device)
    (hp : s.partOf k = some part) :
    let t := s.releaseShared k (.twait sc name n)
    t.part part = (s.part part).setCounter (k / 16) sc name ((s.part part).counter (k / 16) sc name - n) ∧
      ∀ j ∈ (s.part part).rings, j ≠ k → (sc = .device ∨ j / 16 = k / 16) →
        ∀ m, (t.ring j).mayTest (.twait sc name m) = false := by
  obtain ⟨hparts, -, hrings⟩ := s.releaseShared_of name n hsc hp
  rw [State.serveShared_eq] at hparts hrings
  refine ⟨?_, fun j hj hne hs m => ?_⟩
  · rw [State.part_congr (hparts.trans (State.passAll_keeps ..).1), State.part_setPart]
  · rw [hrings j hne]
    exact Ring.mayTest_of_barred (State.passAll_barred _ _ _ _ _ (.inl (Partition.mem_sharers _ hj hne hs))) m

/-- Settles O20: the release acts on the ring cycle that the seeking has come to, on the ring by the kind of its hold and on the
partition by its counter; a limit that runs out acts in the ring cycle after the last one sought. -/
theorem holdRelease : Obligations.HoldRelease := by
  intro i s h ha k s1 r
  have hs1 : State.seekFree k i.cycle (i.cycle + 1) (settled s k 0) = s1 := rfl
  have hch : s.RingChanges k s1 := s.seekFree_settled k _ _
  have hr : s1.ring k = r := rfl
  clear_value s1 r
  refine ⟨fun hawake hh hrun hrep hexp hsince hlim hend hgone hcond => ?released, ?limit⟩
  case limit =>
    intro hh last s2 q
    have hs2 : State.seekFree k last (last + 1) (settled s k 0) = s2 := rfl
    have hch2 : s.RingChanges k s2 := s.seekFree_settled k _ _
    clear_value s2
    refine ⟨fun hf => exec_holdLimitExpiry_freed i s s2 h hh hs2 hf, fun hawake hrun hrep hexp hf => ?_⟩
    have hafter := afterRing_ringChanges s2 k ((settledRing s2 ⟨i.ring, last + 1⟩).expire h)
    refine ⟨_, exec_holdLimitExpiry_expired i s s2 h hh hs2 hawake hrun hrep hexp hf, ?_, ?_, hafter.mem.trans hch2.mem,
      hafter.fns.trans hch2.fns⟩
    · rw [afterRing_tt]
      exact (Ring.expire_tt _ h).1
    · rw [afterRing_tt]
      exact (Ring.expire_tt _ h).2
  case released =>
    subst hr
    have hf := s1.frees_of k h hawake hh hrun hrep hexp hsince hlim (Ring.mayTest_of hend hgone) hcond
    refine ⟨_, exec_holdRelease_of i s s1 h hs1 hh hf, ?_⟩
    let u := s1.setRing k ((s1.ring k).release (s1.ring k).now h.kind)
    have hu : u.ring k = (s1.ring k).release (s1.ring k).now h.kind := State.ring_setRing ..
    obtain ⟨hmem, hfns, hrings, htt⟩ := u.releaseShared_releases k h.kind
    rw [hu] at htt
    have own (sc : Scope) (name n : Nat) (hk : h.kind = .twait sc name n) (hsc : ¬ (sc = .span ∨ sc = .device)) :
        (u.releaseShared k h.kind).ring k = (s1.ring k).release (s1.ring k).now (.twait sc name n) := by
      rw [u.releaseShared_own k h.kind (fun _ _ _ _ hk' hs => absurd hs (by cases hk.symm.trans hk'; exact hsc)), hu, hk]
    have counter (sc : Scope) (name n part : Nat) (hk : h.kind = .twait sc name n) (hsc : sc = .span ∨ sc = .device)
        (hp : s1.partOf k = some part) := hk ▸ u.releaseShared_counter name n hsc hp
    refine ⟨?hold, ?fin, ?issues, ?leg, ?ring, ?cluster, ?span, ?device, ?barred, hmem.trans hch.mem,
      hfns.trans hch.fns, ?others⟩
    case hold => rw [htt, Ring.release_hold]
    case fin =>
      intro hk
      rw [htt, hk]
      exact ⟨rfl, rfl⟩
    case issues =>
      intro hk
      rw [htt]
      exact Ring.release_issues _ _ _ hk
    case leg =>
      intro target hk
      obtain ⟨b, hb⟩ := (s1.ring k).release_leg (s1.ring k).now target
      rw [htt, hk, hb]
    case ring =>
      intro name n hk
      rw [own _ name n hk (by simp)]
      rfl
    case cluster =>
      intro name n hk
      rw [own _ name n hk (by simp)]
      exact Ring.release_cl_cluster _ _ name n
    case span => exact fun name n part hk hp => (counter _ name n part hk (.inl rfl) hp).1
    case device => exact fun name n part hk hp => (counter _ name n part hk (.inr rfl) hp).1
    case barred => exact fun sc name n part hk hsc hp => (counter sc name n part hk hsc hp).2
    case others =>
      intro j hj
      obtain ⟨g, hg⟩ := hrings j hj
      exact ⟨g, by rw [hg, State.ring_setRing_ne _ _ _ _ hj, hch.ring j hj]⟩

end Sys2Proof.Machine

/-! # Full halves, transfers and free accesses (O24)

A half, a transfer and a descriptor are each one change of the ring; a free access is a turn at a line of a cluster, which its
requester has, waits for, or has had. -/

namespace Sys2Proof.Machine

/-! ## Full halves (R185) -/

/-- A closed half whose writes have all landed becomes full. -/
theorem StreamEng.fillHalf_of (x : StreamEng) (half : Bool) (hc : x.halfSt half = .closed) (hb : x.halfBusy half = false) :
    x.fillHalf half = x.setHalf half .full :=
  if_pos ⟨hc, hb⟩

/-- The half of an engine is looked at in its awake ring, at the start of the ring cycle. -/
theorem exec_streamHalfFull_of (e : EngAt) (half : Bool) (s : State) (h : (s.ring (e.cl.val / 16)).awake = true) :
    let k := e.cl.val / 16
    let r := (s.ring k).settle k (max e.cycle (s.ring k).now)
    let c := r.get (e.cl.val % 16)
    exec (.streamHalfFull e half) s = .next (afterRing s k (r.put (e.cl.val % 16)
      (c.setEngine e.eng.val ((c.engine e.eng.val).fillHalf half)))) := by
  intro k r c
  rw [exec_streamHalfFull, execStreamHalfFull]
  rw [s.event_of ⟨⟨k, by omega⟩, e.cycle⟩ _ h]
  rfl

/-! ## Transfers (R164, R191, R192) -/

/-- A slot that submits a transfer acts once the descriptors read before it have been taken up. -/
theorem State.xferOp_of {s s2 : State} {i : Issue} {c : Instr} {f : Nat → Ring → Ring} {q : Ring}
    (hs2 : settled s i.ring.val i.cycle = s2) (hq : f (cycleAt s2 i) (ringAt s2 i 6) = q) (hs : Issues s2 i 6 c) :
    s.xferOp i c f = .next (afterRing s2 i.ring.val q) := by
  subst hs2
  exact (State.slotOp_of _ i 6 c f hs).trans (by rw [hq])

/-- The read of its descriptor that a submission makes due in each cluster that has room for it. -/
def Ring.submitXfer (r : Ring) (t : Nat) (op : Xop) (sd : Fin 32) (sc : Scope) (name : Nat) : Ring :=
  r.each (fun _ x => if 16 ≤ xferCount x then x
    else x.due t t 6 (.xfer op (bits (x.r.getS sd.val).toNat 5 16 * 32) sc name r.optph))

/-- A submission makes its reads due; the first cluster without room is the ring's fault. -/
theorem Ring.xfer_eq (r : Ring) (t : Nat) (op : Xop) (sd : Fin 32) (sc : Scope) (name : Nat) :
    r.xfer t op sd sc name = match r.cl.findIdx? (fun x => decide (16 ≤ xferCount x)) with
      | some j => (r.submitXfer t op sd sc name).ttFault tfXfull (some j)
      | none => r.submitXfer t op sd sc name := by
  cases hj : r.cl.findIdx? (fun x => decide (16 ≤ xferCount x)) with
  | none => simp only [Ring.xfer, Ring.submitXfer, Ring.firstSlot, decide_eq_true_eq, hj]
  | some j => simp only [Ring.xfer, Ring.submitXfer, Ring.firstSlot, decide_eq_true_eq, hj]

/-- A transfer whose last byte is delivered leaves the engine and posts its token. -/
theorem exec_transferComplete_of (cl : Fin 4096) (idx : Fin 16) (cycle : Nat) (s s1 : State) (x : Transfer)
    (hs1 : settled s (cl.val / 16) cycle = s1) (hx : (s1.cluster cl.val).xfers.getD idx.val none = some x)
    (hd : x.job.len ≤ x.job.put) : exec (.transferComplete cl idx cycle) s = .next
      ((s1.setCluster cl.val { s1.cluster cl.val with xfers := (s1.cluster cl.val).xfers.set idx.val none }).postFrom
        cl.val x.scope x.name 4) := by
  subst hs1
  rw [settled] at hx ⊢
  rw [exec_transferComplete]
  delta execTransferComplete
  simp only [hx, if_pos hd]

/-! ## A turn at a line (R242, R243) -/

section
variable (s : State) (g line : Nat) (w : Client) (has : FreeUse → State)

/-- The record of the free requesters of cluster `g` in its ring's present cycle. -/
def State.freeUse : FreeUse := (s.cluster g).ls.use.enter (s.ring (g / 16)).now (fun b w => s.wants g b w)

/-- The bank is claimed in the ring's present cycle, or the round comes first to another. -/
def State.FreeBarred : Prop :=
  ((s.cluster g).claimed (s.ring (g / 16)).now).contains (bankOf line) = true ∨ (s.freeUse g).bars g (bankOf line) line w = true

theorem State.freeTurn_served (h : (s.freeUse g).served.contains w = true) : s.freeTurn g line w has = s := if_pos h

theorem State.freeTurn_barred (h : (s.freeUse g).served.contains w = false) (hb : s.FreeBarred g line w) :
    s.freeTurn g line w has = s.setCluster g { s.cluster g with ls := { (s.cluster g).ls with
      wait := (s.cluster g).ls.wait + (if (s.freeUse g).waited then 0 else 1), use := (s.freeUse g).wait (bankOf line) w } } := by
  have hw : b2n (!(s.freeUse g).waited) = if (s.freeUse g).waited then 0 else 1 := by
    cases (s.freeUse g).waited <;> rfl
  rw [← hw]
  exact (if_neg (by simpa [State.freeUse] using h)).trans (if_pos (by simpa [State.FreeBarred, State.freeUse] using hb))

theorem State.freeTurn_free (h : (s.freeUse g).served.contains w = false) (hb : ¬ s.FreeBarred g line w) :
    s.freeTurn g line w has = has ((s.freeUse g).serve g (bankOf line) line w) :=
  (if_neg (by simpa [State.freeUse] using h)).trans (if_neg (by simpa [State.FreeBarred, State.freeUse] using hb))

end

/-! ## A line that moves (R192, R222, R229) -/

section
variable (s : State) (g : Nat) (who : Client) (k : LsCtx) (c : Cluster) (a n wrong : Nat)

theorem State.freeMove_job_write {j : Job} (hj : s.jobOf who = some j) : s.freeMove g who k c a n wrong true =
    ((s.setCluster g (c.freeWrite k a wrong (j.buf.take n))).setJob who (j.gave n)).afterJob who := by
  simp only [State.freeMove, hj, if_true]

theorem State.freeMove_job_read {j : Job} (hj : s.jobOf who = some j)
    (hf : (c.freeRead k a n wrong).2.flt.length = c.flt.length) : s.freeMove g who k c a n wrong false =
      (s.setCluster g (c.freeRead k a n wrong).2).setJob who (j.took (c.freeRead k a n wrong).1) := by
  simp only [State.freeMove, hj, hf, Bool.false_eq_true, if_false, ne_eq, not_true_eq_false]

/-- The cluster of a line that a Trestle request moves. -/
def State.freeLineMoved (write : Bool) : Cluster :=
  if write then c.freeWrite k a wrong ((s.ring (g / 16)).tr.lineBytes (g % 16) a) else (c.freeRead k a n wrong).2

theorem State.freeMove_trestle (write : Bool) (hj : s.jobOf who = none)
    (hf : (s.freeLineMoved g k c a n wrong write).flt.length = c.flt.length) : s.freeMove g who k c a n wrong write =
      let t := s.setCluster g (s.freeLineMoved g k c a n wrong write)
      t.setRing (g / 16) { t.ring (g / 16) with tr := { (t.ring (g / 16)).tr with
        run := (t.ring (g / 16)).tr.run.map (fun q => q.moved (g % 16) a write) } } := by
  rw [State.freeLineMoved] at hf ⊢
  simp only [State.freeMove, hj, hf, ne_eq, not_true_eq_false, if_false]

end

/-! ## FREE_BANK_ACCESS -/

/-- A free access that reaches its span is a turn at its line. -/
theorem State.freeAccess_of (s : State) (g : Nat) (who : Client) (wrong a n : Nat) (write : Bool)
    (hl : s.freeLine g who = some (a, n, write)) (hr : s.clientReaches ((s.partOf (g / 16)).getD 0) who (g / 256) = true) :
    s.freeAccess g who wrong = s.freeTurn g (lineOf a) (requesterOf who) (fun u =>
      s.freeMove g who ⟨g / 16, (s.ring (g / 16)).wakes, (s.ring (g / 16)).now, 16 + g % 16, []⟩
        { s.cluster g with ls := { (s.cluster g).ls with use := u } } a n wrong write) := by
  simp only [State.freeAccess, hl, hr, Bool.not_true, Bool.false_eq_true, if_false]

/-- Before a line of a Trestle request of ring `k` moves, the request does what it can. -/
def State.trestleFirst (s : State) (k : Nat) (who : Client) : State :=
  match who, s.partOf k with
  | .trestle j, some part => if j.val = k then (s.trestleRead part k).trestleWork part k else s
  | _, _ => s

theorem exec_freeBankAccess_of (cl : Fin 4096) (who : Client) (cycle wrong : Nat) (s s3 : State)
    (hs3 : (s.atRing (cl.val / 16) (fun r => r.event (cl.val / 16) cycle (fun t r => r.finish (cl.val / 16) t))).trestleFirst
      (cl.val / 16) who = s3) (ha : (s3.ring (cl.val / 16)).awake = true) :
    exec (.freeBankAccess cl who cycle wrong) s = .next ((s3.freeAccess cl.val who wrong).takeFlags (cl.val / 16)) := by
  subst hs3
  exact congrArg Host.Outcome.next (if_pos ha)

/-- Settles O24: a half, a submission and the end of a transfer are each one change of the ring or its cluster; a free access is a
turn at its line, and what it moves is told by the job or the request that moves it. -/
theorem streamDataMoves : Obligations.StreamDataMoves := by
  intro e half i sd sc name idx who wrong s k s1 c
  refine ⟨?full, ?submits, fun x hx hd => exec_transferComplete_of e.cl idx e.cycle s s1 x rfl hx hd, ?free⟩
  case full =>
    intro ha r x hc hb
    have he := exec_streamHalfFull_of e half s ha
    rw [← x.fillHalf_of half hc hb]
    exact he
  case submits =>
    intro s2 r t runs
    have hs2 : settled s i.ring.val i.cycle = s2 := rfl
    have hr : ringAt s2 i 6 = r := rfl
    have ht : cycleAt s2 i = t := rfl
    clear_value s2 r t
    have submit {c : Instr} {op : Xop} (he : ∀ s, exec c s = s.xferOp i c (fun t r => r.xfer t op sd sc name.toNat)) :
        runs c op := fun hs => by
      have hx := State.xferOp_of (f := fun t r => r.xfer t op sd sc name.toNat) hs2 rfl hs
      rw [hr, ht, Ring.xfer_eq] at hx
      exact (he s).trans hx
    exact ⟨submit (fun _ => rfl), submit (fun _ => rfl), submit (fun _ => rfl)⟩
  case free =>
    intro a n write g s2 s3 ha hl hr
    have hs3 : s2.trestleFirst k who = s3 := by
      rfl
    clear_value s3
    intro t b w c u c' ctx x becomes barred
    have turn : exec (.freeBankAccess e.cl who e.cycle wrong) s = .next ((s3.freeTurn g (lineOf a) w (fun u =>
        s3.freeMove g who ctx { c with ls := { c.ls with use := u } } a n wrong write)).takeFlags k) := by
      rw [exec_freeBankAccess_of e.cl who e.cycle wrong s s3 hs3 ha, State.freeAccess_of s3 g who wrong a n write hl hr]
    have has (hu : u.served.contains w = false) (hb : ¬ barred) : exec (.freeBankAccess e.cl who e.cycle wrong) s =
        .next ((s3.freeMove g who ctx c' a n wrong write).takeFlags k) := by
      rw [turn, State.freeTurn_free s3 g (lineOf a) w _ hu hb]
      rfl
    refine ⟨fun hu => ?served, fun hu hb => ?waits, fun hu hb j hj => ⟨fun hw => ?gives, fun hw hf => ?takes⟩, ?trestle⟩
    case served => exact turn.trans (by rw [State.freeTurn_served s3 g (lineOf a) w _ hu])
    case waits => exact turn.trans (by rw [State.freeTurn_barred s3 g (lineOf a) w _ hu hb]; rfl)
    case gives =>
      subst hw
      exact (has hu hb).trans (by rw [State.freeMove_job_write _ _ _ _ _ _ _ _ hj])
    case takes =>
      subst hw
      exact (has hu hb).trans (by rw [State.freeMove_job_read _ _ _ _ _ _ _ _ hj hf])
    case trestle =>
      intro hu hb hj y s4 hf
      exact (has hu hb).trans (by rw [State.freeMove_trestle _ _ _ _ _ _ _ _ _ hj hf]; rfl)

end Sys2Proof.Machine

/-! # Orders of a tenant (O54)

Each order is admitted and then goes through its own tests; an area that it reads and a place that it writes are two operations,
each with one equation per outcome. -/

namespace Sys2Proof.Machine

/-! ## Areas that an order reads (R260, R437) -/

/-- The device once the granules of an area have been read, meeting their erroneous bytes. -/
def State.readOf (s : State) (part a n : Nat) (wrong : List Nat) : State :=
  (s.fabricOn.fetchPart part a n).meetPart part a n wrong

section
variable {was s : State} {f slot part a n : Nat} {wrong : List Nat} {g : State → List Byte → State}

theorem State.withArea_unmapped (hn : 0 < n) (hm : s.boxMaps part a n false = false) :
    was.withArea s f slot part a n wrong g = s.completeBad f slot part stBounds :=
  if_pos ⟨hn, by rw [hm]; rfl⟩

variable (hm : n = 0 ∨ s.boxMaps part a n false = true)
include hm

theorem State.withArea_mapped : was.withArea s f slot part a n wrong g =
    if !s.rangeServes part a n then was else
      match (s.readOf part a n wrong).readArea part a n with
      | .data l => g (s.readOf part a n wrong) l
      | _ => (s.readOf part a n wrong).completeBad f slot part stFaulted :=
  if_neg (fun ⟨hn, hb⟩ => by rcases hm with h | h <;> simp_all)

theorem State.withArea_waits (hs : s.rangeServes part a n = false) : was.withArea s f slot part a n wrong g = was := by
  rw [State.withArea_mapped hm, hs]
  rfl

variable (hs : s.rangeServes part a n = true)
include hs

theorem State.withArea_spoilt (hr : (s.readOf part a n wrong).readArea part a n = .uncorrectable) :
    was.withArea s f slot part a n wrong g = (s.readOf part a n wrong).completeBad f slot part stFaulted := by
  rw [State.withArea_mapped hm, hs, hr]
  rfl

theorem State.withArea_data {l : List Byte} (hr : (s.readOf part a n wrong).readArea part a n = .data l) :
    was.withArea s f slot part a n wrong g = g (s.readOf part a n wrong) l := by
  rw [State.withArea_mapped hm, hs, hr]
  rfl

end

/-! ## Areas that an order writes (R251, R257, R437) -/

/-- The device once the granules that a write merges into have been read, meeting their erroneous bytes. -/
def State.mergedOf (s : State) (part a n : Nat) (wrong : List Nat) : State :=
  ((partialGranules a n).zip wrong).foldl (fun s x => s.meetPart part x.1 64 [x.2]) s.fabricOn

section
variable {was s : State} {f slot part a n : Nat} {wrong : List Nat} {g : State → State}
  (ht : s.boxMaps part a n true = true ∧ s.rangeServes part a n = true)
include ht

theorem State.withDest_of : was.withDest s f slot part a n wrong g =
    if (s.mergedOf part a n wrong).partMerges part a (List.replicate n 0) then
      (s.mergedOf part a n wrong).completeBad f slot part stFaulted
    else g (s.mergedOf part a n wrong) := by
  obtain ⟨hm, hs⟩ := ht
  simp only [State.withDest, hm, hs, Bool.not_true, Bool.false_eq_true, if_false]
  rfl

theorem State.withDest_spoilt (h : (s.mergedOf part a n wrong).partMerges part a (List.replicate n 0) = true) :
    was.withDest s f slot part a n wrong g = (s.mergedOf part a n wrong).completeBad f slot part stFaulted := by
  rw [State.withDest_of ht, if_pos h]

theorem State.withDest_takes (h : (s.mergedOf part a n wrong).partMerges part a (List.replicate n 0) = false) :
    was.withDest s f slot part a n wrong g = g (s.mergedOf part a n wrong) := by
  rw [State.withDest_of ht, h, if_neg Bool.false_ne_true]

end

/-! ## A tenant in TEARDOWN (R339) -/

/-- The partition of a tenant whose order is taken is the one its VF is bound to. -/
theorem TenantOrder.torn {s : State} {f slot part : Nat} (h : TenantOrder s f slot part) :
    s.torn f = if (s.part part).st = .teardown then some part else none := by
  obtain ⟨-, hf, ht, -, -⟩ := h
  have hb : s.boundPart f = some part := by
    unfold State.tenant at ht
    split at ht
    · next q hq =>
      split at ht
      · cases ht
      · rw [hq, ← ht]
    · cases ht
  simp [State.torn, hf, hb, Option.filter]

theorem State.tornOrder_of (s : State) (f slot part : Nat) (h : s.takes f slot = true) :
    s.tornOrder f slot part true = (s.takeOrder f slot).completeBad f slot part stConflict := by
  simp only [State.tornOrder, h, if_true]

/-! ## The image key (R360, R361) -/

section
variable {s : State} {f k : Fin 64} {part : Nat} (h : TenantOrder s f.val k.val part)
include h

/-- An image key order that is admitted: STATE_CONFLICT, or the area of the key and the test of its form. -/
theorem exec_imageKey_of (a : Word) (ide : Bool) (wrong : List Nat) : exec (.imageKey f k a ide wrong) s = .next (
    if (s.part part).st.idleOne = false ∨ (s.part part).key ≠ none then
      (s.takeOrder f.val k.val).completeBad f.val k.val part stConflict
    else s.withArea (s.takeOrder f.val k.val) f.val k.val part a.toNat 157 wrong (fun s key =>
      if !tenantKeyOk key then s.completeBad f.val k.val part stFormat
      else (s.setPart part { s.part part with key := some ⟨key, ide⟩ }).complete f.val k.val stOk 0 [])) := by
  rw [exec_imageKey, execImageKey, State.vfOrder_of s f.val k.val part false _ h]
  have hc : (!(s.part part).st.idleOne || (s.part part).key.isSome) = true ↔
      ((s.part part).st.idleOne = false ∨ (s.part part).key ≠ none) := by
    simp [Option.isSome_iff_ne_none]
  exact congrArg Host.Outcome.next (if_congr hc rfl rfl)

/-! ## Certificates (R352, R355, R359) -/

theorem exec_certificate_waits (dst : Word) (space : BitVec 16) (nlen sel : Byte) (na : Word) (wrong : List Nat)
    (hw : s.certWaits f.val sel.toNat = true) (hn : nlen.toNat ≤ 64) (hp : (s.part part).st ≠ .teardown) :
    exec (.certificate f k dst space nlen sel na wrong) s = .next s := by
  have ht : s.torn f.val = none := by rw [h.torn, if_neg hp]
  have hsel : sel.toNat ≤ 2 := by
    obtain ⟨⟨⟨⟨h0, -⟩, -⟩, -⟩, -⟩ : ((((sel.toNat = 0 ∧ _) ∧ _) ∧ _) ∧ _) := by
      simpa only [State.certWaits, Bool.and_eq_true, decide_eq_true_eq] using hw
    omega
  simp only [exec_certificate, execCertificate, ht, hw, hn, hsel, decide_true, Bool.and_true, if_true]

theorem exec_certificate_of (dst : Word) (space : BitVec 16) (nlen sel : Byte) (na : Word) (wrong : List Nat)
    (hw : s.certWaits f.val sel.toNat = false) (hn : nlen.toNat ≤ 64) (hsel : sel.toNat ≤ 2) (hl : (s.part part).st ≠ .loading)
    (hp : (s.part part).st ≠ .teardown) (hatt : s.il.attested = true) (hx : s.il.lmsExh = false ∨ sel.toNat ≠ 0) :
    exec (.certificate f k dst space nlen sel na wrong) s = .next (s.withArea (s.takeOrder f.val k.val) f.val k.val part na.toNat
      nlen.toNat wrong (fun t nonce => s.giveCert t f.val k.val part dst.toNat space.toNat sel.toNat nonce
        (wrong.drop (granules na.toNat nlen.toNat).length))) := by
  have ht : s.torn f.val = none := by rw [h.torn, if_neg hp]
  have hexh : (s.il.lmsExh && decide (sel.toNat = 0)) = false := by
    rcases hx with hx | hx <;> simp [hx]
  simp only [exec_certificate, execCertificate, ht, hw, hn, hsel, decide_true, Bool.and_true, Bool.and_false, Bool.false_eq_true,
    if_false, State.vfOrder_of s f.val k.val part true _ h, State.takeOrder_part, beq_eq_false_iff_ne.mpr hl, hatt, hexh,
    Bool.not_true]

/-! ## Sealing (R348) -/

/-- A seal or unseal order that is admitted: STATE_CONFLICT, or the area that it writes and then the one that it reads. -/
theorem State.sealOrder_of (wrong : List Nat) (src dst : Nat × Nat) (g : Nat → State → List Byte → State) :
    s.sealOrder f.val k.val true wrong src dst g =
      if (s.part part).st.seals = false then (s.takeOrder f.val k.val).completeBad f.val k.val part stConflict
      else s.withDest (s.takeOrder f.val k.val) f.val k.val part dst.1 dst.2 (wrong.drop (granules src.1 src.2).length) (fun t =>
        s.withArea t f.val k.val part src.1 src.2 wrong (g part)) := by
  by_cases hp : (s.part part).st = .teardown
  · have ht : s.torn f.val = some part := by rw [h.torn, if_pos hp]
    simp only [State.sealOrder, ht, hp, PState.seals, if_true, s.tornOrder_of f.val k.val part h.1]
  · have ht : s.torn f.val = none := by rw [h.torn, if_neg hp]
    simp only [State.sealOrder, ht, State.vfOrder_of s f.val k.val part false _ h, State.takeOrder_part]
    exact if_congr (by rw [Bool.not_eq_true']) rfl rfl

end

section
variable {s : State} {f k : Fin 64} {part n : Nat} {wrong : List Nat} {src dst : Nat × Nat}
  {g : Nat → State → List Byte → State} (h : TenantOrder s f.val k.val part)
include h

theorem State.sealOrder_conflict (hs : (s.part part).st.seals = false) : s.sealOrder f.val k.val true wrong src dst g =
    (s.takeOrder f.val k.val).completeBad f.val k.val part stConflict := by
  rw [State.sealOrder_of h, if_pos hs]

variable (hs : (s.part part).st.seals = true)
  (ht : (s.takeOrder f.val k.val).boxMaps part dst.1 dst.2 true = true ∧
    (s.takeOrder f.val k.val).rangeServes part dst.1 dst.2 = true)
include hs ht

/-- A seal or unseal order whose destination can be written, in its outcomes. -/
theorem State.sealOrder_takes :
    let s2 := (s.takeOrder f.val k.val).mergedOf part dst.1 dst.2 (wrong.drop (granules src.1 src.2).length)
    let s3 := s2.readOf part src.1 src.2 wrong
    (s2.partMerges part dst.1 (List.replicate dst.2 0) = true →
      s.sealOrder f.val k.val true wrong src dst g = s2.completeBad f.val k.val part stFaulted) ∧
    (s2.partMerges part dst.1 (List.replicate dst.2 0) = false →
      s2.boxMaps part src.1 src.2 false = true ∧ s2.rangeServes part src.1 src.2 = true →
      (s3.readArea part src.1 src.2 = .uncorrectable →
        s.sealOrder f.val k.val true wrong src dst g = s3.completeBad f.val k.val part stFaulted) ∧
      ∀ l, s3.readArea part src.1 src.2 = .data l → s.sealOrder f.val k.val true wrong src dst g = g part s3 l) := by
  intro s2 s3
  have hns : ¬ (s.part part).st.seals = false := by simp [hs]
  rw [State.sealOrder_of h, if_neg hns]
  refine ⟨fun hm => State.withDest_spoilt ht hm, fun hm ⟨hmap, hserve⟩ => ?_⟩
  rw [State.withDest_takes ht hm]
  exact ⟨fun hr => State.withArea_spoilt (.inr hmap) hserve hr, fun l hr => State.withArea_data (.inr hmap) hserve hr⟩

end

/-- The plaintext is sealed and written. -/
def State.sealTo (f slot dst n part : Nat) (s : State) (pt : List Byte) : State :=
  ((s.random 12).2.writePart part dst (sealBlob (s.sealKey part) s.il.lc (s.random 12).1 pt)).complete f slot stOk 0
    [(64, toLe 4 (n + 40))]

/-- The blob is opened and its plaintext written, or the order completes with the code of what is wrong with it. -/
def State.unsealTo (f slot dst n part : Nat) (s : State) (blob : List Byte) : State :=
  match openBlob (s.sealKey part) n blob with
  | .error code => s.completeBad f slot part code
  | .ok pt => (s.writePart part dst pt).complete f slot stOk 0 [(64, toLe 4 n)]

theorem State.unsealTo_ok {f slot dst n part : Nat} {s : State} {blob pt : List Byte}
    (ho : openBlob (s.sealKey part) n blob = .ok pt) :
    State.unsealTo f slot dst n part s blob =
      (s.writePart part dst pt).complete f slot stOk 0 [(64, toLe 4 n)] := by
  simp only [State.unsealTo, ho]

theorem State.unsealTo_error {f slot dst n part code : Nat} {s : State} {blob : List Byte}
    (ho : openBlob (s.sealKey part) n blob = .error code) :
    State.unsealTo f slot dst n part s blob = s.completeBad f slot part code := by
  simp only [State.unsealTo, ho]

section
variable (s : State) (f k : Fin 64) (a dst : Word) (len : BitVec 32) (wrong : List Nat) (h1 : 1 ≤ len.toNat)
  (h2 : len.toNat ≤ 65536)
include h1 h2

theorem exec_seal_of : exec (.seal f k a dst len wrong) s = .next (s.sealOrder f.val k.val true wrong (a.toNat, len.toNat)
    (dst.toNat, len.toNat + 40) (State.sealTo f.val k.val dst.toNat len.toNat)) := by
  simp only [exec_seal, execSeal, h1, h2, decide_true, Bool.and_self]
  rfl

theorem exec_unseal_of : exec (.unseal f k a dst len wrong) s = .next (s.sealOrder f.val k.val true wrong
    (a.toNat, len.toNat + 40) (dst.toNat, len.toNat) (State.unsealTo f.val k.val dst.toNat len.toNat)) := by
  simp only [exec_unseal, execUnseal, h1, h2, decide_true, Bool.and_self]
  rfl

end

/-- An order of a VF whose partition is in TEARDOWN completes with STATE_CONFLICT (R339). -/
theorem State.sealOrder_torn {s : State} {f k part : Nat} {wrong : List Nat} {src dst : Nat × Nat}
    {g : Nat → State → List Byte → State} (ht : s.torn f = some part) (hk : s.takes f k = true) :
    s.sealOrder f k true wrong src dst g = (s.takeOrder f k).completeBad f k part stConflict := by
  simp only [State.sealOrder, ht, s.tornOrder_of f k part hk]

theorem exec_certificate_torn {s : State} {f k : Fin 64} {part : Nat} (dst : Word) (space : BitVec 16) {nlen sel : Byte}
    (na : Word) (wrong : List Nat) (ht : s.torn f.val = some part) (hk : s.takes f.val k.val = true) (hn : nlen.toNat ≤ 64)
    (hsel : sel.toNat ≤ 2) :
    exec (.certificate f k dst space nlen sel na wrong) s =
      .next ((s.takeOrder f.val k.val).completeBad f.val k.val part stConflict) := by
  simp only [exec_certificate, execCertificate, ht, hn, hsel, decide_true, Bool.and_self, s.tornOrder_of f.val k.val part hk]

/-! ## Register orders and halts (R178, R336, R417) -/

section
variable {s : State} {f k : Fin 64} {part : Nat} (h : TenantOrder s f.val k.val part)
include h

theorem State.regStranger_of (a width : Nat) (write : Option Nat) : s.regStranger f.val a width write =
    if regForm a width && s.regForeign (.tenantOf part) a width write then some part else none := by
  obtain ⟨-, hf, ht, -, -⟩ := h
  simp only [State.regStranger, hf, if_false, ht, Option.filter]

/-- A register order whose width and address do not check is answered with FORMAT. -/
theorem State.regCommand_bad (a width : Nat) (write : Option Nat) (hr : regForm a width = false) :
    s.regCommand (.slot f k) a width write = (s.takeOrder f.val k.val).completeBad f.val k.val part stFormat := by
  simp only [State.regCommand, State.regStranger_of h, hr, Bool.false_and, Bool.false_eq_true, if_false,
    State.vfOrder_bad s f.val k.val part false _ h]

variable {a width : Nat} (hr : regForm a width = true)
include hr

/-- A register order of a register that the tenant reaches is carried out. -/
theorem State.regCommand_ok (write : Option Nat) {x : Block × Nat × Bool}
    (hl : s.locateReg (.tenantOf part) a width write.isSome = .ok x) :
    s.regCommand (.slot f k) a width write = (s.takeOrder f.val k.val).tenantReg f.val k.val part a width write := by
  simp only [State.regCommand, State.regStranger_of h, hr, State.regForeign, hl, Bool.and_false, Bool.false_eq_true, if_false,
    State.vfOrder_of s f.val k.val part false _ h]

/-- A register order that the access rules forbid completes with their code. -/
theorem State.regCommand_error (write : Option Nat) {code : Nat} (hc : code ≠ 0)
    (hl : s.locateReg (.tenantOf part) a width write.isSome = .error code) :
    s.regCommand (.slot f k) a width write = (s.takeOrder f.val k.val).completeBad f.val k.val part code := by
  by_cases ho : code = stOwnership
  · subst ho
    simp only [State.regCommand, State.regStranger_of h, hr, State.regForeign, hl, beq_self_eq_true, Bool.and_self, if_true,
      State.foreignOrder, h.1]
  · simp only [State.regCommand, State.regStranger_of h, hr, State.regForeign, hl, beq_eq_false_iff_ne.mpr ho, Bool.and_false,
      Bool.false_eq_true, if_false, State.vfOrder_of s f.val k.val part false _ h, State.tenantReg, State.regOrder,
      State.takeOrder_locateReg]

omit hr in
theorem exec_halt_slot (q : Fin 64) : exec (.halt (.slot f k) q) s = .next (
    if (s.part part).st = .running then (s.takeOrder f.val k.val).haltPart part [.slot f k]
    else (s.takeOrder f.val k.val).completeBad f.val k.val part stConflict) := by
  rw [exec_halt, execHalt]
  exact congrArg Host.Outcome.next (State.vfOrder_of s f.val k.val part false _ h)

end

/-- A register that is read. -/
theorem State.tenantReg_read {s : State} {part a width o : Nat} {b : Block} {w : Bool} (f slot : Nat)
    (hl : s.locateReg (.tenantOf part) a width false = .ok (b, o, w)) :
    s.tenantReg f slot part a width none = s.complete f slot stOk 0 [(64, toLe 8 (s.readReg b o w))] := by
  simp only [State.tenantReg, State.regOrder, Option.isSome_none, hl]
  rfl

/-- A register that takes what is written. -/
theorem State.tenantReg_write {s : State} {part a width o v : Nat} {b : Block} {w : Bool} (f slot : Nat)
    (hl : s.locateReg (.tenantOf part) a width true = .ok (b, o, w)) (hw : (s.writeReg b o w v).1 = stOk) :
    s.tenantReg f slot part a width (some v) = (s.writeReg b o w v).2.complete f slot stOk 0 [] := by
  simp only [State.tenantReg, State.regOrder, Option.isSome_some, hl, hw, if_true]
  rfl

/-! ## Certificates that are given -/

section
variable {was s : State} {f slot part dest space sel : Nat} {nonce : List Byte} {wrong : List Nat}

theorem State.giveCert_tooLong (h : space < (s.issue part sel nonce).1.length) :
    was.giveCert s f slot part dest space sel nonce wrong = s.completeBad f slot part stBounds :=
  if_pos h

theorem State.giveCert_fits (h : (s.issue part sel nonce).1.length ≤ space) :
    was.giveCert s f slot part dest space sel nonce wrong =
      was.withDest s f slot part dest (s.issue part sel nonce).1.length wrong (fun t =>
        ((t.issue part sel nonce).2.writePart part dest (t.issue part sel nonce).1).complete f slot stOk 0
          [(64, toLe 2 (s.issue part sel nonce).1.length)]) :=
  if_neg (Nat.not_lt.mpr h)

end

/-- Settles O54: each order goes through its own tests, and then through the area that it reads and the place that it writes; of a
partition in TEARDOWN three of the orders stop before all of them. -/
theorem tenantOrders : Obligations.TenantOrders := by
  intro f k a dst ide space nlen sel width na val len wrong part s s1 p n done ends bad met into reads takes merges
  refine ⟨fun h => ⟨?keyBad, ?key, ?certWaits, ?cert, ?seals, ?formBad, ?regs, ?halts, ?haltBad⟩, ?torn⟩
  case keyBad =>
    intro hk
    rw [exec_imageKey_of h, if_pos hk]
  case key =>
    intro hst hk
    have hkey := exec_imageKey_of h a ide wrong
    have hno : ¬ (p.st.idleOne = false ∨ p.key ≠ none) := by simp [hst, hk]
    rw [if_neg hno] at hkey
    rw [hkey]
    refine ⟨fun hm => ?unmapped, fun hm hs => ?waits, ?reads⟩
    case unmapped => exact congrArg Host.Outcome.next (State.withArea_unmapped (by decide) hm)
    case waits => exact congrArg Host.Outcome.next (State.withArea_waits (.inr hm) hs)
    case reads =>
      intro ⟨hm, hs⟩ s2
      refine ⟨fun hu => congrArg Host.Outcome.next (State.withArea_spoilt (.inr hm) hs hu), fun key hd => ?_⟩
      rw [State.withArea_data (.inr hm) hs hd]
      exact ⟨fun ho => congrArg Host.Outcome.next (if_neg (by simp [ho])),
        fun ho => congrArg Host.Outcome.next (if_pos (by simp [ho]))⟩
  case certWaits => exact fun hw hn hp => exec_certificate_waits h dst space nlen sel na wrong hw hn hp
  case cert =>
    intro hw hn hsel hl hp hatt hx hm hs s2
    rw [exec_certificate_of h dst space nlen sel na wrong hw hn hsel hl hp hatt hx]
    refine ⟨fun hu => congrArg Host.Outcome.next (State.withArea_spoilt hm hs hu), fun nonce hd => ?_⟩
    rw [State.withArea_data hm hs hd]
    intro m s3 x
    refine ⟨fun hlt => ?_, fun hle ht hmg => ?_, fun hle ht hmg => ?_⟩
    · exact congrArg Host.Outcome.next (State.giveCert_tooLong hlt)
    · exact congrArg Host.Outcome.next ((State.giveCert_fits hle).trans (State.withDest_spoilt ht hmg))
    · exact congrArg Host.Outcome.next ((State.giveCert_fits hle).trans (State.withDest_takes ht hmg))
  case seals =>
    intro h1 h2
    rw [exec_seal_of s f k a dst len wrong h1 h2, exec_unseal_of s f k a dst len wrong h1 h2]
    refine ⟨fun hs => ⟨congrArg Host.Outcome.next (State.sealOrder_conflict h hs),
      congrArg Host.Outcome.next (State.sealOrder_conflict h hs)⟩, ?sealed, ?opened⟩
    case sealed =>
      intro hs ht s2 s3
      obtain ⟨spoilt, goes⟩ := State.sealOrder_takes (wrong := wrong) (src := (a.toNat, n)) (dst := (dst.toNat, n + 40))
        (g := State.sealTo f.val k.val dst.toNat n) h hs ht
      refine ⟨fun hm => congrArg Host.Outcome.next (spoilt hm), fun hm hr => ?_⟩
      obtain ⟨unread, read⟩ := goes hm hr
      exact ⟨fun hu => congrArg Host.Outcome.next (unread hu), fun pt hd => congrArg Host.Outcome.next (read pt hd)⟩
    case opened =>
      intro hs ht s2 s3
      obtain ⟨spoilt, goes⟩ := State.sealOrder_takes (wrong := wrong) (src := (a.toNat, n + 40)) (dst := (dst.toNat, n))
        (g := State.unsealTo f.val k.val dst.toNat n) h hs ht
      refine ⟨fun hm => congrArg Host.Outcome.next (spoilt hm), fun hm hr => ?_⟩
      obtain ⟨unread, read⟩ := goes hm hr
      refine ⟨fun hu => congrArg Host.Outcome.next (unread hu), fun blob hd => ⟨fun pt ho => ?_, fun code ho => ?_⟩⟩
      · exact congrArg Host.Outcome.next ((read blob hd).trans (State.unsealTo_ok ho))
      · exact congrArg Host.Outcome.next ((read blob hd).trans (State.unsealTo_error ho))
  case formBad =>
    intro hr
    exact ⟨congrArg Host.Outcome.next (State.regCommand_bad h _ _ _ hr),
      congrArg Host.Outcome.next (State.regCommand_bad h _ _ _ hr)⟩
  case regs =>
    intro hr
    refine ⟨fun b o w hl => ?_, fun b o w hl hw => ?_, fun code hc hl => ?_⟩
    · exact congrArg Host.Outcome.next ((State.regCommand_ok h hr none hl).trans (State.tenantReg_read _ _ hl))
    · exact congrArg Host.Outcome.next ((State.regCommand_ok h hr (some _) hl).trans (State.tenantReg_write _ _ hl hw))
    · exact congrArg Host.Outcome.next (State.regCommand_error h hr none hc hl)
  case halts => exact fun hp => (exec_halt_slot h 0).trans (by rw [if_pos hp])
  case haltBad => exact fun hp => (exec_halt_slot h 0).trans (by rw [if_neg hp])
  case torn =>
    intro ht hk hn hsel h1 h2
    rw [exec_seal_of s f k a dst len wrong h1 h2, exec_unseal_of s f k a dst len wrong h1 h2]
    exact ⟨exec_certificate_torn dst space na wrong ht hk hn hsel, congrArg Host.Outcome.next (State.sealOrder_torn ht hk),
      congrArg Host.Outcome.next (State.sealOrder_torn ht hk)⟩

end Sys2Proof.Machine

/-! # Stream slots, stream instructions and their transfers (O21, O22, O23)

A stream slot is one change of its engine in each cluster; a stream instruction is one change of its engine's cluster, once its
ring has come to the ring cycle. What each change comes to is said once per case, by the state of the engine and of its half. -/

namespace Sys2Proof.Machine

/-! ## The engines of a cluster (R181, R185 to R187, R189) -/

section
variable (c : Cluster) (t k : Nat)

/-- A stopped engine starts at the first instruction of its program, its halves as the program's direction leaves them. -/
theorem Cluster.stgo_stopped (slot : Nat) (p : BitVec 64) (h : (c.engine k).st = .stopped) : c.stgo t k slot p =
    let e := c.engine k
    let d := e.programDir slot e.dir
    c.setEngine k { e with
      st := .running, a := List.replicate 8 0, par := p, pc := 0, loops := [], dir := d, sel := false, pos := 0
      touched := false, owed := false, h0 := restHalf d, h1 := restHalf d
      posts := [], slot := slot, from_ := t + 1, rel0 := t + 1, rel1 := t + 1 } :=
  if_neg (not_not_intro h)

theorem Cluster.stgo_started (slot : Nat) (p : BitVec 64) (h : (c.engine k).st ≠ .stopped) :
    c.stgo t k slot p = c.sfault sfOrder k none :=
  if_pos h

/-- The state in which the timetable hands back a half, and the one it hands it back in. -/
def handOver : Dir → HalfSt × HalfSt
  | .inbound => (.full, .free)
  | .outbound => (.owned, .queued)

theorem Cluster.strel_eq : c.strel t k =
    if (c.engine k).st ≠ .stopped ∧ (c.engine k).halfSt (c.engine k).owed = (handOver (c.engine k).dir).1 then
      c.setEngine k ((c.engine k).yield t (c.engine k).owed (handOver (c.engine k).dir).2)
    else c.sfault sfOrder k none := by
  cases hd : (c.engine k).dir <;> simp only [Cluster.strel, hd] <;> rfl

/-- The timetable hands back the half it owns. -/
theorem Cluster.strel_gives {d : Dir} (hs : (c.engine k).st ≠ .stopped) (hd : (c.engine k).dir = d)
    (hh : (c.engine k).halfSt (c.engine k).owed = (handOver d).1) :
    c.strel t k = c.setEngine k ((c.engine k).yield t (c.engine k).owed (handOver d).2) := by
  subst hd
  rw [Cluster.strel_eq, if_pos ⟨hs, hh⟩]

/-- The timetable has no half to hand back. -/
theorem Cluster.strel_order (h : (c.engine k).st = .stopped ∨
    (c.engine k).halfSt (c.engine k).owed ≠ (handOver (c.engine k).dir).1) : c.strel t k = c.sfault sfOrder k none := by
  rw [Cluster.strel_eq, if_neg (by tauto)]

/-- STHALT that takes effect stops a running engine. -/
theorem Cluster.haltEngine_running (h : (c.engine k).st ≠ .stopped) :
    c.haltEngine k = c.setEngine k (c.engine k).halt :=
  if_neg h

theorem Cluster.haltEngine_stopped (h : (c.engine k).st = .stopped) : c.haltEngine k = c :=
  if_pos h

end

/-- A half that is handed back may be touched from the next ring cycle on, and the timetable turns to the other. -/
theorem StreamEng.yield_owed (e : StreamEng) (t : Nat) (x : HalfSt) : e.yield t e.owed x =
    { (if e.owed then { e with h1 := x, rel1 := t + 1 } else { e with h0 := x, rel0 := t + 1 } : StreamEng) with
      owed := !e.owed } := by
  cases h : e.owed <;> simp [StreamEng.yield, StreamEng.setHalf]

theorem restHalf_eq (d : Dir) : restHalf d = if d = .inbound then .free else .owned := by
  cases d <;> rfl

/-- Settles O21: each command is one change per cluster; by the state of the engine and of the half that the timetable owns it is
the start, the hand-over, or ORDER. -/
theorem streamSlots : Obligations.StreamSlots := by
  intro i eng pslot sr st order ownHalf give
  have gives (d : Dir) : ClusterDoes (.strel i eng) i (20 + eng.val)
      (fun _ c => st c ≠ .stopped ∧ (c.engine eng.val).dir = d ∧ ownHalf c (handOver d).1) (give (handOver d).2) := by
    refine .of _ _ _ _ _ _ (fun _ => rfl) (fun t c h => ?_)
    obtain ⟨hs, hd, hh⟩ := h
    rw [c.strel_gives t eng.val hs hd hh, StreamEng.yield_owed]
  refine ⟨.of _ _ _ _ _ _ (fun _ => rfl) (fun t c h => ?start), .of _ _ _ _ _ _ (fun _ => rfl) (fun t c h => ?started),
    gives .inbound, gives .outbound, .of _ _ _ _ _ _ (fun _ => rfl) (fun t c h => ?nothing), .of _ _ _ _ (fun _ => rfl),
    fun c t => ⟨c.haltEngine_running eng.val, c.haltEngine_stopped eng.val⟩⟩
  case start =>
    rw [c.stgo_stopped t eng.val pslot.val _ h]
    simp only [restHalf_eq]
  case started => exact c.stgo_started t eng.val pslot.val _ h
  case nothing =>
    refine congrArg Cluster.tryEnds (c.strel_order t eng.val ?_)
    rcases h with hs | ⟨hd, hh⟩ | ⟨hd, hh⟩
    · exact .inl hs
    · exact .inr (hd ▸ hh)
    · exact .inr (hd ▸ hh)

/-! ## Stream instructions (Table 8.2) -/

/-- An instruction that changes its engine's cluster, where the engine executes it. -/
theorem exec_streamOp_of {e : EngAt} {i : Instr} {f : State → Nat → Nat → Bool → Cluster → Cluster}
    (he : ∀ s, exec i s = .next (s.streamOp e i f)) {s : State} {part : Nat} (h : Executes s e i part) {c y : Cluster}
    (hc : (engState s e).cluster e.cl.val = c)
    (hy : f (engState s e) part (engRing s e).now (engRing s e).optph c = y) : exec i s = .next (streamNext s e y) := by
  rw [he, State.streamOp_of s e i f part h, hc, hy]

/-- Settles O22: each instruction is one change of its engine, which then stands at the instruction that follows. -/
theorem streamInstructions : Obligations.StreamInstructions := by
  intro e dir half base da sa imm count n part s c x runs put h
  have hc : (engState s e).cluster e.cl.val = c := rfl
  have hx : c.engine e.eng.val = x := rfl
  clear_value x c
  have does {i : Instr} {f : State → Nat → Nat → Bool → Cluster → Cluster} {y : StreamEng}
      (he : ∀ s, exec i s = .next (s.streamOp e i f))
      (hy : f (engState s e) part (engRing s e).now (engRing s e).optph c = c.setEngine e.eng.val y) : runs i y :=
    fun hi => exec_streamOp_of he hi hc hy
  have sets {i : Instr} {f : StreamEng → StreamEng} {y : StreamEng} (he : ∀ s, exec i s = s.streamSet e i f)
      (hy : (f x).advance = y) : runs i y :=
    does he (by rw [hx, hy])
  subst hx
  refine ⟨sets exec_sCfg ?cfg, sets exec_sPar rfl, sets exec_sLi rfl, sets exec_sAddi rfl, sets exec_sAdd rfl,
    does exec_sLoop rfl, does exec_sEnd rfl⟩
  case cfg =>
    simp only [h, ← restHalf_eq]
    by_cases hd : (c.engine e.eng.val).dir = dir
    · simp only [if_pos hd]
    · simp only [if_neg hd]

/-! ## Accesses of a half (R185, R186, R190) -/

section
variable (s : State) (part t : Nat) (ph : Bool) (c : Cluster) (k sa len : Nat) (inc out : Bool)

/-- The engine that has taken up an access of `len` bytes at the next bytes of its half. -/
def StreamEng.takesUp (x : StreamEng) : StreamEng :=
  let y : StreamEng := { x with
    jobs := x.jobs ++ [⟨out, (x.reg sa).toNat, x.halfAt x.sel + x.pos, len, 0, 0, [], x.sel, out && ph⟩]
    pos := x.pos + len, touched := true }
  (if inc then y.setReg sa (x.reg sa + BitVec.ofNat 64 len) else y).advance

theorem State.streamAccess_waits (h : (c.engine k).mayTouch t = false) :
    s.streamAccess part t ph c k sa len inc out = c.setEngine k { c.engine k with st := .waiting } :=
  if_pos (by rw [h, Bool.not_false])

section
variable (h : (c.engine k).mayTouch t = true)
include h

theorem State.streamAccess_past (hp : (c.engine k).halfBytes < (c.engine k).pos + len) :
    s.streamAccess part t ph c k sa len inc out =
      (c.sfault sfOrder k none).setEngine k { c.engine k with st := .faulted } := by
  simp only [State.streamAccess, h, Bool.not_true, Bool.false_eq_true, if_false, if_pos hp]

variable (hp : (c.engine k).pos + len ≤ (c.engine k).halfBytes)
include hp

theorem State.streamAccess_barred {b : BitVec 6}
    (ha : s.accessFault part ((c.engine k).reg sa).toNat len out = some b) : s.streamAccess part t ph c k sa len inc out =
      (c.sfault b k (some ((c.engine k).reg sa).toNat)).setEngine k { c.engine k with st := .faulted } := by
  simp only [State.streamAccess, h, Bool.not_true, Bool.false_eq_true, if_false, if_neg (Nat.not_lt.mpr hp), ha]

theorem State.streamAccess_taken (ha : s.accessFault part ((c.engine k).reg sa).toNat len out = none) :
    s.streamAccess part t ph c k sa len inc out = c.setEngine k ((c.engine k).takesUp ph sa len inc out) := by
  simp only [State.streamAccess, h, Bool.not_true, Bool.false_eq_true, if_false, if_neg (Nat.not_lt.mpr hp), ha]
  rfl

end

end

section
variable (x : StreamEng) (t : Nat) (h : x.mayTouch t = true)

@[simp] theorem StreamEng.setHalf_sel (half : Bool) (y : HalfSt) : (x.setHalf half y).sel = x.sel := by
  rw [StreamEng.setHalf]
  split <;> rfl

include h

/-- An inbound half is given to the timetable, closed while bytes are still on their way to it. -/
theorem StreamEng.flip_inbound (hd : x.dir = .inbound) : x.flip t =
    ({ x.setHalf x.sel (if x.halfBusy x.sel then .closed else .full) with
      sel := !x.sel, pos := 0, touched := false } : StreamEng).advance := by
  simp only [StreamEng.flip, h, hd, Bool.not_true, Bool.false_eq_true, if_false, StreamEng.setHalf_sel]

/-- An outbound half whose bytes have all been read is given to the timetable. -/
theorem StreamEng.flip_outbound (hd : x.dir = .outbound) (hb : x.halfBusy x.sel = false) : x.flip t =
    ({ x.setHalf x.sel .owned with sel := !x.sel, pos := 0, touched := false } : StreamEng).advance := by
  simp only [StreamEng.flip, h, hd, hb, Bool.not_true, Bool.false_eq_true, if_false, StreamEng.setHalf_sel]

end

/-- Settles O23: an access is taken up, waits or faults by the state of its half and the faults of its address; a flip and a post
are one change of the engine. -/
theorem streamTransfers : Obligations.StreamTransfers := by
  intro e sa len inc scope name part s s1 t c x runs only addr taken fits past order barred
  have hs1 : engState s e = s1 := rfl
  have ht : (engRing s e).now = t := rfl
  have hc : s1.cluster e.cl.val = c := rfl
  have hx : c.engine e.eng.val = x := rfl
  clear_value x c t s1
  have does {i : Instr} {f : State → Nat → Nat → Bool → Cluster → Cluster} {y : Cluster}
      (he : ∀ s, exec i s = .next (s.streamOp e i f)) (hy : f s1 part t (engRing s e).optph c = y) : runs i y := fun hi =>
    exec_streamOp_of he hi (hs1 ▸ hc) (by rw [hs1, ht, hy])
  have access (out : Bool) {i : Instr} {d : Dir} (hd : x.dir = d) (he : ∀ s, exec i s = .next (s.streamOp e i
      (fun s part t ph c => if (c.engine e.eng.val).dir = d then
        s.streamAccess part t ph c e.eng.val sa.val len.toNat inc out else c))) :
      (fits → s1.accessFault part addr len.toNat out = none → only i (taken out)) ∧
      (fits → ∀ b, s1.accessFault part addr len.toNat out = some b → runs i (barred b)) ∧
      (x.mayTouch t = false → only i { x with st := .waiting }) ∧ (past → runs i order) := by
    have he' {y : Cluster}
        (hy : s1.streamAccess part t (engRing s e).optph c e.eng.val sa.val len.toNat inc out = y) : runs i y :=
      does he ((if_pos (hx ▸ hd)).trans hy)
    subst hx
    exact ⟨fun hf ha => he' (s1.streamAccess_taken part t _ c _ _ _ inc out hf.1 hf.2 ha),
      fun hf b ha => he' (s1.streamAccess_barred part t _ c _ _ _ inc out hf.1 hf.2 ha),
      fun hw => he' (s1.streamAccess_waits part t _ c _ _ _ inc out hw),
      fun hp => he' (s1.streamAccess_past part t _ c _ _ _ inc out hp.1 hp.2)⟩
  have flips {y : StreamEng} (hy : x.flip t = y) : only (.sFlip e) y :=
    does (fun _ => rfl) (by rw [hx, hy])
  refine ⟨fun hd => ?inbound, fun hd => ?outbound, fun hi => ?post⟩
  case inbound =>
    obtain ⟨htaken, hbarred, hwaits, hpast⟩ := access false hd (i := .sGet e sa len inc) (fun _ => rfl)
    exact ⟨htaken, hbarred, hwaits, hpast, fun ht => flips (x.flip_inbound t ht hd)⟩
  case outbound =>
    obtain ⟨htaken, hbarred, hwaits, hpast⟩ := access true hd (i := .sPut e sa len inc) (fun _ => rfl)
    exact ⟨htaken, hbarred, hwaits, hpast, fun ht hb => flips (x.flip_outbound t ht hd hb)⟩
  case post =>
    rw [← hx, ← hc, ← hs1]
    exact congrArg (fun u : State => Host.Outcome.next (u.streamPosts e.cl.val e.eng.val)) (State.streamOp_of s e _ _ part hi)

end Sys2Proof.Machine

/-! # Recovery (O29)

From the reports of the rings to the row of Table 13.6 a step goes on, whatever recovery does to the rest of the device: this is one
relation between two states, kept by each operation of recovery, with a property of the rings that a report does not end. Recovery
brings awake rings to rest, and what comes after it leaves them so. -/

namespace Sys2Proof.Machine

/-! ## Steps that go on -/

/-- What a step keeps until recovery has found its outcome: its order, its repetitions, a halt, and that a program fault forbids its
repetition. -/
structure StepJob.Continues (j j' : StepJob) : Prop where
  fn : j'.fn = j.fn
  slot : j'.slot = j.slot
  repeats : j'.repeats = j.repeats
  halting : j'.halting = j.halting
  prog : j.prog = true → j'.prog = true

theorem StepJob.Continues.refl (j : StepJob) : j.Continues j := ⟨rfl, rfl, rfl, rfl, id⟩

theorem StepJob.Continues.trans {i j k : StepJob} (h : i.Continues j) (h' : j.Continues k) : i.Continues k :=
  ⟨h'.fn.trans h.fn, h'.slot.trans h.slot, h'.repeats.trans h.repeats, h'.halting.trans h.halting, h'.prog ∘ h.prog⟩

/-- From `s` to `t` every partition stays in its state, every step goes on, and every ring that meets `P` still does. -/
structure State.GoesOn (P : Ring → Prop) (s t : State) : Prop where
  ring : ∀ i, P (s.ring i) → P (t.ring i)
  st : ∀ p, (t.part p).st = (s.part p).st
  step : ∀ p j, (s.part p).stepJob = some j → ∃ j', (t.part p).stepJob = some j' ∧ j.Continues j'

namespace State.GoesOn

variable {P : Ring → Prop} {s t u : State}

theorem refl (P : Ring → Prop) (s : State) : s.GoesOn P s := ⟨fun _ => id, fun _ => rfl, fun _ j h => ⟨j, h, .refl j⟩⟩

theorem trans (h : s.GoesOn P t) (h' : t.GoesOn P u) : s.GoesOn P u where
  ring i := h'.ring i ∘ h.ring i
  st p := (h'.st p).trans (h.st p)
  step p j hj := by
    obtain ⟨j', hj', hc⟩ := h.step p j hj
    obtain ⟨k, hk, hc'⟩ := h'.step p j' hj'
    exact ⟨k, hk, hc.trans hc'⟩

/-- Whatever becomes of the rings, the steps go on. -/
theorem ofAnyRing (h : s.GoesOn P t) : s.GoesOn (fun _ => True) t := ⟨fun _ => id, h.st, h.step⟩

theorem of_parts (h : t.parts = s.parts) (hr : ∀ i, P (s.ring i) → P (t.ring i)) : s.GoesOn P t where
  ring := hr
  st p := by rw [State.part_congr h]
  step p j hj := ⟨j, by rw [State.part_congr h, hj], .refl j⟩

theorem setRing (s : State) (k : Nat) (r : Ring) (h : P (s.ring k) → P r) : s.GoesOn P (s.setRing k r) := by
  refine of_parts rfl (fun i hi => ?_)
  by_cases hk : i = k
  · subst hk
    rw [State.ring_setRing]
    exact h hi
  · rwa [State.ring_setRing_ne _ _ _ _ hk]

theorem setPart (s : State) (i : Nat) (q : Partition) (hst : q.st = (s.part i).st)
    (hj : ∀ j, (s.part i).stepJob = some j → ∃ j', q.stepJob = some j' ∧ j.Continues j') : s.GoesOn P (s.setPart i q) := by
  refine ⟨fun _ => id, fun p => ?_, fun p j h => ?_⟩
  · by_cases hp : p = i
    · rw [hp, State.part_setPart, hst]
    · rw [State.part_setPart_ne _ _ _ _ hp]
  · by_cases hp : p = i
    · subst hp
      rw [State.part_setPart]
      exact hj j h
    · rw [State.part_setPart_ne _ _ _ _ hp]
      exact ⟨j, h, .refl j⟩

/-- What a fold does step by step. -/
theorem foldl {α : Type} (f : State → α → State) (h : ∀ (s : State) a, s.GoesOn P (f s a)) (l : List α) (s : State) :
    s.GoesOn P (l.foldl f s) :=
  List.foldlRecOn l f (motive := fun t => s.GoesOn P t) (refl P s) (fun t ht a _ => ht.trans (h t a))

/-- A step in progress may change to one that it goes on as. -/
theorem onStep (s : State) (part : Nat) (f : StepJob → StepJob) (h : ∀ j : StepJob, j.Continues (f j)) :
    s.GoesOn P (s.onStep part f) := by
  simp only [State.onStep]
  split
  · next j hj =>
    refine setPart _ _ _ rfl (fun j' hj' => ⟨f j, rfl, ?_⟩)
    obtain rfl : j = j' := by simpa [Partition.stepJob, hj] using hj'
    exact h j
  · exact refl P s

end State.GoesOn

/-! ## What leaves partitions and rings as they are -/

/-- The partitions and the rings of the device. -/
def State.partsRings (s : State) : Tab Partition × Tab Ring := (s.parts, s.rings)

theorem State.GoesOn.of_partsRings {P : Ring → Prop} {s t : State} (h : t.partsRings = s.partsRings) : s.GoesOn P t :=
  .of_parts (Prod.mk.inj h).1 (fun i hi => by rwa [State.ring_congr (Prod.mk.inj h).2])

theorem State.partsRings_of_inner {s t : State} (h : t.inner = s.inner) : t.partsRings = s.partsRings :=
  Prod.ext (State.parts_of_inner h) (State.rings_of_inner h)

theorem State.clearPoison_partsRings (s : State) (dev n : Nat) : (s.clearPoison dev n).partsRings = s.partsRings := by
  simp only [State.clearPoison]
  split <;> rfl

theorem State.land_partsRings (s : State) (dev : Nat) (bs : List Byte) : (s.land dev bs).partsRings = s.partsRings :=
  s.clearPoison_partsRings dev bs.length

theorem State.putBack_partsRings (s : State) (dev : Nat) (bs : List Byte) : (s.putBack dev bs).partsRings = s.partsRings := by
  simp only [State.putBack]
  split
  · rfl
  · exact s.land_partsRings dev bs

theorem State.journalBack_partsRings (part : Nat) (bad : List Nat) (es : List JEntry) (seen : List Nat) (s : State) :
    (s.journalBack part bad es seen).partsRings = s.partsRings := by
  induction es generalizing s seen with
  | nil => rfl
  | cons e es ih =>
    simp only [State.journalBack]
    split
    · exact ih _ _
    · rw [ih]
      split
      · rfl
      · split
        · exact s.putBack_partsRings _ _
        · rfl

theorem State.journalDrop_partsRings (s : State) (part : Nat) : (s.journalDrop part).partsRings = s.partsRings := by
  refine foldl_keeps State.partsRings _ (fun t k => ?_) _ s
  rfl

/-- Restoring a journal writes the decks. -/
theorem State.journalRestore_partsRings (s : State) (part : Nat) (bad : List (Fin 2 × Nat)) :
    (s.journalRestore part bad).partsRings = s.partsRings := by
  simp only [State.journalRestore, State.journalDrop_partsRings, State.journalBack_partsRings]

theorem State.crossFrame_partsRings (s : State) (part src dst : Nat) (data : List Byte) :
    (s.crossFrame part src dst data).partsRings = s.partsRings := by
  refine foldl_keeps State.partsRings _ (fun t e => ?_) _ s
  rfl

theorem State.roundStep_partsRings (s : State) (port : Nat) (half : Bool) : (s.roundStep port half).partsRings = s.partsRings := by
  unfold State.roundStep
  dsimp only
  split
  · rfl
  · rw [apply_ite State.partsRings]
    exact ite_self _

theorem State.serveAux_partsRings (port : Nat) (half : Bool) (n : Nat) (s : State) :
    (State.serveAux port half n s).partsRings = s.partsRings := by
  induction n generalizing s with
  | zero => rfl
  | succ n ih =>
    simp only [State.serveAux]
    split
    · exact ih _
    · split
      · exact ih _
      · split
        · rw [ih, State.roundStep_partsRings]
        · rfl

theorem State.queueFrame_partsRings (s : State) (port : Nat) (half : Bool) (k : Flow) (f : NFrame) :
    (s.queueFrame port half k f).partsRings = s.partsRings :=
  State.serveAux_partsRings port half _ _

theorem State.onInv_partsRings (s : State) (slot b : Nat) (f : Invoc → Invoc) : (s.onInv slot b f).partsRings = s.partsRings := by
  simp only [State.onInv]
  split <;> rfl

theorem State.tellClasses_inner (s : State) (part : Nat) (was : List Nat) : (s.tellClasses part was).inner = s.inner := by
  simp only [State.tellClasses]
  rw [foldl_keeps State.inner _ (fun t _ => t.notify_inner part 5 84),
    foldl_keeps State.inner _ (fun t _ => t.notify_inner part 5 77)]

/-! ## Faults outside the rings (R28, R313) -/

section
variable {P : Ring → Prop} (hP : ∀ r, P r → P r.receiveReport)
include hP

theorem State.reportAll_goesOn (s : State) (part : Nat) : s.GoesOn P (s.reportAll part) :=
  .foldl _ (fun s i => .setRing s i _ (hP _)) _ s

theorem State.faultStep_goesOn (s : State) (part : Nat) (prog : Bool) : s.GoesOn P (s.faultStep part prog) := by
  simp only [State.faultStep]
  split
  · refine .trans ?_ (State.reportAll_goesOn hP _ part)
    exact .onStep s part _ (fun j => ⟨rfl, rfl, rfl, rfl, fun h => by simp [h]⟩)
  · exact .refl P s

theorem State.journalFull_goesOn (s : State) (part k : Nat) : s.GoesOn P (s.journalFull part k) := by
  refine .trans ?_ (State.faultStep_goesOn hP _ part true)
  exact .of_partsRings rfl

theorem State.journalNow_goesOn (s : State) (part dev : Nat) : s.GoesOn P (s.journalNow part dev).2 := by
  unfold State.journalNow
  extract_lets -underBinder k sd
  split
  · exact .refl P s
  · split
    · exact State.journalFull_goesOn hP s part k
    · exact .refl P s
    · exact .of_partsRings rfl

theorem State.place_goesOn (s : State) (x : Nat × List Byte) : s.GoesOn P (s.place x) := by
  simp only [State.place]
  split
  · exact .of_partsRings rfl
  · split
    · exact .refl P s
    · split
      · exact .of_partsRings (s.land_partsRings _ _)
      · next part _ =>
        have hj := State.journalNow_goesOn hP s part (x.1 / 64 * 64)
        split <;> rename_i hq <;> rw [hq] at hj
        · exact hj.trans (.of_partsRings (State.land_partsRings ..))
        · exact hj.trans (.of_partsRings rfl)
        · exact hj

theorem State.unstall_goesOn (s : State) : s.GoesOn P s.unstall := by
  refine .trans ?_ (.foldl _ (fun t x => State.place_goesOn hP t _) _ _)
  exact .of_partsRings rfl

theorem State.engineGranule_goesOn (s : State) (part : Nat) (jr : Bool) (w : Nat × List Byte × List Bool) :
    s.GoesOn P (s.engineGranule part jr w).2 := by
  simp only [State.engineGranule]
  split
  · exact .refl P s
  · have hj : s.GoesOn P (if s.journalsNow part (w.1 / 2 ^ 32) jr = true then s.journalNow part w.1 else (none, s)).2 := by
      split
      · exact State.journalNow_goesOn hP s part w.1
      · exact .refl P s
    split <;> rename_i hq <;> rw [hq] at hj
    · exact hj
    · refine hj.trans (.of_partsRings ?_)
      split
      · exact State.clearPoison_partsRings ..
      · rfl

theorem State.engineGranules_goesOn (part : Nat) (jr : Bool) (ws : List (Nat × List Byte × List Bool)) (s : State) :
    s.GoesOn P (s.engineGranules part jr ws).2 := by
  induction ws generalizing s with
  | nil => exact .refl P s
  | cons w ws ih =>
    have hw := State.engineGranule_goesOn hP s part jr w
    simp only [State.engineGranules]
    split <;> rename_i hq <;> rw [hq] at hw
    · exact hw
    · exact hw.trans (ih _)

/-- A write of an engine may find no room in the journal, which faults the step. -/
theorem State.engineWrite_goesOn (s : State) (home : Option Nat) (part pa : Nat) (jr : Bool) (bs : List Byte) :
    s.GoesOn P (s.engineWrite home part pa jr bs).2 := by
  refine List.foldlRecOn _ _ (motive := fun acc : Option EngBad × State => s.GoesOn P acc.2) (.refl P s) (fun acc ha p _ => ?_)
  obtain ⟨b, t⟩ := acc
  cases b with
  | some b => exact ha
  | none =>
    dsimp only
    split
    · split
      · exact ha
      · exact ha.trans (State.engineGranules_goesOn hP part jr _ t)
    · exact ha

/-! ## Invocations that are abandoned (R298) -/

theorem State.leaveHome_goesOn (s : State) (part : Nat) (x : CollWait) : s.GoesOn P (s.leaveHome part x) := by
  simp only [State.leaveHome]
  split
  · exact State.faultStep_goesOn hP s part true
  · split
    · exact .of_partsRings rfl
    · exact .of_partsRings ((State.queueFrame_partsRings ..).trans (s.crossFrame_partsRings ..))

theorem State.sendVerdict_goesOn (s : State) (slot b pos : Nat) (v : Verdict) : s.GoesOn P (s.sendVerdict slot b pos v) := by
  simp only [State.sendVerdict]
  split
  · exact .refl P s
  · split
    · exact .of_partsRings (s.onInv_partsRings ..)
    · exact State.leaveHome_goesOn hP s _ _

theorem State.sendVerdicts_goesOn (s : State) (slot b : Nat) : s.GoesOn P (s.sendVerdicts slot b) := by
  simp only [State.sendVerdicts]
  split
  · exact .refl P s
  · refine .trans ?_ (.foldl _ (fun t p => State.sendVerdict_goesOn hP t slot b _ _) _ _)
    exact .of_partsRings (s.onInv_partsRings ..)

theorem State.abandon_goesOn (s : State) (slot b : Nat) : s.GoesOn P (s.abandon slot b) := by
  simp only [State.abandon]
  split
  · exact .refl P s
  · split
    · exact .refl P s
    · refine .trans ?_ (State.sendVerdicts_goesOn hP _ slot b)
      exact .of_partsRings ((State.onInv_partsRings ..).trans rfl)

/-- An abandoned invocation sends its verdicts; a verdict that cannot cross the fabric faults the step. -/
theorem State.recoverGroups_goesOn (s : State) (part : Nat) : s.GoesOn P (s.recoverGroups part) := by
  refine .foldl _ (fun t g => ?_) _ s
  refine (State.GoesOn.foldl _ (fun u x => State.abandon_goesOn hP u g.1 x.1) g.2.liveIn t).trans ?_
  dsimp only
  split
  · exact .of_partsRings rfl
  · exact .refl P _

/-! ## A channel that goes offline (R261) -/

omit hP in
theorem State.withdraw_partsRings (s : State) (k r page cause : Nat) : (s.withdraw k r page cause).partsRings = s.partsRings := by
  simp only [State.withdraw]
  split
  · exact (State.partsRings_of_inner (State.notify_inner ..)).trans rfl
  · rfl

theorem State.channelOff_goesOn (s : State) (span ch : Nat) : s.GoesOn P (s.channelOff span ch) := by
  refine (State.GoesOn.of_partsRings ?_).trans (State.unstall_goesOn hP _)
  rw [foldl_keeps State.partsRings _ (fun t p => State.partsRings_of_inner (t.notify_inner p 3 span))]
  exact foldl_keeps State.partsRings _ (fun t r => t.withdraw_partsRings span r (r * 4096) 4) _ _

theorem State.settleChannels_goesOn (s : State) : s.GoesOn P s.settleChannels := by
  refine .foldl _ (fun t k => ?_) _ s
  simp only [State.settleChannel]
  split
  · split
    · exact .refl P t
    · exact State.channelOff_goesOn hP t k _
  · exact .refl P t

end

/-! ## The end of a step (R308) -/

/-- The partition of a step that has ended. -/
def Partition.stepEnded (p : Partition) (j : StepJob) (replan : Bool) : Partition :=
  { p with st := if replan || j.replan then .replan else .ready, job := .idle, opt := false }

/-- The step order is completed, and logged where its code is not OK. -/
def State.answerStep (s : State) (part code stepno : Nat) (j : StepJob) : State :=
  let t := s.complete j.fn j.slot code 0 [(64, toLe 8 stepno)]
  if code = stOk then t else t.note part nodeSb 0 code

theorem State.answerStep_inner (s : State) (part code stepno : Nat) (j : StepJob) :
    (s.answerStep part code stepno j).inner = s.inner := by
  simp only [State.answerStep]
  split
  · exact State.complete_inner ..
  · rw [State.note_inner, State.complete_inner]

section
variable (s : State) (part code : Nat) (replan : Bool)

theorem State.finishStep_of {j : StepJob} (hj : (s.part part).stepJob = some j) : s.finishStep part code replan =
    ((s.setPart part ((s.part part).stepEnded j replan)).answerStep part code (s.part part).stepno j).answerHalts part true := by
  simp only [State.finishStep, hj]
  rfl

/-- A step that ends leaves its partition READY, or to be re-planned. -/
theorem State.finishStep_part {j : StepJob} (hj : (s.part part).stepJob = some j) :
    (s.finishStep part code replan).part part = { (s.part part).stepEnded j replan with halts := [] } := by
  rw [s.finishStep_of part code replan hj, State.part_congr (State.parts_of_inner (State.answerHalts_inner ..)), State.part_setPart,
    State.part_congr (State.parts_of_inner (State.answerStep_inner ..)), State.part_setPart]

/-- A step that ends is answered, and the halts that wait for it: no ring changes. -/
theorem State.finishStep_rings : (s.finishStep part code replan).rings = s.rings := by
  cases hj : (s.part part).stepJob with
  | none => simp only [State.finishStep, hj]
  | some j =>
    rw [s.finishStep_of part code replan hj, State.rings_of_inner (State.answerHalts_inner ..), State.setPart_rings,
      State.rings_of_inner (State.answerStep_inner ..), State.setPart_rings]

theorem State.finishSteps_rings : s.finishSteps.rings = s.rings := by
  simp only [State.finishSteps]
  refine foldl_keeps State.rings _ (fun t p => ?_) _ s
  split
  · split
    · rfl
    · exact t.finishStep_rings ..
  · rfl

/-- However a step ends, its rings keep what a report does not end. -/
theorem State.endStep_ring {P : Ring → Prop} (hP : ∀ r, P r → P r.receiveReport) (i : Nat) (h : P (s.ring i)) :
    P ((s.endStep part code replan).ring i) := by
  simp only [State.endStep]
  split
  · rw [State.ring_congr (State.finishSteps_rings _)]
    refine (State.settleChannels_goesOn hP _).ring i ?_
    rwa [State.onStep_ring]
  · rwa [State.ring_congr (s.finishStep_rings part code replan)]

end

/-! ## Rings that are awake, and rings at rest (R203) -/

/-- The array is OFF, and nothing is due, to be counted or under way. -/
def Cluster.AtRest (c : Cluster) : Prop :=
  c.mx.st = .off ∧ c.tok = [] ∧ c.agenda = [] ∧ c.xfers = List.replicate 16 none

/-- A ring as recovery leaves it: halted, without tokens, its clusters at rest. -/
def Ring.AtRest (r : Ring) : Prop := r.tt.run = .halted ∧ r.tok = [] ∧ ∀ c ∈ r.cl, c.AtRest

theorem Cluster.reset_atRest : Cluster.reset.AtRest := ⟨rfl, rfl, rfl, rfl⟩

theorem Ring.recovered_atRest (r : Ring) : r.recovered.AtRest := by
  refine ⟨rfl, rfl, fun c hc => ?_⟩
  obtain ⟨k, x, -, rfl⟩ := Ring.mem_each (r := r) (f := fun _ c => c.recovered r.now) hc
  exact ⟨rfl, rfl, rfl, rfl⟩

/-- A report has nothing to stop in a halted ring. -/
theorem Ring.AtRest.receiveReport (r : Ring) (h : r.AtRest) : r.receiveReport.AtRest := by
  rwa [Ring.receiveReport, if_neg (by simp [h.1])]

theorem Ring.AtRest.get {r : Ring} (h : r.AtRest) (k : Nat) : (r.get k).AtRest := by
  rw [Ring.get, List.getD_eq_getElem?_getD]
  cases hk : r.cl[k]? with
  | none => exact Cluster.reset_atRest
  | some c => exact h.2.2 c (List.mem_of_getElem? hk)

/-- The random streams of a cluster have no part in its rest. -/
theorem Ring.AtRest.setSr {r : Ring} (h : r.AtRest) (k : Nat) (l : List SrStream) :
    (r.put k { r.get k with sr := l }).AtRest := by
  refine ⟨h.1, h.2.1, fun c hc => ?_⟩
  rcases List.mem_or_eq_of_mem_set hc with hc | rfl
  · exact h.2.2 c hc
  · exact h.get k

/-- The ring is awake. -/
def Ring.IsAwake (r : Ring) : Prop := r.awake = true

theorem Ring.IsAwake.receiveReport (r : Ring) (h : r.IsAwake) : r.receiveReport.IsAwake := by
  unfold Ring.receiveReport
  split
  · exact h
  · exact h

theorem Ring.awake_of_clock {q r : Ring} (h : q.clock = r.clock) : q.awake = r.awake :=
  show q.clock.1 = r.clock.1 from congrArg _ h

theorem Ring.settle_awake (r : Ring) (k t : Nat) : (r.settle k t).awake = r.awake := by
  obtain ⟨q, hq, he⟩ := r.settle_eq_pass k t
  rw [he]
  exact (Ring.awake_of_clock hq :)

theorem Ring.finish_awake (r : Ring) (k t : Nat) : (r.finish k t).awake = r.awake := by
  rw [Ring.finish]
  split
  · rfl
  · exact (Ring.awake_of_clock (r.cycle_clock k t) :)

/-- Bringing a ring to the end of a ring cycle does not put it to sleep. -/
theorem Ring.event_finish_awake (r : Ring) (k c : Nat) : (r.event k c (fun t r => r.finish k t)).awake = r.awake := by
  rw [Ring.event]
  split
  · rfl
  · rw [Ring.finish_awake, Ring.settle_awake]

/-! ## The streams of a partition go back to their anchors (R324) -/

theorem State.setSr_parts (s : State) (g : Nat) (l : List SrStream) : (s.setSr g l).parts = s.parts := by
  simp only [State.setSr]
  split <;> rfl

theorem State.toAnchors_parts (s : State) (part : Nat) : (s.toAnchors part).parts = s.parts :=
  foldl_keeps State.parts _ (fun t g => t.setSr_parts g _) _ s

theorem State.anchorSpare_parts (s : State) (part : Nat) (was : Repair) : (s.anchorSpare part was).parts = s.parts := by
  unfold State.anchorSpare
  extract_lets filled
  split
  · rfl
  · exact s.toAnchors_parts part

section
variable {P : Ring → Prop} (hsr : ∀ r, P r → ∀ k l, P (r.put k { r.get k with sr := l }))
include hsr

theorem State.toAnchors_goesOn (s : State) (part : Nat) : s.GoesOn P (s.toAnchors part) := by
  refine .foldl _ (fun t g => ?_) _ s
  simp only [State.setSr]
  split
  · exact .setRing t (g / 16) _ (fun h => hsr _ h _ _)
  · exact .of_partsRings rfl

theorem State.anchorSpare_goesOn (s : State) (part : Nat) (was : Repair) : s.GoesOn P (s.anchorSpare part was) := by
  unfold State.anchorSpare
  extract_lets filled
  split
  · exact .refl P s
  · exact State.toAnchors_goesOn hsr s part

end

/-! ## Reports and flushes, before the rings are recovered (R28, R203) -/

/-- What a step makes of its rings' causes, it goes on as. -/
theorem StepJob.takeCauses_continues (j : StepJob) (ring : Nat) (cs : List (Nat × Cause)) : j.Continues (j.takeCauses ring cs) := by
  rw [StepJob.takeCauses]
  split
  · exact .refl j
  · exact ⟨rfl, rfl, rfl, rfl, fun h => by simp [h]⟩

theorem State.takeCauses_goesOn (s : State) (part k : Nat) : s.GoesOn Ring.IsAwake (s.takeCauses part k) := by
  by_cases h : (s.ring k).causes = []
  · rw [State.takeCauses, if_pos (by simp [h])]
    exact .refl _ s
  · obtain ⟨log, he⟩ := s.takeCauses_of part k h
    rw [he]
    refine .trans (t := s.setRing k (s.ring k).dropCauses) (.setRing s k _ id) ?_
    refine .trans ?_ (.onStep _ part _ (fun j => j.takeCauses_continues k _))
    exact .of_partsRings rfl

theorem State.takeCauses_rings (s : State) (part k : Nat) : ((s.takeCauses part k).part part).rings = (s.part part).rings := by
  by_cases h : (s.ring k).causes = []
  · rw [State.takeCauses, if_pos (by simp [h])]
  · exact s.takeCauses_partRings part k h

theorem State.KeepsParts.st {s t : State} (h : s.KeepsParts t) (p : Nat) : (t.part p).st = (s.part p).st :=
  show (t.part p).apart.st = (s.part p).apart.st from congrArg _ (h.2 p)

@[simp] theorem Ring.apart_awake (r : Ring) : r.apart.awake = r.awake := rfl

theorem afterRing_awake (s : State) (k : Nat) (r : Ring) : ((afterRing s k r).ring k).awake = r.awake := by
  rw [← Ring.apart_awake, afterRing_apart, Ring.apart_awake]

/-- What the device takes from a ring leaves the steps, and an awake ring awake. -/
theorem State.afterRing_goesOn (s : State) (k : Nat) (r : Ring) (h : (s.ring k).IsAwake → r.IsAwake) :
    s.GoesOn Ring.IsAwake (afterRing s k r) where
  ring i hi := by
    by_cases hk : i = k
    · subst hk
      exact (afterRing_awake s i r).trans (h hi)
    · rwa [(afterRing_ringChanges s k r).ring i hk]
  st := (afterRing_keepsParts s k r).st
  step p j hj := ⟨j, ((afterRing_keepsParts s k r).stepJob p).trans hj, .refl j⟩

theorem State.setCluster_goesOn (s : State) (g : Nat) (c : Cluster) : s.GoesOn Ring.IsAwake (s.setCluster g c) :=
  .setRing s (g / 16) _ (fun h : (s.ring (g / 16)).awake = true => h)

theorem State.lineWrite_goesOn (g o : Nat) (bs : List Byte) (n : Nat) (s : State) :
    s.GoesOn Ring.IsAwake (State.lineWrite g o bs n s) := by
  induction n generalizing s with
  | zero => exact .refl _ s
  | succ n ih =>
    rw [State.lineWrite]
    have hr := s.afterRing_goesOn (g / 16) ((s.ring (g / 16)).event (g / 16) ((s.ring (g / 16)).now + 1)
      (fun t r => r.finish (g / 16) t)) (fun h => (Ring.event_finish_awake ..).trans h)
    refine hr.trans ?_
    split
    · exact ih _
    · exact State.setCluster_goesOn _ g _

theorem State.windowWrite_goesOn (s : State) (g o : Nat) (bs : List Byte) : s.GoesOn Ring.IsAwake (s.windowWrite g o bs) := by
  refine .foldl _ (fun t x => ?_) _ s
  split
  · exact State.lineWrite_goesOn g x.1 x.2 _ t
  · exact .refl _ t

/-- What comes of a write, by the window of the local stores that its address lies in, if it lies in one. The write of the deck is a
parameter, so that the kernel compares the branches without evaluating it. -/
def byWindow (deck : State) (window : Nat → Nat → State) : Option (Nat × Nat) → State
  | none => deck
  | some (g, o) => window g o

theorem State.flushJob_eq (s : State) (part : Nat) (j : Job) :
    s.flushJob part j = if !j.out || j.buf.isEmpty then s else
      byWindow (s.engineWrite none part (j.far + j.put) j.jr j.buf).2
        (fun g o => (s.windowWrite g o (j.buf.take (lsSize - o))).windowWrite (g + 1) 0 (j.buf.drop (lsSize - o)))
        (windowOf (j.far + j.put)) := rfl

theorem State.GoesOn.byWindow {P : Ring → Prop} {s t : State} {f : Nat → Nat → State} (ht : s.GoesOn P t)
    (hf : ∀ g o, s.GoesOn P (f g o)) (w : Option (Nat × Nat)) : s.GoesOn P (byWindow t f w) := by
  cases w with
  | none => exact ht
  | some w => exact hf w.1 w.2

/-- A write whose data has left the local store is made, in the deck or in a window. -/
theorem State.flushJob_goesOn (s : State) (part : Nat) (j : Job) : s.GoesOn Ring.IsAwake (s.flushJob part j) := by
  rw [State.flushJob_eq]
  split
  · exact .refl _ s
  · refine .byWindow ?_ (fun g o => ?_) _
    · exact State.engineWrite_goesOn Ring.IsAwake.receiveReport s none part _ _ _
    · exact (s.windowWrite_goesOn g o _).trans (State.windowWrite_goesOn _ (g + 1) 0 _)

theorem State.flushRing_goesOn (s : State) (part ring : Nat) : s.GoesOn Ring.IsAwake (s.flushRing part ring) :=
  .foldl _ (fun t _ => .foldl _ (fun t _ => .foldl _ (fun t j => t.flushJob_goesOn part j) _ t) _ t) _ s

/-! ## The rings are recovered (R203) -/

/-- An awake ring is recovered. -/
def State.recoverRing (s : State) (i : Nat) : State := if (s.ring i).awake then s.setRing i (s.ring i).recovered else s

theorem State.recoverRing_goesOn (s : State) (i : Nat) : s.GoesOn (fun _ => True) (s.recoverRing i) := by
  unfold State.recoverRing
  split
  · exact .setRing s i _ id
  · exact .refl _ s

/-- The awake rings of a list come to rest, and those at rest stay so. -/
theorem State.foldl_recoverRing_atRest (l : List Nat) (s : State) (i : Nat)
    (h : ((s.ring i).IsAwake ∧ i ∈ l) ∨ (s.ring i).AtRest) : ((l.foldl State.recoverRing s).ring i).AtRest := by
  induction l generalizing s with
  | nil => exact h.resolve_left (by simp)
  | cons k l ih =>
    refine ih _ ?_
    rw [State.recoverRing]
    by_cases hk : i = k
    · subst hk
      split
      · exact .inr (by rw [State.ring_setRing]; exact Ring.recovered_atRest _)
      · next ha => exact .inr (h.resolve_left (fun h => ha h.1))
    · have hr : ((if (s.ring k).awake then s.setRing k (s.ring k).recovered else s).ring i) = s.ring i := by
        split
        · exact State.ring_setRing_ne _ _ _ _ hk
        · rfl
      rw [hr]
      simpa [hk] using h

theorem State.recoverUnits_goesOn (s : State) (part : Nat) : s.GoesOn (fun _ => True) (s.recoverUnits part) := by
  refine .trans (State.GoesOn.foldl _ (fun t i => t.flushRing_goesOn part i) (s.part part).rings s).ofAnyRing ?_
  refine .trans (.foldl _ State.recoverRing_goesOn (s.part part).rings _) ?_
  exact .setPart _ part _ rfl (fun j hj => ⟨j, hj, .refl j⟩)

/-- Every awake ring of the partition comes to rest. -/
theorem State.recoverUnits_atRest (s : State) (part i : Nat) (hi : i ∈ (s.part part).rings) (ha : (s.ring i).IsAwake) :
    ((s.recoverUnits part).ring i).AtRest := by
  have hf := (State.GoesOn.foldl _ (fun t i => t.flushRing_goesOn part i) (s.part part).rings s).ring i ha
  exact State.foldl_recoverRing_atRest _ _ i (.inl ⟨hf, hi⟩)

/-! ## Self-tests of a halted partition (R326 to R328) -/

/-- Without findings no ring is retired, and nothing changes. -/
theorem State.runTests_nil (s : State) (part : Nat) : s.runTests part [] = (false, s) := by
  refine List.foldlRecOn _ _ (motive := fun acc : Bool × State => acc = (false, s)) rfl (fun acc ha ring _ => ?_)
  rw [ha]
  rfl

theorem State.judge_partsRings (s : State) (ring phys : Nat) (x : SelfTest) : (s.judge ring phys x).2.partsRings = s.partsRings := by
  cases x with
  | clean => rfl
  | broken => rfl
  | column col =>
    simp only [State.judge]
    split
    · split <;> rfl
    · rfl

theorem State.substitute_goesOn (s : State) (im : Option Image) (ring slot : Nat) :
    s.GoesOn (fun _ => True) (s.substitute im ring slot) := by
  simp only [State.substitute]
  split
  · refine .trans ?_ (.setRing _ ring _ id)
    exact .of_partsRings rfl
  · exact .of_partsRings rfl

theorem State.handleFinding_goesOn (s : State) (im : Option Image) (ring phys : Nat) (x : SelfTest) :
    s.GoesOn (fun _ => True) (s.handleFinding im ring phys x).2 := by
  have hj := s.judge_partsRings ring phys x
  simp only [State.handleFinding]
  split <;> rename_i t hq <;> rw [hq] at hj <;> refine (State.GoesOn.of_partsRings hj).trans ?_
  · exact .refl _ t
  · dsimp only
    split
    · dsimp only
      refine .foldl _ (fun u k => ?_) _ t
      split
      · exact .setRing u ring _ id
      · exact .refl _ u
    · exact .refl _ t
  · split
    · exact .of_partsRings rfl
    · split
      · exact .refl _ t
      · split
        · exact t.substitute_goesOn im ring phys
        · exact .refl _ t

theorem State.handleFindings_goesOn (im : Option Image) (ring : Nat) (l : List (Nat × SelfTest)) (s : State) :
    s.GoesOn (fun _ => True) (s.handleFindings im ring l).2 := by
  induction l generalizing s with
  | nil => exact .refl _ s
  | cons x l ih =>
    have hf := s.handleFinding_goesOn im ring x.1 x.2
    rw [State.handleFindings]
    split <;> rename_i hq <;> rw [hq] at hf
    · exact hf
    · exact hf.trans (ih _)

/-- A ring that is retired leaves its partition, whose step goes on. -/
theorem State.retireRing_goesOn (s : State) (ring : Nat) : s.GoesOn (fun _ => True) (s.retireRing ring) := by
  have ho : s.GoesOn (fun _ => True) (s.ringOff ring) := .of_parts (s.ringOff_keeps ring).1 (fun _ => id)
  refine ho.trans ?_
  simp only [State.retireRing]
  generalize s.ringOff ring = t
  split
  · exact .of_partsRings rfl
  · next part _ =>
    have hp : t.GoesOn (fun _ => True) (t.setPart part { t.part part with rings := setDel ring (t.part part).rings }) :=
      .setPart _ _ _ rfl (fun j hj => ⟨j, hj, .refl j⟩)
    exact hp.trans (.of_partsRings ((State.partsRings_of_inner (State.notify_inner ..)).trans rfl))

theorem State.runTests_goesOn (s : State) (part : Nat) (tests : List (Fin 4096 × SelfTest)) :
    s.GoesOn (fun _ => True) (s.runTests part tests).2 := by
  refine List.foldlRecOn _ _ (motive := fun acc : Bool × State => s.GoesOn (fun _ => True) acc.2) (.refl _ s)
    (fun acc ha ring _ => ha.trans ?_)
  have hf := State.handleFindings_goesOn (acc.2.part part).image ring (acc.2.findingsOf ring tests) acc.2
  split <;> rename_i hq <;> rw [hq] at hf
  · exact hf.trans (State.retireRing_goesOn _ ring)
  · exact hf

/-! ## Recovery up to its outcome (R203, R298, R314) -/

/-- The device once a step's causes are taken and its units recovered. -/
def State.unitsRecovered (s : State) (part : Nat) : State :=
  ((s.part part).rings.foldl (fun s i => s.takeCauses part i) s).recoverUnits part

/-- The device once the journal is restored and the invocations are abandoned too. -/
def State.rolledBack (s : State) (part : Nat) (bad : List (Fin 2 × Nat)) : State :=
  ((s.unitsRecovered part).journalRestore part bad).recoverGroups part

section
variable (s : State) (part : Nat) (tests : List (Fin 4096 × SelfTest)) (bad : List (Fin 2 × Nat))

theorem State.unitsRecovered_goesOn : s.GoesOn (fun _ => True) (s.unitsRecovered part) :=
  (State.GoesOn.foldl _ (fun t i => t.takeCauses_goesOn part i) _ s).ofAnyRing.trans (State.recoverUnits_goesOn _ part)

theorem State.foldl_takeCauses_rings (l : List Nat) :
    ((l.foldl (fun s i => s.takeCauses part i) s).part part).rings = (s.part part).rings :=
  foldl_keeps (fun t : State => (t.part part).rings) _ (fun t i => t.takeCauses_rings part i) l s

theorem State.rolledBack_goesOn : s.GoesOn (fun _ => True) (s.rolledBack part bad) :=
  ((s.unitsRecovered_goesOn part).trans (.of_partsRings (State.journalRestore_partsRings _ part bad))).trans
    (State.recoverGroups_goesOn (fun _ => id) _ part)

/-- The awake rings of the partition are at rest once the step is rolled back. -/
theorem State.rolledBack_atRest (i : Nat) (hi : i ∈ (s.part part).rings) (ha : (s.ring i).IsAwake) :
    ((s.rolledBack part bad).ring i).AtRest := by
  have hc := (State.GoesOn.foldl _ (fun t i => t.takeCauses_goesOn part i) (s.part part).rings s).ring i ha
  have hr := s.foldl_takeCauses_rings part (s.part part).rings
  refine (State.recoverGroups_goesOn Ring.AtRest.receiveReport _ part).ring i ?_
  refine (State.GoesOn.of_partsRings (State.journalRestore_partsRings _ part bad)).ring i ?_
  exact State.recoverUnits_atRest _ part i (by rwa [hr]) hc

/-- The self-tests follow the roll-back, if any are made; the partition is then told its classes, and a spare starts at the anchors. -/
theorem State.recoverMid_eq : ∃ t was, (t = (s.rolledBack part bad).runTests part tests ∨ t = (false, s.rolledBack part bad)) ∧
    s.recoverMid part tests bad = (t.1, (s.unitsRecovered part).journalBad part bad,
      (t.2.tellClasses part was).anchorSpare part (s.rolledBack part bad).repair) := by
  unfold State.recoverMid
  extract_lets was u r hw t
  refine ⟨t, was, ?_, rfl⟩
  by_cases h : hw = true
  · exact .inl (if_pos h)
  · exact .inr (if_neg h)

/-- The step goes on until its outcome is found. -/
theorem State.recoverMid_goesOn : s.GoesOn (fun _ => True) (s.recoverMid part tests bad).2.2 := by
  obtain ⟨t, was, ht, he⟩ := s.recoverMid_eq part tests bad
  rw [he]
  have hs : s.GoesOn (fun _ => True) t.2 := by
    rcases ht with rfl | rfl
    · exact (s.rolledBack_goesOn part bad).trans (State.runTests_goesOn _ part tests)
    · exact s.rolledBack_goesOn part bad
  exact (hs.trans (.of_partsRings (State.partsRings_of_inner (t.2.tellClasses_inner part was)))).trans
    (State.anchorSpare_goesOn (fun _ _ _ _ => trivial) _ part _)

/-- Without findings no ring is retired, and the awake rings are at rest when the outcome is found. -/
theorem State.recoverMid_nil : (s.recoverMid part [] bad).1 = false ∧
    ∀ i, i ∈ (s.part part).rings → (s.ring i).IsAwake → ((s.recoverMid part [] bad).2.2.ring i).AtRest := by
  obtain ⟨t, was, ht, he⟩ := s.recoverMid_eq part [] bad
  rw [State.runTests_nil, or_self] at ht
  subst ht
  rw [he]
  refine ⟨rfl, fun i hi ha => (State.anchorSpare_goesOn (fun r h k l => h.setSr k l) _ part _).ring i ?_⟩
  rw [State.ring_congr (State.rings_of_inner (State.tellClasses_inner ..))]
  exact s.rolledBack_atRest part bad i hi ha

end

/-! ## The outcome of a recovery (R308, R309, R436, Table 13.6) -/

theorem State.failingOn_of_inner {s t : State} (h : t.inner = s.inner) (part : Nat) : t.failingOn part = s.failingOn part :=
  show t.inner.failingOn part = s.inner.failingOn part from congrArg (State.failingOn · part) h

/-- The tenant is told of the granule that an attempt has met again. -/
def State.tellPage (s : State) (part : Nat) : Option Nat → State
  | some g => s.notify part 7 (s.nameAddr part g)
  | none => s

theorem State.tellPage_inner (s : State) (part : Nat) (page : Option Nat) : (s.tellPage part page).inner = s.inner := by
  cases page with
  | none => rfl
  | some g => exact s.notify_inner ..

theorem State.recoverEnd_ends (s : State) (part code : Nat) (replan : Bool) (page : Option Nat) :
    s.recoverEnd part (.ends code replan page) = (s.tellPage part page).endStep part code replan := by
  cases page <;> rfl

section
variable (s : State) (part : Nat)

/-- Recovery leaves rings at rest, whatever its outcome. -/
theorem State.recoverEnd_atRest (o : Recover) (i : Nat) (h : (s.ring i).AtRest) : ((s.recoverEnd part o).ring i).AtRest := by
  cases o with
  | ends code replan page =>
    rw [State.recoverEnd_ends]
    refine State.endStep_ring _ part code replan Ring.AtRest.receiveReport i ?_
    rwa [State.ring_congr (State.rings_of_inner (s.tellPage_inner part page))]
  | repeats =>
    refine (State.toAnchors_goesOn (fun r h k l => h.setSr k l) _ part).ring i ?_
    rwa [State.onStep_ring]

theorem State.onStep_st (f : StepJob → StepJob) : ((s.onStep part f).part part).st = (s.part part).st := by
  simp only [State.onStep]
  split
  · rw [State.part_setPart]
  · rfl

variable {j : StepJob} (hj : (s.part part).stepJob = some j)
include hj

theorem State.recoverEnd_ends_part (code : Nat) (replan : Bool) (page : Option Nat) (hf : s.failingOn part = false) :
    (s.recoverEnd part (.ends code replan page)).part part = { (s.part part).stepEnded j replan with halts := [] } := by
  have hi := s.tellPage_inner part page
  have hp := State.part_congr (State.parts_of_inner hi) part
  have he : (s.tellPage part page).failingOn part = false := (State.failingOn_of_inner hi part).trans hf
  rw [State.recoverEnd_ends, State.endStep, if_neg (by simp [he]), State.finishStep_part _ _ _ _ (hp ▸ hj), hp]

/-- A step that is repeated stays in its partition, under the same order. -/
theorem State.recoverEnd_repeats_part : ((s.recoverEnd part .repeats).part part).st = (s.part part).st ∧
    ((s.recoverEnd part .repeats).part part).stepJob = some j.again := by
  rw [State.recoverEnd, State.part_congr (State.toAnchors_parts ..), State.onStep_st, State.onStep_stepJob, hj]
  exact ⟨rfl, rfl⟩

end

section
variable (j : StepJob)

theorem StepJob.outcome_badJournal (lost untaken : Bool) : j.outcome true lost untaken = .ends stRestore true none := rfl

theorem StepJob.outcome_lost {lost untaken : Bool} (h : lost = true ∨ untaken = true) :
    j.outcome false lost untaken = .ends stFaulted true none := by
  rw [StepJob.outcome, if_neg Bool.false_ne_true, if_pos (by rcases h with rfl | rfl <;> simp)]

variable (hr : j.replan = false)
include hr

/-- A program fault or a halt ends the step. -/
theorem StepJob.outcome_ended (h : j.prog = true ∨ j.halting = true) :
    j.outcome false false false = .ends (j.endCode.getD stFaulted) false none := by
  rw [StepJob.outcome, if_neg Bool.false_ne_true, if_neg (by simp [hr]), if_pos (by simpa using h)]

/-- With none of these, and no digest or granule met again, the step is repeated; after hardware faults three times at most. -/
theorem StepJob.outcome_attempt (hp : j.prog = false) (hh : j.halting = false) (hd : ∀ x ∈ j.digests, x ∉ j.lastDigests)
    (hg : ∀ x ∈ j.pages, x ∉ j.lastPages) : j.outcome false false false =
      if j.faults ≠ [] ∧ 3 ≤ j.repeats then .ends stFaulted false none else .repeats := by
  have new (l m : List Nat) (h : ∀ x ∈ l, x ∉ m) : l.find? (fun x => m.contains x) = none := by
    simpa using h
  simp only [StepJob.outcome, hr, hp, hh, new _ _ hd, new _ _ hg, Bool.or_self, Bool.false_eq_true, if_false, Option.isSome_none]
  simp

end

/-! ## RECOVERY -/

/-- Once the rings stand still and none is being woken, an open step that is faulted or halting is recovered. -/
theorem exec_recovery_of (part : Fin 64) (tests : List (Fin 4096 × SelfTest)) (bad : List (Fin 2 × Nat)) (s : State)
    (hs : s.allStill part.val = true) (hw : s.waking part.val = false) {j : StepJob} (hj : (s.part part.val).stepJob = some j)
    (hf : (j.faulted || j.halting) = true) (hc : j.committed = false) (hd : j.done = none) :
    exec (.recovery part tests bad) s = .next (s.recoverStep part.val tests bad) := by
  simp only [exec_recovery, execRecovery, hs, hw, hj, hf, hc, hd, Bool.not_true, Bool.not_false, Bool.or_self, Bool.and_self,
    Bool.false_eq_true, if_false, if_true, Option.isNone_none]

/-- With no step running, what was reported is handled. -/
theorem exec_recovery_late (part : Fin 64) (tests : List (Fin 4096 × SelfTest)) (bad : List (Fin 2 × Nat)) (s : State)
    (hs : s.allStill part.val = true) (hw : s.waking part.val = false) (hj : (s.part part.val).stepJob = none)
    (hh : (s.part part.val).handling = true) :
    exec (.recovery part tests bad) s = .next (s.recoverLate part.val tests) := by
  simp only [exec_recovery, execRecovery, hs, hw, hj, hh, Bool.not_true, Bool.or_self, Bool.false_eq_true, if_false, if_true]

theorem State.recoverStep_of {s m : State} {part : Nat} {tests : List (Fin 4096 × SelfTest)} {bad : List (Fin 2 × Nat)}
    {j : StepJob} (hm : (s.recoverMid part tests bad).2.2 = m) (hj : (m.part part).stepJob = some j) :
    s.recoverStep part tests bad = m.recoverEnd part
      (j.outcome (s.recoverMid part tests bad).2.1 (s.recoverMid part tests bad).1 (m.untaken part)) := by
  subst hm
  simp only [State.recoverStep, hj]

theorem State.recoverLate_handling (s : State) (part : Nat) (tests : List (Fin 4096 × SelfTest)) :
    ((s.recoverLate part tests).part part).handling = false := by
  simp only [State.recoverLate, State.part_setPart]

/-- Without findings the partition stays in its state. -/
theorem State.recoverLate_st (s : State) (part : Nat) : ((s.recoverLate part []).part part).st = (s.part part).st := by
  simp only [State.recoverLate, State.runTests_nil, bne_self_eq_false, Bool.false_and, Bool.false_eq_true, if_false,
    State.part_setPart]
  rw [State.part_congr (State.anchorSpare_parts ..), State.part_congr (State.parts_of_inner (State.tellClasses_inner ..))]

/-- Settles O29: the step goes on until its outcome is found, and its rings, once recovered, stay at rest; then it ends or is repeated
by the row of Table 13.6 that it meets. -/
theorem recoveries : Obligations.Recoveries := by
  intro part tests bad s hstill hw
  have hs : s.allStill part.val = true := List.all_eq_true.mpr hstill
  refine ⟨fun j hj hf hc hd => ?step, fun hj hh => ?late, fun j => ?table⟩
  case late =>
    refine ⟨_, exec_recovery_late part tests bad s hs hw hj hh, s.recoverLate_handling part.val tests, fun ht => ?_⟩
    rw [ht, State.recoverLate_st]
  case table =>
    exact fun lost untaken => ⟨j.outcome_badJournal lost untaken, j.outcome_lost, j.outcome_ended, j.outcome_attempt⟩
  case step =>
    intro m
    have hm : s.recoverMid part.val tests bad = m := rfl
    have hgo := s.recoverMid_goesOn part.val tests bad
    rw [hm] at hgo
    obtain ⟨j', hj', hcont⟩ := hgo.step part.val j hj
    have hexec := exec_recovery_of part tests bad s hs hw hj hf hc hd
    rw [State.recoverStep_of (congrArg (·.2.2) hm) hj', hm] at hexec
    have hjournal : m.2.1 = (s.unitsRecovered part.val).journalBad part.val bad := rfl
    refine ⟨_, hexec, fun r hr ha ht => ?rest, fun ht => ?none, hjournal, j', hj', hcont.repeats, hcont.halting, hcont.prog, ?row⟩
    case rest =>
      refine State.recoverEnd_atRest _ _ _ r ?_
      rw [← hm, ht]
      exact (s.recoverMid_nil part.val bad).2 r hr ha
    case none =>
      rw [← hm, ht]
      exact (s.recoverMid_nil part.val bad).1
    case row =>
      clear_value m
      cases ho : j'.outcome m.2.1 m.1 (m.2.2.untaken part.val) with
      | ends code replan page =>
        intro hf
        rw [State.recoverEnd_ends_part _ _ hj' code replan page hf]
        exact ⟨rfl, rfl, rfl⟩
      | repeats =>
        obtain ⟨hst, hstep⟩ := State.recoverEnd_repeats_part _ _ hj'
        refine ⟨hst.trans (hgo.st _), j'.again, hstep, hcont.fn, hcont.slot, rfl, ?_⟩
        rw [← hcont.repeats]
        simp only [StepJob.again, List.isEmpty_iff]

end Sys2Proof.Machine

/-! # Requests of a Trestle engine (O25)

A submission is a slot of the ring; what a running request does next is told by the request itself, so that each command's effect
is that of its one step; the end of a request leaves the engine free whatever its token comes to. -/

namespace Sys2Proof.Machine

/-! ## Submissions (R217) -/

section
variable {p q : Instr → Bool} (hpq : ∀ c, p c = true → q c = true)
include hpq

theorem RingTt.holdsCmd_mono {x : RingTt} {i : Issue} {b : Nat} (h : x.holdsCmd i b p = true) : x.holdsCmd i b q = true := by
  rw [RingTt.holdsCmd, Bool.or_eq_true] at h ⊢
  refine h.imp_right (fun hl => ?_)
  cases hs : x.stored i b with
  | none => simp [hs] at hl
  | some l =>
    simp only [hs, List.any_eq_true] at hl ⊢
    obtain ⟨c, hc, hp⟩ := hl
    exact ⟨c, hc, hpq c hp⟩

/-- A slot that issues as a command of one kind issues as one of every wider kind. -/
theorem Ring.entered_mono {r x : Ring} {i : Issue} {k t : Nat} (h : r.entered i k p t = some x) : r.entered i k q t = some x := by
  unfold Ring.entered at h ⊢
  split at h
  · rw [if_pos ‹_›]
    split at h
    · split at h
      · rw [if_pos (RingTt.holdsCmd_mono hpq ‹_›)]
        exact h
      · cases h
    · cases h
  · cases h

end

/-- The submission of a bundle whose slot issues. -/
theorem exec_trestleSubmit_of (i : Issue) (value : BitVec 32) (ra : Fin 32) (s : State) (h : Issues s i 0 (.swrs i ra 0x340)) :
    exec (.trestleSubmit i value) s = .next (afterRing s i.ring.val ((ringAt s i 0).put 0
      (((ringAt s i 0).get 0).due (cycleAt s i + 1) (cycleAt s i) 0 (.swrs 0xD00 value (ringAt s i 0).tt.bidx)))) := by
  obtain ⟨ha, he⟩ := h
  rw [exec_trestleSubmit]
  delta execTrestleSubmit
  extract_lets -underBinder isSubmit
  have he' : (settledRing s i).entered i 0 isSubmit (cycleAt s i) = some (ringAt s i 0) :=
    Ring.entered_mono (fun c hc => by rw [beq_iff_eq.mp hc]; rfl) he
  simp only [settledRing, cycleAt] at he'
  simp [State.atRing, afterRing, Ring.issue, ha, he', cycleAt]

/-! ## What a running request does next (R217, R221, R222, R229) -/

section
variable {s : State} {part k : Nat} {q : TrRun} (hq : (s.ring k).tr.run = some q)
include hq

/-- A request that has made its checks, or may not make them yet, makes none. -/
theorem State.trestleRead_rests (h : q.unread = false ∨ q.heads ≠ [] ∨ (s.ring k).covered q.issued = false) :
    s.trestleRead part k = s := by
  simp only [State.trestleRead, hq]
  refine if_pos ?_
  rcases h with h | h | h <;> simp [h]

variable (hf : q.failed = false) (hu : q.unread = true) (hh : q.heads = []) (hc : (s.ring k).covered q.issued = true)
include hf hu hh hc

omit hq in
/-- A request whose headers have been read, with the writes up to its submission landed, makes its checks. -/
theorem TrRun.checks : (q.failed || !q.unread || !q.heads.isEmpty || !(s.ring k).covered q.issued) = false := by
  simp [hf, hu, hh, hc]

/-- A request whose headers fail a check is rejected. -/
theorem State.trestleRead_rejects {code : Nat} (h : s.readChecks part k q.desc = .ok (some code)) :
    s.trestleRead part k = s.setRun k { q with unread := false, reject := some code, todo := [] } := by
  simp only [State.trestleRead, hq, TrRun.checks hf hu hh hc, h, Bool.false_eq_true, if_false]

/-- One whose headers pass goes on, with its factor voided where it factors. -/
theorem State.trestleRead_passes {t : State} (h : s.readChecks part k q.desc = .ok none)
    (ht : (s.setRun k { q with unread := false }).voidFactor part k { q with unread := false } = (none, t)) :
    s.trestleRead part k = t := by
  simp only [State.trestleRead, hq, TrRun.checks hf hu hh hc, h, ht, Bool.false_eq_true, if_false]

end

/-- The fingerprint that a status word names: that of the request's schedule. -/
def schedPrint (store : Tab (List Byte)) (d : List Byte) : Nat :=
  match schedIn store d with
  | some sc => sc.fprint
  | none => 0

/-- A request whose operand lines have been read does its arithmetic. -/
theorem State.trestleWork_of {s : State} {part k : Nat} {q : TrRun} (hq : (s.ring k).tr.run = some q) (hf : q.failed = false)
    (hu : q.unread = false) (ho : q.out = none) (hl : q.lines = []) (ht : q.todo = []) (hs : s.trestleServed part k q = true)
    {x : TrEnd} {t : State} (hx : s.draw.2.trestleEnd part k q s.draw.1 = .ok x)
    (hw : (s.draw.2.chargeReads part k q).deckWrites part q.jr x.writes = (none, t)) :
    s.trestleWork part k = t.setRun k { q with
      out := some (x.code, x.word q.desc (schedPrint (s.ring k).tr.store q.desc))
      lines := stripeWrites x.writes } := by
  have hg : (q.failed || q.unread || q.out.isSome || !q.lines.isEmpty || !q.todo.isEmpty ||
      !s.trestleServed part k q) = false := by
    simp [hf, hu, ho, hl, ht, hs]
  simp only [State.trestleWork, hq, hg, hx, hw, Bool.false_eq_true, if_false]
  rfl

/-! ## The start of a request (R207, R219, R221) -/

/-- The request that the head of a queue becomes, by the outcome of the checks of its form. -/
def TrReq.started (q : TrReq) (from_ : Nat) (rej : Option Nat) (heads todo : List (Nat × Nat)) : TrRun :=
  ⟨q.desc, from_, q.jr, none, rej, q.issued, heads, todo, rej.isNone, [], none, false⟩

/-- The head of the queue becomes the running request. -/
def Trestle.take (x : Trestle) (now from_ : Nat) (rest : List TrReq) (run : TrRun) : Trestle :=
  { x with queue := rest, run := some run, busy := x.busy + (now - from_) }

/-- A request may start in an awake ring whose engine is free and holds its schedule. -/
theorem Ring.mayStart {r : Ring} {d : List Byte} (ha : r.awake = true) (hr : r.tr.run = none) (hw : r.tr.awaits d = false) :
    (!r.awake || r.tr.run.isSome || r.tr.awaits d) = false := by
  simp [ha, hr, hw]

section
variable (ring : Fin 256) (cycle part : Nat) (s s0 : State) (q : TrReq) (rest : List TrReq)
  (hs0 : s.atRing ring.val (fun r => r.event ring.val cycle
    (fun t r => if r.tr.queue.isEmpty then r.finish ring.val t else r)) = s0)
  (ha : (s0.ring ring.val).awake = true) (hp : s0.partOf ring.val = some part)
  (hq : (s0.ring ring.val).tr.queue = q :: rest) (hr : (s0.ring ring.val).tr.run = none)
  (hw : (s0.ring ring.val).tr.awaits q.desc = false)
include hs0 ha hp hq hr hw

/-- A request whose form fails a check starts rejected, and reads nothing. -/
theorem exec_trestleRequestStart_rejected (code : Nat) (hc : s0.formChecks part ring.val q.desc = some code) :
    exec (.trestleRequestStart ring cycle) s = .next (s0.setRing ring.val { s0.ring ring.val with
      tr := (s0.ring ring.val).tr.take (s0.ring ring.val).now (max q.issued (s0.ring ring.val).tr.freeAt) rest
        (q.started (max q.issued (s0.ring ring.val).tr.freeAt) (some code) [] []) }) := by
  rw [exec_trestleRequestStart]
  delta execTrestleRequestStart
  simp only [hs0, hq, hp, Ring.mayStart ha hr hw, hc, Bool.false_eq_true, if_false]
  exact congrArg Host.Outcome.next (State.trestleRead_rests
    (q := q.started (max q.issued (s0.ring ring.val).tr.freeAt) (some code) [] []) (by rw [State.ring_setRing]; rfl) (.inl rfl))

/-- One whose form passes starts with its headers and operands to be read. -/
theorem exec_trestleRequestStart_passed (sc : Sched) (hc : s0.formChecks part ring.val q.desc = none)
    (hsc : schedIn (s0.ring ring.val).tr.store q.desc = some sc) :
    exec (.trestleRequestStart ring cycle) s = .next ((s0.setRing ring.val { s0.ring ring.val with
      tr := (s0.ring ring.val).tr.take (s0.ring ring.val).now (max q.issued (s0.ring ring.val).tr.freeAt) rest
        (q.started (max q.issued (s0.ring ring.val).tr.freeAt) none (stripeTodo (headUses q.desc))
          (stripeTodo (readUses (sc.uses q.desc)))) }).trestleRead part ring.val) := by
  rw [exec_trestleRequestStart]
  delta execTrestleRequestStart
  simp only [hs0, hq, hp, Ring.mayStart ha hr hw, hc, hsc, Bool.false_eq_true, if_false]
  rfl

end

/-! ## The residual kernel and the deadline (R224, R228) -/

/-- The kernel issues into a pipe that its cluster and the ring's bundle leave free. -/
theorem exec_residualKernelIssue_of (i : Issue) (cl : Fin 4096) (p : FmaPipe) (s s2 : State) (q : TrRun) (x : Ring)
    (hi : i.ring.val = cl.val / 16)
    (hs2 : (settled s i.ring.val i.cycle).trestleRead (((settled s i.ring.val i.cycle).partOf i.ring.val).getD 0) i.ring.val = s2)
    (ha : (s2.ring i.ring.val).awake = true) (hx : settledRing s2 i = x) (hq : x.tr.run = some q) (hk : q.kernel = true)
    (hv : (x.get (cl.val % 16)).vec.kernelFree p (cycleAt s2 i) = true)
    (hl : x.leavesFree ⟨i.ring, cycleAt s2 i⟩ p.slot (cycleAt s2 i) (isPipe p) = true) :
    exec (.residualKernelIssue cl p i.cycle) s = .next (afterRing s2 i.ring.val
      { x.put (cl.val % 16) { x.get (cl.val % 16) with vec := (x.get (cl.val % 16)).vec.kernelUse p (cycleAt s2 i) } with
        tr := { x.tr with steal := (x.tr.steal + 1) % 2 ^ 64 } }) := by
  obtain ⟨⟨ring, hr⟩, cycle⟩ := i
  obtain rfl : ring = cl.val / 16 := hi
  rw [settled] at hs2
  rw [exec_residualKernelIssue]
  delta execResidualKernelIssue
  refine congrArg Host.Outcome.next ?_
  simp only [hs2]
  rw [s2.event_of ⟨⟨cl.val / 16, hr⟩, cycle⟩ _ ha, hx]
  simp only [hq, hk, hv, hl, Bool.and_self, if_true]

/-- The deadline marks a running request with the iterations it had done. -/
theorem exec_trestleDeadline_of (i : Issue) (iters : Nat) (s : State) (q : TrRun) (x : Ring)
    (ha : (s.ring i.ring.val).awake = true) (hx : settledRing s i = x) (hq : x.tr.run = some q) (hc : q.cut = none)
    (hr : q.reject = none) (hd : q.start + rqDeadline q.desc ≤ cycleAt s i) :
    exec (.trestleDeadline i.ring i.cycle iters) s = .next (afterRing s i.ring.val
      { x with tr := { x.tr with run := some { q with cut := some iters } } }) := by
  rw [exec_trestleDeadline]
  delta execTrestleDeadline
  rw [s.event_of i _ ha, hx]
  simp only [hq, hc, hr, hd, Option.isNone_none, decide_true, Bool.and_self, if_true]

/-! ## The end of a request leaves its engine free (R229) -/

theorem State.setRing_tr (s : State) (i k : Nat) (r : Ring) (h : r.tr = (s.ring i).tr) :
    ((s.setRing i r).ring k).tr = (s.ring k).tr := by
  by_cases hk : k = i
  · rw [hk, State.ring_setRing, h]
  · rw [State.ring_setRing_ne _ _ _ _ hk]

theorem State.setCluster_tr (s : State) (g k : Nat) (c : Cluster) : ((s.setCluster g c).ring k).tr = (s.ring k).tr :=
  s.setRing_tr _ k _ rfl

theorem State.takeFlagsAs_tr (s : State) (i k : Nat) (timed : Bool) : ((s.takeFlagsAs i timed).ring k).tr = (s.ring k).tr := by
  have hg : ((s.ring i).gather (s.ring i).now).tr = (s.ring i).tr :=
    (congrArg Ring.tr ((s.ring i).gather_apart _) :)
  simp only [State.takeFlagsAs]
  split
  · rfl
  · split
    · exact s.setRing_tr i k _ hg
    · split
      · exact s.setRing_tr i k _ hg
      · exact s.setRing_tr i k _ hg

theorem State.postLate_tr (s : State) (ring : Nat) (sc : Scope) (name n src cluster k : Nat) :
    ((s.postLate ring sc name n src cluster).ring k).tr = (s.ring k).tr := by
  have hl (part : Nat) (p : Partition) : (((s.setRing ring ((s.ring ring).lateAdd sc name n)).setPart part p).ring k).tr =
      (s.ring k).tr := s.setRing_tr ring k _ rfl
  simp only [State.postLate]
  split
  · rfl
  · simp only [State.postShared]
    split
    · exact hl _ _
    · rw [State.takeFlagsAs_tr, State.setCluster_tr]
      exact hl _ _

/-- The completion token leaves every engine. -/
theorem State.trestlePost_tr (s : State) (ring k : Nat) (d : List Byte) : ((s.trestlePost ring d).ring k).tr = (s.ring k).tr := by
  simp only [State.trestlePost]
  split
  · exact s.setRing_tr ring k _ rfl
  · exact s.postLate_tr ..
  · exact s.postLate_tr ..

theorem State.finishRequest_tr (s : State) (part k : Nat) (q : TrRun) (code : Nat) (word : List Byte) (u : FreeUse) :
    ((s.finishRequest part k q code word u).ring k).tr = { (s.ring k).tr with
      run := none, freeAt := (s.ring k).now, lastSched := rqSched q.desc % 16, lastOp := rqOp q.desc % 16
      lastCode := code } := by
  have note {t : State} (b : Bool) : ((if b = true then t.note part k 221 code else t).ring k).tr = (t.ring k).tr := by
    split <;> rfl
  simp only [State.finishRequest, note]
  rw [State.trestlePost_tr, State.ring_setRing]

/-- A request with nothing left to write but its status word ends where its engine has the turn at the word's line. -/
theorem State.trestleDone_of {s : State} {part k : Nat} {q : TrRun} {code : Nat} {word : List Byte}
    (hq : (s.ring k).tr.run = some q) (hf : q.failed = false) (hl : q.lines = []) (ho : q.out = some (code, word))
    (hu : (s.freeUse (k * 16)).served.contains (.trestle (Fin.ofNat 256 k)) = false)
    (hb : ¬ s.FreeBarred (k * 16) (bits (leAt q.desc 12 4) 6 15) (.trestle (Fin.ofNat 256 k))) :
    s.trestleDone part k = s.finishRequest part k q code word ((s.freeUse (k * 16)).serve (k * 16)
      (bankOf (bits (leAt q.desc 12 4) 6 15)) (bits (leAt q.desc 12 4) 6 15) (.trestle (Fin.ofNat 256 k))) := by
  simp only [State.trestleDone, hq, ho, hf, hl, List.isEmpty_nil, Bool.not_true, Bool.or_false, Bool.false_eq_true, if_false]
  exact State.freeTurn_free _ _ _ _ _ hu hb

/-- The end of a ring cycle lets the request read, work and end. -/
theorem exec_trestleComplete_of (ring : Fin 256) (cycle part : Nat) (s s0 : State)
    (hs0 : s.atRing ring.val (fun r => r.event ring.val cycle (fun t r => r.finish ring.val t)) = s0)
    (hp : s0.partOf ring.val = some part) : exec (.trestleComplete ring cycle) s =
      .next (((s0.trestleRead part ring.val).trestleWork part ring.val).trestleDone part ring.val) := by
  subst hs0
  rw [exec_trestleComplete]
  delta execTrestleComplete
  simp only [hp]

/-- The schedules of the partition's image come to an awake ring. -/
theorem exec_scheduleCopy_of (ring : Fin 256) (part : Nat) (im : Image) (s : State) (hp : s.partOf ring.val = some part)
    (him : (s.part part).image = some im) (ha : (s.ring ring.val).awake = true) :
    exec (.scheduleCopy ring) s = .next (s.setRing ring.val { s.ring ring.val with tr := { (s.ring ring.val).tr with
      store := (im.schedsOf ring.val).foldl (fun m x => Tab.ins x.id x.body m) []
      freeAt := max (s.ring ring.val).tr.freeAt (s.ring ring.val).now } }) := by
  rw [exec_scheduleCopy]
  delta execScheduleCopy
  simp only [hp, him, ha, Bool.not_true, Bool.false_eq_true, if_false]

/-- Settles O25: each command does the one step that the running request, or the head of the queue, has come to. -/
theorem trestleRequests : Obligations.TrestleRequests := by
  intro i value cl p iters part s k s1
  refine ⟨fun ra h => exec_trestleSubmit_of i value ra s h, ?start, ?running, ?kernel, ?deadline, ?complete, ?copy⟩
  case start =>
    intro s0 r q rest ha hp hq hr hw from_ run at_ starts
    have hs0 : s.atRing k (fun r => r.event k i.cycle (fun t r => if r.tr.queue.isEmpty then r.finish k t else r)) = s0 := rfl
    clear_value s0
    exact ⟨exec_trestleRequestStart_rejected i.ring i.cycle part s s0 q rest hs0 ha hp hq hr hw,
      fun sc => exec_trestleRequestStart_passed i.ring i.cycle part s s0 q rest hs0 ha hp hq hr hw sc⟩
  case running =>
    intro u q hq hf q'
    refine ⟨fun _ h => State.trestleRead_rests hq (.inr h), fun hu hh hc => ⟨?rejects, ?passes⟩, ?works⟩
    case rejects => exact fun code => State.trestleRead_rejects hq hf hu hh hc
    case passes => exact fun t => State.trestleRead_passes hq hf hu hh hc
    case works => exact fun hu ho hl ht hs x t => State.trestleWork_of hq hf hu ho hl ht hs
  case kernel =>
    intro q hi s2 t x c ha
    have hs1 : settled s k i.cycle = s1 := rfl
    have hs2 : s1.trestleRead ((s1.partOf k).getD 0) k = s2 := rfl
    have hx : settledRing s2 i = x := rfl
    have ht : cycleAt s2 i = t := rfl
    clear_value s1 s2 x t
    subst hs1 ht
    exact exec_residualKernelIssue_of i cl p s s2 q x hi hs2 ha hx
  case deadline =>
    intro q ha x
    have hx : settledRing s i = x := rfl
    clear_value x
    exact exec_trestleDeadline_of i iters s q x ha hx
  case complete =>
    intro q code word s0 hp s2 line c w u hq hf hl ho hu hc hb
    have hs0 : s.atRing k (fun r => r.event k i.cycle (fun t r => r.finish k t)) = s0 := rfl
    have hs2 : (s0.trestleRead part k).trestleWork part k = s2 := rfl
    clear_value s0 s2
    have hk : k * 16 / 16 = k := Nat.mul_div_cancel k (by decide)
    have huse : s2.freeUse (k * 16) = u := by rw [State.freeUse, hk]
    have hbar : ¬ s2.FreeBarred (k * 16) line w := by
      rw [State.FreeBarred, huse, hk, hc, hb]
      simp
    have hdone := State.trestleDone_of (part := part) hq hf hl ho (huse ▸ hu) hbar
    rw [huse] at hdone
    refine ⟨_, ?_, rfl, ?_⟩
    · rw [exec_trestleComplete_of i.ring i.cycle part s s0 hs0 hp, hs2, hdone]
    · rw [State.finishRequest_tr]
      exact ⟨rfl, rfl, rfl⟩
  case copy => exact fun im hp him ha => exec_scheduleCopy_of i.ring part im s hp him ha

end Sys2Proof.Machine

/-! # Writes of the decks and the journal (O35)

A write changes the bytes of the granules it touches and no others; where each granule is covered whole or can be read, it stores
them all. A requester that faults, or whose job goes on, leaves the decks and the siding dies. A journaled write waits at its
siding die, and is made as one write of its granule. -/

namespace Sys2Proof.Machine

/-! ## Runs of bytes -/

theorem Tab.getRun_eq_map {α : Type} (d : α) (m : Tab α) (i n : Nat) :
    Tab.getRun d m i n = (List.range n).map (fun k => Tab.get d m (i + k)) := by
  induction n generalizing i with
  | zero => rfl
  | succ n ih =>
    rw [Tab.getRun, ih, List.range_succ_eq_map, List.map_cons, List.map_map]
    refine congrArg _ (List.map_congr_left (fun k _ => ?_))
    exact congrArg _ (by simp only [Nat.succ_eq_add_one]; omega)

@[simp] theorem State.deckBytes_length (s : State) (a n : Nat) : (s.deckBytes a n).length = n := by
  simp [State.deckBytes, Tab.getRun_eq_map]

theorem State.deckBytes_of_mem {s t : State} (h : t.mem = s.mem) (a n : Nat) : t.deckBytes a n = s.deckBytes a n := by
  rw [State.deckBytes, h, State.deckBytes]

/-- The bytes that a write has put somewhere. -/
theorem State.deckBytes_putBytes (s : State) (a n : Nat) (l : List Byte) (hs : s.memWf = true) (hn : l.length = n) :
    (s.putBytes a l).deckBytes a n = l := by
  subst hn
  rw [State.deckBytes, Tab.getRun_eq_map]
  refine List.ext_getElem (by simp) (fun k _ hk => ?_)
  rw [List.getElem_map, List.getElem_range, State.byte_putBytes_in s a k l hs hk]

/-! ## Bytes merged under a mask (R251) -/

theorem mergeMask_length (old new : List Byte) (mask : List Bool) :
    (mergeMask old new mask).length = min (min old.length new.length) mask.length := by
  simp [mergeMask]

/-- A mask of every byte takes the new ones. -/
theorem mergeMask_whole (old new : List Byte) (mask : List Bool) (ho : old.length = new.length) (hm : mask.length = new.length)
    (h : mask.all id = true) : mergeMask old new mask = new := by
  refine List.ext_getElem (by simp [mergeMask_length, ho, hm]) (fun k h1 h2 => ?_)
  have hk : mask[k]'(hm ▸ h2) = true := List.all_eq_true.mp h _ (List.getElem_mem _)
  simp [mergeMask, hk]

/-! ## What the rules of reads and writes look at -/

/-- The deck bytes and the siding dies. -/
def State.stored (s : State) : Tab Byte × Tab Siding := (s.mem, s.sidings)

/-- What a read of the decks may find: their bytes and their poisoned granules; and the siding dies. -/
def State.cells (s : State) : (Tab Byte × Tab Siding) × (Nat → List Nat) := (s.stored, fun k => (s.deck k).poison)

theorem State.stored_of_cells {s t : State} (h : t.cells = s.cells) : t.stored = s.stored := (Prod.mk.inj h).1

theorem State.mem_of_stored {s t : State} (h : t.stored = s.stored) : t.mem = s.mem := (Prod.mk.inj h).1

theorem State.siding_of_stored {s t : State} (h : t.stored = s.stored) (k : Nat) : t.siding k = s.siding k :=
  congrArg (fun l => Tab.get Siding.reset l k) (Prod.mk.inj h).2

theorem State.mem_of_cells {s t : State} (h : t.cells = s.cells) : t.mem = s.mem := State.mem_of_stored (State.stored_of_cells h)

theorem State.poisoned_of_cells {s t : State} (h : t.cells = s.cells) (dev : Nat) : t.poisoned dev = s.poisoned dev :=
  congrArg (fun l : List Nat => l.contains (granuleOf dev)) (congrFun (Prod.mk.inj h).2 (dev / 2 ^ 32))

theorem State.cells_of_inner {s t : State} (h : t.inner = s.inner) : t.cells = s.cells :=
  show t.inner.cells = s.inner.cells from congrArg _ h

theorem State.setDeck_cells (s : State) (k : Nat) (d : Deck) (h : d.poison = (s.deck k).poison) :
    (s.setDeck k d).cells = s.cells := by
  refine Prod.ext rfl (funext fun j => ?_)
  by_cases hj : j = k
  · subst hj
    exact (congrArg Deck.poison (s.deck_setDeck j d)).trans h
  · exact congrArg Deck.poison (s.deck_setDeck_ne k j d hj)

/-! ## The buffers of a deck poison nothing -/

@[simp] theorem Deck.setChan_poison (d : Deck) (ch : Nat) (c : Chan) : (d.setChan ch c).poison = d.poison := rfl
@[simp] theorem Deck.touch_poison (d : Deck) (ch cycle : Nat) : (d.touch ch cycle).poison = d.poison := rfl
@[simp] theorem Deck.drain_poison (d : Deck) (ch : Nat) : (d.drain ch).poison = d.poison := rfl

@[simp] theorem Deck.access_poison (d : Deck) (a cycle : Nat) : (d.access a cycle).poison = d.poison := by
  simp only [Deck.access]
  split <;> rfl

@[simp] theorem Deck.look_poison (d : Deck) (a : Nat) : (d.look a).poison = d.poison := by
  simp only [Deck.look]
  split
  · rfl
  · exact d.access_poison a _

@[simp] theorem Deck.enter_poison (d : Deck) (a cycle : Nat) : (d.enter a cycle).poison = d.poison := by
  simp only [Deck.enter]
  split <;> rfl

@[simp] theorem Deck.letIn_poison (d : Deck) (a cycle : Nat) : (d.letIn a cycle).poison = d.poison := by
  rw [Deck.letIn, Deck.enter_poison]
  split <;> rfl

@[simp] theorem Deck.put_poison (d : Deck) (a : Nat) : (d.put a).poison = d.poison := by
  rw [Deck.put, Deck.letIn_poison, Deck.touch_poison]

@[simp] theorem Deck.fixRow_poison (d : Deck) (a : Nat) : (d.fixRow a).2.poison = d.poison := by
  simp only [Deck.fixRow]
  split <;> rfl

/-! ## What a read of a granule leaves (R250, R256, R257) -/

theorem State.busyCycles_cells (s : State) (k n : Nat) : (s.busyCycles k n).cells = s.cells := s.setDeck_cells k _ rfl

theorem State.notify_cells (s : State) (part kind arg : Nat) : (s.notify part kind arg).cells = s.cells :=
  State.cells_of_inner (s.notify_inner part kind arg)

theorem State.withdraw_cells (s : State) (k r page cause : Nat) : (s.withdraw k r page cause).cells = s.cells := by
  simp only [State.withdraw]
  split
  · exact (State.notify_cells ..).trans (s.setDeck_cells k _ rfl)
  · exact s.setDeck_cells k _ rfl

theorem State.retirePage_cells (s : State) (k a cause : Nat) : (s.retirePage k a cause).cells = s.cells := by
  simp only [State.retirePage]
  split
  · exact s.withdraw_cells ..
  · split
    · split
      · exact (State.notify_cells ..).trans (s.setDeck_cells k _ rfl)
      · exact s.setDeck_cells k _ rfl
    · exact s.setDeck_cells k _ rfl

theorem State.fixRow_cells (s : State) (k a : Nat) : (s.fixRow k a).cells = s.cells := by
  have hd : (s.setDeck k ((s.deck k).fixRow a).2).cells = s.cells := s.setDeck_cells k _ (Deck.fixRow_poison _ a)
  simp only [State.fixRow]
  split
  · exact (State.busyCycles_cells ..).trans hd
  · exact (State.retirePage_cells ..).trans ((State.busyCycles_cells ..).trans hd)
  · exact (State.retirePage_cells ..).trans hd

theorem State.correctedRead_cells (s : State) (k a : Nat) : (s.correctedRead k a).cells = s.cells := by
  simp only [State.correctedRead]
  split
  · exact (State.fixRow_cells ..).trans (s.setDeck_cells k _ (Deck.put_poison ..))
  · exact s.setDeck_cells k _ (Deck.put_poison ..)

theorem State.failedRead_stored (s : State) (k a : Nat) : (s.failedRead k a).stored = s.stored :=
  (State.stored_of_cells (State.fixRow_cells ..)).trans rfl

/-- A read of a granule, before its bytes are judged. -/
def State.fetched (s : State) (dev : Nat) : State :=
  let t := s.setDeck (dev / 2 ^ 32) ((s.deck (dev / 2 ^ 32)).look (dev % 2 ^ 32))
  if (s.deck (dev / 2 ^ 32)).holds (dev % 2 ^ 32) then t else t.busyCycles (dev / 2 ^ 32) 1

theorem State.readGranule_eq (s : State) (dev wrong : Nat) :
    s.readGranule dev wrong = (s.fetched dev).judgeGranule dev wrong := rfl

theorem State.fetched_cells (s : State) (dev : Nat) : (s.fetched dev).cells = s.cells := by
  have hl := s.setDeck_cells (dev / 2 ^ 32) ((s.deck (dev / 2 ^ 32)).look (dev % 2 ^ 32)) (Deck.look_poison ..)
  simp only [State.fetched]
  split
  · exact hl
  · exact (State.busyCycles_cells ..).trans hl

/-- A poisoned granule is not delivered. -/
theorem State.readGranule_poisoned (s : State) (dev wrong : Nat) (h : s.poisoned dev = true) :
    s.readGranule dev wrong = (none, s.fetched dev) := by
  rw [State.readGranule_eq, State.judgeGranule, if_pos ((State.poisoned_of_cells (s.fetched_cells dev) dev).trans h)]

/-- A granule that is not poisoned, with at most two erroneous bytes, is delivered. -/
theorem State.readGranule_delivered (s : State) (dev wrong : Nat) (h : s.poisoned dev = false) (hw : wrong ≤ 2) :
    ∃ t, s.readGranule dev wrong = (some (s.deckBytes dev 64), t) ∧ t.cells = s.cells := by
  have hc := s.fetched_cells dev
  have hp : ¬ (s.fetched dev).poisoned dev = true := by simp [State.poisoned_of_cells hc, h]
  rw [State.readGranule_eq, State.judgeGranule, if_neg hp, ← State.deckBytes_of_mem (State.mem_of_cells hc)]
  split
  · exact ⟨_, rfl, hc⟩
  · by_cases h0 : wrong = 0
    · have hv : rsVerdict wrong = .clean := if_pos h0
      rw [hv]
      exact ⟨_, rfl, hc⟩
    · have hv : rsVerdict wrong = .corrected := (if_neg h0).trans (if_pos hw)
      rw [hv]
      exact ⟨_, rfl, (State.correctedRead_cells ..).trans hc⟩

/-! ## What stays outside some granules -/

/-- From `s` to `t` only bytes of the granules of `l` change, and no siding die. -/
structure State.ChangesIn (l : List Nat) (s t : State) : Prop where
  wf : t.memWf = true
  out : ∀ a, (∀ g ∈ l, a < g ∨ g + 64 ≤ a) → Tab.get deckFill t.mem a = Tab.get deckFill s.mem a
  sidings : t.sidings = s.sidings

namespace State.ChangesIn

variable {l l' : List Nat} {s t u : State}

theorem of_stored (hs : s.memWf = true) (h : t.stored = s.stored) : ChangesIn l s t := by
  obtain ⟨hm, hd⟩ := Prod.mk.inj h
  exact ⟨by rw [State.memWf, hm]; exact hs, fun _ _ => by rw [hm], hd⟩

theorem of_cells (hs : s.memWf = true) (h : t.cells = s.cells) : ChangesIn l s t := of_stored hs (State.stored_of_cells h)

theorem trans (h : ChangesIn l s t) (h' : ChangesIn l t u) : ChangesIn l s u :=
  ⟨h'.wf, fun a ha => (h'.out a ha).trans (h.out a ha), h'.sidings.trans h.sidings⟩

theorem mono (h : ChangesIn l s t) (hl : ∀ g ∈ l, g ∈ l') : ChangesIn l' s t :=
  ⟨h.wf, fun a ha => h.out a (fun g hg => ha g (hl g hg)), h.sidings⟩

theorem putBytes (hs : s.memWf = true) (g : Nat) (bs : List Byte) (hb : bs.length ≤ 64) :
    ChangesIn [g] s (s.putBytes g bs) where
  wf := s.memWf_putBytes g bs hs
  out a ha := s.byte_putBytes_ne g a bs hs (by
    have := ha g List.mem_cons_self
    omega)
  sidings := rfl

/-- A granule apart from all that change keeps its bytes. -/
theorem deckBytes (h : ChangesIn l s t) (a : Nat) (ha : ∀ g ∈ l, a + 64 ≤ g ∨ g + 64 ≤ a) :
    t.deckBytes a 64 = s.deckBytes a 64 := by
  rw [State.deckBytes, State.deckBytes, Tab.getRun_eq_map, Tab.getRun_eq_map]
  refine List.map_congr_left (fun k hk => h.out _ (fun g hg => ?_))
  have := ha g hg
  have := List.mem_range.mp hk
  omega

end State.ChangesIn

theorem State.judgeGranule_in (s : State) (dev wrong : Nat) (hs : s.memWf = true) :
    State.ChangesIn [dev] s (s.judgeGranule dev wrong).2 := by
  have keeps {t : State} (h : t.stored = s.stored) : State.ChangesIn [dev] s t := .of_stored hs h
  simp only [State.judgeGranule]
  split
  · exact keeps rfl
  · split
    · exact keeps rfl
    · split
      · exact keeps rfl
      · exact keeps (State.stored_of_cells (s.correctedRead_cells ..))
      · exact keeps (s.failedRead_stored ..)
      · split
        · exact keeps (State.failedRead_stored ..)
        · have hdraw : State.ChangesIn [dev] s s.draw.2 := keeps rfl
          have hput := State.ChangesIn.putBytes hdraw.wf dev ((List.range 64).map (Config.beyondByte [1, s.draw.1])) (by simp)
          exact (hdraw.trans hput).trans (.of_cells hput.wf (State.correctedRead_cells ..))

/-- A read of a granule, whatever it meets, changes no byte of another. -/
theorem State.readGranule_in (s : State) (dev wrong : Nat) (hs : s.memWf = true) :
    State.ChangesIn [dev] s (s.readGranule dev wrong).2 :=
  have hf : State.ChangesIn [dev] s (s.fetched dev) := .of_cells hs (s.fetched_cells dev)
  hf.trans ((s.fetched dev).judgeGranule_in dev wrong hf.wf)

/-! ## One granule of a write (R251, R257) -/

/-- A granule of a write: its address, its bytes and their mask. -/
abbrev GranuleWrite := Nat × List Byte × List Bool

/-- A granule of a write has 64 bytes and a mask of each. -/
def GranuleWrite.Full (w : GranuleWrite) : Prop := w.2.1.length = 64 ∧ w.2.2.length = 64

/-- A granule of a write is covered whole, or is not poisoned and read with at most two erroneous bytes. -/
def State.CanTake (s : State) (wrong : Nat) (w : GranuleWrite) : Prop :=
  w.2.2.all id = true ∨ (s.poisoned w.1 = false ∧ wrong ≤ 2)

/-- The granule at a device address enters its channel's write buffer. -/
def State.bufferAt (s : State) (cycle dev : Nat) : State :=
  s.setDeck (dev / 2 ^ 32) (((s.deck (dev / 2 ^ 32)).touch ((s.deck (dev / 2 ^ 32)).channel (dev % 2 ^ 32)) cycle).letIn
    (dev % 2 ^ 32) cycle)

theorem State.bufferAt_cells (s : State) (cycle dev : Nat) : (s.bufferAt cycle dev).cells = s.cells :=
  s.setDeck_cells _ _ (by rw [Deck.letIn_poison, Deck.touch_poison])

theorem State.clearPoison_stored (s : State) (dev n : Nat) : (s.clearPoison dev n).stored = s.stored := by
  simp only [State.clearPoison]
  split <;> rfl

theorem State.clearPoison_poisoned (s : State) (dev n g : Nat) (h : s.poisoned g = false) :
    (s.clearPoison dev n).poisoned g = false := by
  simp only [State.clearPoison]
  split
  · exact h
  · by_cases hk : g / 2 ^ 32 = dev / 2 ^ 32
    · rw [State.poisoned, hk] at h ⊢
      rw [State.deck_setDeck]
      simp only [List.contains_eq_mem, List.mem_filter, decide_eq_false_iff_not] at h ⊢
      exact fun hm => h hm.1
    · rw [State.poisoned, State.deck_setDeck_ne _ _ _ _ hk]
      exact h

section
variable (s : State) (cycle wrong : Nat) (w : GranuleWrite)

theorem State.writeGranule_whole (h : w.2.2.all id = true) :
    s.writeGranule cycle wrong w = (true, ((s.clearPoison w.1 64).putBytes w.1 w.2.1).bufferAt cycle w.1) := by
  simp only [State.writeGranule, h, if_true]
  rfl

variable {w}

theorem State.writeGranule_part (h : w.2.2.all id = false) {old : List Byte} {t : State}
    (hr : s.readGranule w.1 wrong = (some old, t)) :
    s.writeGranule cycle wrong w = (true, (t.putBytes w.1 (mergeMask old w.2.1 w.2.2)).bufferAt cycle w.1) := by
  simp only [State.writeGranule, h, hr, Bool.false_eq_true, if_false]
  rfl

theorem State.writeGranule_unread (h : w.2.2.all id = false) {t : State} (hr : s.readGranule w.1 wrong = (none, t)) :
    s.writeGranule cycle wrong w = (false, t) := by
  simp only [State.writeGranule, h, hr, Bool.false_eq_true, if_false]

/-- A write that would merge into a poisoned granule is not made. -/
theorem State.writeGranule_poisoned (h : w.2.2.all id = false) (hp : s.poisoned w.1 = true) :
    s.writeGranule cycle wrong w = (false, s.fetched w.1) :=
  s.writeGranule_unread cycle wrong h (s.readGranule_poisoned w.1 wrong hp)

variable (hs : s.memWf = true) (hl : w.2.1.length ≤ 64)

include hs hl in
/-- A write of a granule changes no byte of another. -/
theorem State.writeGranule_in : State.ChangesIn [w.1] s (s.writeGranule cycle wrong w).2 := by
  cases h : w.2.2.all id with
  | true =>
    have hc : State.ChangesIn [w.1] s (s.clearPoison w.1 64) := .of_stored hs (s.clearPoison_stored w.1 64)
    have hput := State.ChangesIn.putBytes hc.wf w.1 w.2.1 hl
    rw [State.writeGranule_whole s cycle wrong w h]
    exact hc.trans (hput.trans (.of_cells hput.wf (State.bufferAt_cells ..)))
  | false =>
    have hin := s.readGranule_in w.1 wrong hs
    rcases hr : s.readGranule w.1 wrong with ⟨_ | old, t⟩ <;> rw [hr] at hin
    · rw [State.writeGranule_unread s cycle wrong h hr]
      exact hin
    · have hput := State.ChangesIn.putBytes hin.wf w.1 (mergeMask old w.2.1 w.2.2) (by rw [mergeMask_length]; omega)
      rw [State.writeGranule_part s cycle wrong h hr]
      exact hin.trans (hput.trans (.of_cells hput.wf (State.bufferAt_cells ..)))

end

/-- A granule that can take its write takes it, and no granule is poisoned by that. -/
theorem State.writeGranule_stores (s : State) (cycle wrong : Nat) {w : GranuleWrite} (hs : s.memWf = true) (hw : w.Full)
    (hc : s.CanTake wrong w) : ∃ t, s.writeGranule cycle wrong w = (true, t) ∧
      t.deckBytes w.1 64 = mergeMask (s.deckBytes w.1 64) w.2.1 w.2.2 ∧
      ∀ g, s.poisoned g = false → t.poisoned g = false := by
  obtain ⟨hd, hm⟩ := hw
  cases h : w.2.2.all id with
  | true =>
    have hcells := State.bufferAt_cells ((s.clearPoison w.1 64).putBytes w.1 w.2.1) cycle w.1
    refine ⟨_, s.writeGranule_whole cycle wrong w h, ?_, fun g hg => ?_⟩
    · have hcm := State.mem_of_stored (s.clearPoison_stored w.1 64)
      rw [State.deckBytes_of_mem (State.mem_of_cells hcells),
        State.deckBytes_putBytes _ _ _ _ (by rw [State.memWf, hcm]; exact hs) hd,
        mergeMask_whole _ _ _ (by simp [hd]) (hm.trans hd.symm) h]
    · rw [State.poisoned_of_cells hcells]
      exact s.clearPoison_poisoned w.1 64 g hg
  | false =>
    obtain ⟨hp, hwr⟩ := hc.resolve_left (by simp [h])
    obtain ⟨t, hr, ht⟩ := s.readGranule_delivered w.1 wrong hp hwr
    have htm := State.mem_of_cells ht
    have hcells := State.bufferAt_cells (t.putBytes w.1 (mergeMask (s.deckBytes w.1 64) w.2.1 w.2.2)) cycle w.1
    refine ⟨_, s.writeGranule_part cycle wrong h hr, ?_, fun g hg => ?_⟩
    · rw [State.deckBytes_of_mem (State.mem_of_cells hcells)]
      exact State.deckBytes_putBytes _ _ _ _ (by rw [State.memWf, htm]; exact hs) (by simp [mergeMask_length, hd, hm])
    · rw [State.poisoned_of_cells hcells]
      exact (State.poisoned_of_cells ht g).trans hg

/-! ## The granules of a write -/

/-- The granules of a request have 64 bytes, with a mask of each, -/
theorem overGranules_full (dev : Nat) (data : List Byte) (mask : List Bool) :
    ∀ w ∈ overGranules dev data mask, GranuleWrite.Full w := by
  intro w hw
  obtain ⟨g, -, rfl⟩ := List.mem_map.mp hw
  exact ⟨by simp, by simp⟩

/-- and stand in ascending order, apart from one another. -/
theorem overGranules_apart (dev : Nat) (data : List Byte) (mask : List Bool) :
    (overGranules dev data mask).Pairwise (fun v w => v.1 + 64 ≤ w.1) := by
  rw [overGranules, List.pairwise_map, granules]
  split
  · exact List.Pairwise.nil
  · rw [List.pairwise_map]
    exact List.pairwise_lt_range.imp (fun {a b} (hab : a < b) => by show (_ + a) * 64 + 64 ≤ (_ + b) * 64; omega)

section
variable (cycle wrong : Nat)

theorem State.writeGranules_in (ws : List GranuleWrite) (s : State) (hs : s.memWf = true)
    (hl : ∀ w ∈ ws, w.2.1.length ≤ 64) :
    State.ChangesIn (ws.map (·.1)) s (s.writeGranules cycle wrong ws).2 := by
  induction ws generalizing s with
  | nil => exact .of_stored hs rfl
  | cons w ws ih =>
    have hw := (s.writeGranule_in cycle wrong hs (hl w List.mem_cons_self)).mono
      (l' := (w :: ws).map (·.1)) (fun g hg => List.mem_singleton.mp hg ▸ List.mem_cons_self)
    rw [State.writeGranules]
    rcases hx : s.writeGranule cycle wrong w with ⟨_ | _, t⟩ <;> rw [hx] at hw
    · exact hw
    · exact hw.trans ((ih t hw.wf (fun v hv => hl v (List.mem_cons_of_mem _ hv))).mono (fun g hg => List.mem_cons_of_mem _ hg))

/-- Granules that can all take their writes take them. -/
theorem State.writeGranules_stores (ws : List GranuleWrite) (s : State) (hs : s.memWf = true) (hf : ∀ w ∈ ws, w.Full)
    (hp : ws.Pairwise (fun v w => v.1 + 64 ≤ w.1)) (hc : ∀ w ∈ ws, s.CanTake wrong w) :
    ∀ w ∈ ws, (s.writeGranules cycle wrong ws).2.deckBytes w.1 64 = mergeMask (s.deckBytes w.1 64) w.2.1 w.2.2 := by
  induction ws generalizing s with
  | nil => exact fun w hw => absurd hw List.not_mem_nil
  | cons v ws ih =>
    obtain ⟨hv, hp⟩ := List.pairwise_cons.mp hp
    have hfv := hf v List.mem_cons_self
    obtain ⟨t, ht, hbytes, hpois⟩ := s.writeGranule_stores cycle wrong hs hfv (hc v List.mem_cons_self)
    have hfs : ∀ w ∈ ws, w.Full := fun w hw => hf w (List.mem_cons_of_mem _ hw)
    have hin := s.writeGranule_in cycle wrong hs hfv.1.le
    rw [ht] at hin
    rw [State.writeGranules, ht]
    intro w hw
    rcases List.mem_cons.mp hw with rfl | hw
    · rw [← hbytes]
      refine (State.writeGranules_in cycle wrong ws t hin.wf (fun w hw => (hfs w hw).1.le)).deckBytes _ (fun g hg => ?_)
      obtain ⟨x, hx, rfl⟩ := List.mem_map.mp hg
      exact .inl (hv x hx)
    · have hcs : ∀ w ∈ ws, t.CanTake wrong w := fun w hw =>
        (hc w (List.mem_cons_of_mem _ hw)).imp_right (fun ⟨h1, h2⟩ => ⟨hpois _ h1, h2⟩)
      refine (ih t hin.wf hfs hp hcs w hw).trans ?_
      rw [hin.deckBytes w.1 (fun g hg => .inr (by rw [List.mem_singleton.mp hg]; exact hv w hw))]

/-- A write whose first granule is poisoned and covered in part is not made. -/
theorem State.writeGranules_poisoned (w : GranuleWrite) (ws : List GranuleWrite) (s : State) (h : w.2.2.all id = false)
    (hp : s.poisoned w.1 = true) : s.writeGranules cycle wrong (w :: ws) = (some w.1, s.fetched w.1) := by
  rw [State.writeGranules, s.writeGranule_poisoned cycle wrong h hp]

end

/-! ## Requesters leave the decks and the siding dies (R192, R248, R257) -/

theorem State.RingChanges.stored {k : Nat} {s t : State} (h : s.RingChanges k t) : t.stored = s.stored := by
  obtain ⟨_, _, _, rfl⟩ := h.outside
  rfl

theorem State.takeFlagsAs_stored (s : State) (k : Nat) (timed : Bool) : (s.takeFlagsAs k timed).stored = s.stored :=
  (s.takeFlagsAs_ringChanges k timed).stored

theorem State.onStep_stored (s : State) (part : Nat) (f : StepJob → StepJob) : (s.onStep part f).stored = s.stored := by
  simp only [State.onStep]
  split <;> rfl

theorem State.reportAll_stored (s : State) (part : Nat) : (s.reportAll part).stored = s.stored :=
  foldl_keeps State.stored (fun s i => s.setRing i (s.ring i).receiveReport) (fun _ _ => rfl) _ s

theorem State.faultStep_stored (s : State) (part : Nat) (prog : Bool) : (s.faultStep part prog).stored = s.stored := by
  simp only [State.faultStep]
  split
  · rw [State.reportAll_stored, State.onStep_stored]
  · rfl

theorem State.hardFault_stored (s : State) (part addr : Nat) : (s.hardFault part addr).stored = s.stored := by
  simp only [State.hardFault]
  split
  · rw [State.reportAll_stored, State.onStep_stored]
  · rfl

theorem State.clientFault_stored (s : State) (part : Nat) (who : Client) (b : BitVec 6) (pa : Nat) :
    (s.clientFault part who b pa).stored = s.stored := by
  cases who with
  | stream cl e => exact State.takeFlagsAs_stored ..
  | transfer cl k => exact State.takeFlagsAs_stored ..
  | trestle r => exact State.takeFlagsAs_stored ..
  | collective g =>
    simp only [State.clientFault]
    split
    · exact s.hardFault_stored ..
    · exact s.faultStep_stored ..
  | other => rfl

theorem State.meets_stored (s : State) (part g : Nat) : (s.meets part g).stored = s.stored := s.onStep_stored ..

theorem State.memerr_stored (s : State) (x : DeckAcc) (g : Nat) : (s.memerr x g).stored = s.stored :=
  (State.meets_stored ..).trans (s.clientFault_stored ..)

theorem State.postShared_stored (s : State) (part span : Nat) (sc : Scope) (name n src cluster : Nat) :
    (s.postShared part span sc name n src cluster).stored = s.stored := by
  simp only [State.postShared]
  split
  · rfl
  · exact State.takeFlagsAs_stored ..

theorem State.postFrom_stored (s : State) (g : Nat) (sc : Scope) (name src : Nat) :
    (s.postFrom g sc name src).stored = s.stored := by
  have late (sc : Scope) : (s.postLate (g / 16) sc name 1 src g).stored = s.stored := by
    simp only [State.postLate]
    split
    · rfl
    · exact State.postShared_stored ..
  cases sc with
  | cluster => rfl
  | ring => rfl
  | span => exact late .span
  | device => exact late .device

theorem State.streamPosts_stored (s : State) (g k : Nat) : (s.streamPosts g k).stored = s.stored :=
  foldl_keeps State.stored _ (fun t (p : StreamPost) => t.postFrom_stored g p.scope p.name k) _ _

theorem State.setJob_stored (s : State) (who : Client) (j : Job) : (s.setJob who j).stored = s.stored := by
  cases who with
  | transfer cl k =>
    simp only [State.setJob]
    split <;> rfl
  | _ => rfl

theorem State.afterJob_stored (s : State) (who : Client) : (s.afterJob who).stored = s.stored := by
  cases who with
  | stream cl e => exact State.streamPosts_stored ..
  | _ => rfl

theorem State.gave_stored (s : State) (who : Client) (n : Nat) : (s.gave who n).stored = s.stored := by
  simp only [State.gave]
  split
  · exact (State.afterJob_stored ..).trans (s.setJob_stored ..)
  · rfl

/-! ## A request comes to its channel (R251) -/

theorem Deck.room_setChan_queue (d : Deck) (ch a : Nat) (q : List (Client × Bool × Nat)) :
    (d.setChan ch { d.chan ch with queue := q }).room a = d.room a := by
  have hw (k : Nat) : ((d.setChan ch { d.chan ch with queue := q }).chan k).wbuf = (d.chan k).wbuf := by
    by_cases hk : k = ch
    · subst hk
      rw [Deck.setChan, Deck.chan, Tab.get_ins_same]
    · exact congrArg Chan.wbuf (Tab.get_ins_ne _ _ _ _ _ hk)
  have hc : (d.setChan ch { d.chan ch with queue := q }).channel a = d.channel a := rfl
  simp only [Deck.room, Deck.holds, hc, hw]

section
variable (s : State) (acc : DeckAcc)

theorem State.hears_cells : (s.hears acc).cells = s.cells := s.setDeck_cells _ _ rfl

theorem State.hears_room (a : Nat) : ((s.hears acc).deck acc.span.val).room a = (s.deck acc.span.val).room a := by
  rw [State.hears, State.lookAt, State.deck_setDeck, Deck.room_setChan_queue]

/-- A request has come to its channel and is served. -/
def State.taken : State :=
  (s.hears acc).takeTurn acc.span.val (((s.hears acc).deck acc.span.val).channel acc.addr.toNat) acc.who

theorem State.taken_cells : (s.taken acc).cells = s.cells := by
  rw [← s.hears_cells acc]
  exact (s.hears acc).setDeck_cells acc.span.val _ rfl

/-- A request has come to its channel, and reads the old granule there. -/
def State.heardAndRead : State := (s.hears acc).deckTouch acc.span.val acc.addr.toNat acc.cycle

theorem State.heardAndRead_cells : (s.heardAndRead acc).cells = s.cells := by
  rw [← s.hears_cells acc]
  exact (s.hears acc).setDeck_cells acc.span.val _ rfl

/-- The granules that a write request writes: its job's bytes whole, the command's under their mask. -/
def State.granulesOf (data : List Byte) (mask : List Bool) : List GranuleWrite :=
  overGranules (devOf acc) (s.writeData acc data) (if s.jobOf acc.who = none then mask else [])

section
variable (data : List Byte) (mask : List Bool) (cycle wrong : Nat)

section
variable (hs : s.memWf = true)
include hs

/-- The writes of a request's granules change no other byte. -/
theorem State.taken_writeGranules_in : State.ChangesIn ((s.granulesOf acc data mask).map (·.1)) s
    ((s.taken acc).writeGranules cycle wrong (s.granulesOf acc data mask)).2 :=
  have ht : State.ChangesIn ((s.granulesOf acc data mask).map (·.1)) s (s.taken acc) := .of_cells hs (s.taken_cells acc)
  ht.trans (State.writeGranules_in cycle wrong _ _ ht.wf (fun w hw => (overGranules_full _ _ _ w hw).1.le))

/-- Where each granule can take its write, all take theirs. -/
theorem State.taken_writeGranules_stores (hc : ∀ w ∈ s.granulesOf acc data mask, s.CanTake wrong w) :
    ∀ w ∈ s.granulesOf acc data mask,
      ((s.taken acc).writeGranules cycle wrong (s.granulesOf acc data mask)).2.deckBytes w.1 64 =
        mergeMask (s.deckBytes w.1 64) w.2.1 w.2.2 := by
  intro w hw
  have hcells := s.taken_cells acc
  have hmem := State.mem_of_cells hcells
  rw [← State.deckBytes_of_mem hmem]
  refine State.writeGranules_stores cycle wrong _ (s.taken acc) (by rw [State.memWf, hmem]; exact hs) (overGranules_full _ _ _)
    (overGranules_apart _ _ _) (fun v hv => ?_) w hw
  exact (hc v hv).imp_right (fun ⟨h1, h2⟩ => ⟨(State.poisoned_of_cells hcells v.1).trans h1, h2⟩)

end

/-- Where the first would merge into a poisoned granule, nothing is stored. -/
theorem State.taken_writeGranules_poisoned {w : GranuleWrite} {rest : List GranuleWrite}
    (hw : s.granulesOf acc data mask = w :: rest) (h : w.2.2.all id = false) (hp : s.poisoned w.1 = true) :
    ∃ t, (s.taken acc).writeGranules cycle wrong (s.granulesOf acc data mask) = (some w.1, t) ∧ t.mem = s.mem := by
  have hcells := s.taken_cells acc
  rw [hw]
  exact ⟨_, State.writeGranules_poisoned _ _ w rest _ h ((State.poisoned_of_cells hcells w.1).trans hp),
    State.mem_of_cells ((State.fetched_cells ..).trans hcells)⟩

end

/-- A request that is served is one that its client makes next. -/
theorem State.matchesJob_of_served {out : Bool} (h : s.entryOf acc out = .served) : s.matchesJob acc out = true := by
  by_contra hm
  have hw : s.entryOf acc out = .waits := if_pos (by simp [hm])
  rw [hw] at h
  cases h

end

/-! ## DECK_WRITE -/

/-- What comes of the granules' writes of a request: its job goes on by `n` bytes, or its requester faults at the granule
that could not be read. -/
def wroteGranules (acc : DeckAcc) (n : Nat) : Option Nat × State → State
  | (some g, t) => t.memerr acc g
  | (none, t) => t.gave acc.who n

theorem wroteGranules_stored (acc : DeckAcc) (n : Nat) (x : Option Nat × State) :
    (wroteGranules acc n x).stored = x.2.stored := by
  rcases x with ⟨_ | g, t⟩
  · exact t.gave_stored ..
  · exact t.memerr_stored ..

section
variable (acc : DeckAcc) (data : List Byte) (mask : List Bool) (cycle wrong : Nat) (s : State)

theorem exec_deckWrite_waits (he : (s.hears acc).entryOf acc true = .waits) :
    exec (.deckWrite acc data mask cycle wrong) s = .next (s.hears acc) := by
  simp only [exec_deckWrite, execDeckWrite, he]
  rfl

variable (he : (s.hears acc).entryOf acc true = .served)
include he

/-- A write that is journaled, or finds no room, is not made. -/
theorem exec_deckWrite_held (h : s.journals acc.part.val acc.span.val (s.jobJr acc.who) acc.cycle = true ∨
    (s.deck acc.span.val).room acc.addr.toNat = false) :
    exec (.deckWrite acc data mask cycle wrong) s = .next (s.hears acc) := by
  have hg : ((s.hears acc).journals acc.part.val acc.span.val ((s.hears acc).jobJr acc.who) acc.cycle ||
      !((s.hears acc).deck acc.span.val).room acc.addr.toNat) = true := by
    rw [State.hears_room, Bool.or_eq_true, Bool.not_eq_true']
    exact h
  simp only [exec_deckWrite, execDeckWrite, he, hg, if_true]

/-- Any other makes its granules' writes; the first that is not made faults its requester. -/
theorem exec_deckWrite_made (hj : s.journals acc.part.val acc.span.val (s.jobJr acc.who) acc.cycle = false)
    (hr : (s.deck acc.span.val).room acc.addr.toNat = true) :
    exec (.deckWrite acc data mask cycle wrong) s = .next (wroteGranules acc (s.writeData acc data).length
      ((s.taken acc).writeGranules (max acc.cycle cycle) wrong (s.granulesOf acc data mask))) := by
  have hg : ((s.hears acc).journals acc.part.val acc.span.val ((s.hears acc).jobJr acc.who) acc.cycle ||
      !((s.hears acc).deck acc.span.val).room acc.addr.toNat) = false := by
    rw [State.hears_room, hr, Bool.not_true, Bool.or_false]
    exact hj
  have ht : (s.hears acc).takeTurn acc.span.val (((s.hears acc).deck acc.span.val).channel acc.addr.toNat) acc.who =
    s.taken acc := rfl
  have hjob : (s.taken acc).jobOf acc.who = s.jobOf acc.who := rfl
  have hdata : (s.taken acc).writeData acc data = s.writeData acc data := rfl
  simp only [exec_deckWrite, execDeckWrite, he, hg, ht, hjob, hdata, State.granulesOf, Bool.false_eq_true, if_false]
  cases s.jobOf acc.who <;> simp only [reduceCtorEq, if_true, if_false]
  case none =>
    rcases (s.taken acc).writeGranules (max acc.cycle cycle) wrong (overGranules (devOf acc) (s.writeData acc data) mask) with
      ⟨_ | g, v⟩ <;> rfl
  case some =>
    rcases (s.taken acc).writeGranules (max acc.cycle cycle) wrong (overGranules (devOf acc) (s.writeData acc data) []) with
      ⟨_ | g, v⟩ <;> rfl

end

/-! ## A journaled write waits at its siding die (R310, R311, R313) -/

/-- A step that has not committed is faulted, and not repeated where the fault is a program's. -/
theorem State.faultStep_stepJob (s : State) (part : Nat) (prog : Bool) {j : StepJob} (hj : (s.part part).stepJob = some j)
    (hc : j.committed = false) :
    ((s.faultStep part prog).part part).stepJob = some { j with faulted := true, prog := j.prog || prog } := by
  have ho : s.stepOpen part = true := by simp [State.stepOpen, hj, hc]
  rw [State.faultStep, if_pos ho, State.part_congr (State.reportAll_parts ..), State.onStep_stepJob, hj, Option.map_some]

section
variable (s : State) (part k : Nat)

theorem State.journalFull_mem : (s.journalFull part k).mem = s.mem :=
  (State.mem_of_stored (State.faultStep_stored ..)).trans rfl

theorem State.journalFull_siding :
    (s.journalFull part k).siding k = { s.siding k with jfull := setIns part (s.siding k).jfull } := by
  rw [State.journalFull, State.siding_of_stored (State.faultStep_stored ..)]
  exact State.siding_setSiding s k _

end

/-- A write that merges into no poisoned granule. -/
theorem State.mergesClean {s : State} {w : GranuleWrite} (hw : s.poisoned w.1 = false ∨ w.2.2.all id = true) :
    (s.poisoned w.1 && !w.2.2.all id) = false := by
  rcases hw with hw | hw <;> simp [hw]

section
variable (s : State) (acc : DeckAcc) (n : Nat) (w : GranuleWrite) (hw : s.poisoned w.1 = false ∨ w.2.2.all id = true)
include hw

theorem State.journalGranule_full (h : (s.siding (sidingOf acc.span.val)).offer acc.part.val = .full) :
    s.journalGranule acc n w = s.journalFull acc.part.val (sidingOf acc.span.val) := by
  simp only [State.journalGranule, State.mergesClean hw, h, Bool.false_eq_true, if_false]

theorem State.journalGranule_noBlock (h : (s.siding (sidingOf acc.span.val)).offer acc.part.val = .noBlock) :
    s.journalGranule acc n w = s := by
  simp only [State.journalGranule, State.mergesClean hw, h, Bool.false_eq_true, if_false]

/-- An entry that is taken keeps the old granule, and the write waits behind those that wait already. -/
theorem State.journalGranule_taken (h : (s.siding (sidingOf acc.span.val)).offer acc.part.val = .taken) :
    s.journalGranule acc n w = (s.fetch w.1 64).setSiding (sidingOf acc.span.val) { s.siding (sidingOf acc.span.val) with
      made := ((s.siding (sidingOf acc.span.val)).made + 1) % 2 ^ 64
      waiting := (s.siding (sidingOf acc.span.val)).waiting ++ [⟨⟨w.1, acc.part.val,
        ((s.siding (sidingOf acc.span.val)).made + 1) % 2 ^ 64, if s.poisoned w.1 then none else some (s.deckBytes w.1 64)⟩,
          acc.who, n, w.2.1, w.2.2⟩] } := by
  simp only [State.journalGranule, State.mergesClean hw, h, Bool.false_eq_true, if_false]

/-- However its entry is answered, the decks keep their bytes. -/
theorem State.journalGranule_mem : (s.journalGranule acc n w).mem = s.mem := by
  cases h : (s.siding (sidingOf acc.span.val)).offer acc.part.val with
  | full => rw [s.journalGranule_full acc n w hw h, State.journalFull_mem]
  | noBlock => rw [s.journalGranule_noBlock acc n w hw h]
  | taken => rw [s.journalGranule_taken acc n w hw h, State.setSiding_mem, State.fetch_mem]

end

section
variable (acc : DeckAcc) (data : List Byte) (mask : List Bool) (s : State)

theorem exec_journaledWrite_waits (he : (s.hears acc).entryOf acc true = .waits) :
    exec (.journaledWrite acc data mask) s = .next (s.hears acc) := by
  simp only [exec_journaledWrite, execJournaledWrite, he]
  rfl

variable (he : (s.hears acc).entryOf acc true = .served)
include he

theorem exec_journaledWrite_held (hj : s.journals acc.part.val acc.span.val (s.jobJr acc.who) acc.cycle = false) :
    exec (.journaledWrite acc data mask) s = .next (s.hears acc) := by
  have hj' : (s.hears acc).journals acc.part.val acc.span.val ((s.hears acc).jobJr acc.who) acc.cycle = false := hj
  simp only [exec_journaledWrite, execJournaledWrite, he, hj', Bool.not_false, Bool.or_true, if_true]

/-- A write that is journaled offers its siding die the old value of its granule. -/
theorem exec_journaledWrite_made (hj : s.journals acc.part.val acc.span.val (s.jobJr acc.who) acc.cycle = true)
    (hn : s.journaling acc.who = false) (hup : s.sidingUp acc.span.val = true) (w : GranuleWrite)
    (hw : s.granulesOf acc data mask = [w]) : exec (.journaledWrite acc data mask) s =
      .next ((s.heardAndRead acc).journalGranule acc (s.writeData acc data).length w) := by
  have hj' : (s.hears acc).journals acc.part.val acc.span.val ((s.hears acc).jobJr acc.who) acc.cycle = true := hj
  have hn' : (s.hears acc).journaling acc.who = false := hn
  have hup' : (s.hears acc).sidingUp acc.span.val = true := hup
  have ht : (s.hears acc).deckTouch acc.span.val acc.addr.toNat acc.cycle = s.heardAndRead acc := rfl
  have hjob : (s.heardAndRead acc).jobOf acc.who = s.jobOf acc.who := rfl
  have hdata : (s.heardAndRead acc).writeData acc data = s.writeData acc data := rfl
  rw [State.granulesOf] at hw
  simp only [exec_journaledWrite, execJournaledWrite, he, hj', hn', hup', ht, hjob, hdata, Bool.not_true, Bool.or_false,
    Bool.false_eq_true, if_false]
  cases hk : s.jobOf acc.who <;> simp only [hk, reduceCtorEq, if_true, if_false] at hw <;>
    simp only [hw, List.foldl_cons, List.foldl_nil]

end

/-! ## JOURNAL_ENTRY_STORED -/

section
variable (sd : Fin 2) (s : State) (w : JWait) (rest : List JWait) (hw : (s.siding sd.val).waiting = w :: rest)

/-- The siding die has stored its oldest waiting entry. -/
def State.entryStored : State := s.setSiding sd.val { s.siding sd.val with
  waiting := rest, entries := withEntry (s.siding sd.val).entries w.entry, stored := ((s.siding sd.val).stored + 1) % 2 ^ 64 }

include hw

theorem exec_journalEntryStored_waits (h : (s.deck (w.entry.addr / 2 ^ 32)).serves (w.entry.addr % 2 ^ 32) = false) :
    exec (.journalEntryStored sd) s = .next s := by
  simp only [exec_journalEntryStored, execJournalEntryStored, hw, h, Bool.not_false, if_true]

/-- The write that waited for it is made; where it is not made its requester faults. -/
theorem exec_journalEntryStored_made (h : (s.deck (w.entry.addr / 2 ^ 32)).serves (w.entry.addr % 2 ^ 32) = true) :
    ∃ cycle t, exec (.journalEntryStored sd) s = .next t ∧
      t.stored = ((s.entryStored sd w rest).writeGranule cycle 0 (w.entry.addr, w.data, w.mask)).2.stored := by
  have ht : s.setSiding sd.val { s.siding sd.val with
    waiting := rest, entries := withEntry (s.siding sd.val).entries w.entry, stored := ((s.siding sd.val).stored + 1) % 2 ^ 64 } =
      s.entryStored sd w rest := rfl
  refine ⟨((s.entryStored sd w rest).deck (w.entry.addr / 2 ^ 32)).now, ?_⟩
  simp only [exec_journalEntryStored, execJournalEntryStored, hw, h, ht, Bool.not_true, Bool.false_eq_true, if_false]
  rcases (s.entryStored sd w rest).writeGranule ((s.entryStored sd w rest).deck (w.entry.addr / 2 ^ 32)).now 0
    (w.entry.addr, w.data, w.mask) with ⟨_ | _, v⟩
  · exact ⟨_, rfl, (State.meets_stored ..).trans (v.clientFault_stored ..)⟩
  · exact ⟨_, rfl, v.gave_stored ..⟩

end

/-- Settles O35: a write that is served makes its granules' writes, a journaled one offers its entry and is made as one granule's
write once the entry is stored; what else a command does leaves the decks and the siding dies. -/
theorem deckWrites : Obligations.DeckWrites := by
  intro acc data mask cycle wrong sd s hs h byte bs ws jr room
  refine ⟨fun he r hr => ?trestle,
    fun he _ hr => exec_deckWrite_held acc data mask cycle wrong s he (.inr hr), fun he hj hr => ?made,
    fun he hj => exec_deckWrite_held acc data mask cycle wrong s he (.inl hj),
    fun he hj => exec_journaledWrite_held acc data mask s he hj,
    fun he => ⟨exec_deckWrite_waits acc data mask cycle wrong s he, exec_journaledWrite_waits acc data mask s he⟩,
    fun he hj hn hup w hw hok => ?journaled,
    fun w rest hw => ⟨exec_journalEntryStored_waits sd s w rest hw, fun hsv hd hm => ?stored⟩⟩
  case trestle =>
    have hm := State.matchesJob_of_served _ _ he
    rw [State.matchesJob, hr] at hm
    exact ((Bool.and_eq_true_iff.mp hm).2 :)
  case made =>
    have hin := s.taken_writeGranules_in acc data mask (max acc.cycle cycle) wrong hs
    have hstored := wroteGranules_stored acc bs.length
      ((s.taken acc).writeGranules (max acc.cycle cycle) wrong (s.granulesOf acc data mask))
    have hmem := State.mem_of_stored hstored
    refine ⟨_, exec_deckWrite_made acc data mask cycle wrong s he hj hr, fun a ha => ?outside, fun hc w hw => ?taken,
      fun w rest hws hp hb => ?poisoned⟩
    case outside =>
      have hout := hin.out a (fun g hg => by
        obtain ⟨w, hw, rfl⟩ := List.mem_map.mp hg
        exact ha w hw)
      rw [← hmem] at hout
      exact hout
    case taken =>
      rw [State.deckBytes_of_mem hmem]
      exact s.taken_writeGranules_stores acc data mask (max acc.cycle cycle) wrong hs hc w hw
    case poisoned =>
      obtain ⟨v, hv, hvm⟩ := s.taken_writeGranules_poisoned acc data mask (max acc.cycle cycle) wrong hws hp hb
      rw [hv]
      exact ⟨(State.mem_of_stored (State.memerr_stored ..)).trans hvm, _, rfl⟩
  case journaled =>
    intro k old
    have hcells := s.heardAndRead_cells acc
    have hmem := State.mem_of_cells hcells
    have hpois := State.poisoned_of_cells hcells w.1
    have hsid : (s.heardAndRead acc).siding k = old := State.siding_of_stored (State.stored_of_cells hcells) k
    have hok' : (s.heardAndRead acc).poisoned w.1 = false ∨ w.2.2.all id = true := hok.imp_left hpois.trans
    have hoff {o : Offer} (ho : old.offer acc.part.val = o) :
        ((s.heardAndRead acc).siding (sidingOf acc.span.val)).offer acc.part.val = o := by
      rw [← ho, ← hsid]
      rfl
    refine ⟨_, exec_journaledWrite_made acc data mask s he hj hn hup w hw,
      (State.journalGranule_mem _ acc _ w hok').trans hmem, fun ho => ?taken, fun ho => ?noBlock, fun ho => ?full⟩
    case taken =>
      rw [State.journalGranule_taken _ acc _ w hok' (hoff ho), hpois, State.deckBytes_of_mem hmem]
      rw [show sidingOf acc.span.val = k from rfl, State.siding_setSiding, hsid]
    case noBlock => rw [State.journalGranule_noBlock _ acc _ w hok' (hoff ho), hsid]
    case full =>
      rw [State.journalGranule_full _ acc _ w hok' (hoff ho)]
      refine ⟨?_, fun j hj hc => ?_⟩
      · rw [show sidingOf acc.span.val = k from rfl, State.journalFull_siding]
        exact (mem_setIns _ _ _).mpr (.inl rfl)
      · exact ⟨_, State.faultStep_stepJob _ _ true (j := j) hj hc, rfl, Bool.or_true _⟩
  case stored =>
    obtain ⟨u, t, ht, hst⟩ := exec_journalEntryStored_made sd s w rest hw hsv
    have hin := (s.entryStored sd w rest).writeGranule_in u 0 (w := (w.entry.addr, w.data, w.mask)) hs hd.le
    have hmem := State.mem_of_stored hst
    have hsid : t.siding sd.val = (s.entryStored sd w rest).siding sd.val :=
      congrArg (fun l => Tab.get Siding.reset l sd.val) ((Prod.mk.inj hst).2.trans hin.sidings)
    rw [State.entryStored, State.siding_setSiding] at hsid
    refine ⟨t, ht, by rw [hsid], by rw [hsid], by rw [hsid], fun hc => ?merged, fun hp hb => ?poisoned, fun a ha => ?outside⟩
    case merged =>
      obtain ⟨v, hv, hb, -⟩ := (s.entryStored sd w rest).writeGranule_stores u 0 (w := (w.entry.addr, w.data, w.mask)) hs
        ⟨hd, hm⟩ (hc.symm.imp_right (fun h => ⟨h, Nat.zero_le 2⟩))
      rw [hv] at hmem
      rw [State.deckBytes_of_mem hmem, hb]
      rfl
    case poisoned =>
      rw [State.writeGranule_poisoned _ u 0 hb hp] at hmem
      exact hmem.trans ((State.mem_of_cells (State.fetched_cells ..)).trans rfl)
    case outside =>
      have hout := hin.out a (fun g hg => by rw [List.mem_singleton.mp hg]; exact ha)
      rw [← hmem] at hout
      exact hout

end Sys2Proof.Machine

/-! # The commit point (O30)

What the writes and reads of the signal box, and a channel that goes offline, leave of partitions, rings, journals and outputs: a
partition changes at most by a fault of its step. What the commit point has brought about holds on through the end of the step. -/

namespace Sys2Proof.Machine

/-! ## Tables whose values are mapped -/

theorem Tab.get_map {α β : Type} (f : α → β) (d : α) (m : Tab α) (i : Nat) :
    Tab.get (f d) (m.map (fun p => (p.1, f p.2))) i = f (Tab.get d m i) := by
  induction m with
  | nil => rfl
  | cons p m ih =>
    obtain ⟨k, v⟩ := p
    simp only [List.map_cons, Tab.get, ih]
    split
    · rfl
    · split <;> rfl

/-- A value put in the place of one that is mapped alike leaves the mapped table, where its key is listed. -/
theorem Tab.map_ins_same {α β : Type} (f : α → β) (d : α) (m : Tab α) (i : Nat) (x : α) (hx : f x = f (Tab.get d m i))
    (hd : Tab.get d m i ≠ d) : (Tab.ins i x m).map (fun p => (p.1, f p.2)) = m.map (fun p => (p.1, f p.2)) := by
  induction m with
  | nil => exact absurd rfl hd
  | cons p m ih =>
    obtain ⟨k, v⟩ := p
    simp only [Tab.get] at hx hd
    rw [Tab.ins]
    split
    · next h =>
      rw [if_neg (by omega), if_pos h] at hd
      exact absurd rfl hd
    · next h =>
      split
      · next he =>
        rw [if_pos he] at hx
        simp only [List.map_cons, hx, he]
      · next he =>
        rw [if_neg he, if_neg h] at hx hd
        simp only [List.map_cons, ih hx hd]

/-! ## A partition but for the faults of its step -/

/-- A step but for whether it has been faulted from outside the rings (R28). -/
def StepJob.course (j : StepJob) : StepJob := { j with faulted := false, prog := false }

/-- What a partition is doing, but for whether its step has been faulted. -/
def PJob.course : PJob → PJob
  | .step j => .step j.course
  | j => j

/-- A partition but for whether its step has been faulted. -/
def Partition.course (p : Partition) : Partition := { p with job := p.job.course }

/-- The partitions but for whether their steps have been faulted. -/
def State.courses (s : State) : Tab Partition := s.parts.map (fun p => (p.1, p.2.course))

theorem State.courses_of_parts {s t : State} (h : t.parts = s.parts) : t.courses = s.courses := by
  rw [State.courses, h, State.courses]

theorem State.course_part (s : State) (p : Nat) : (s.part p).course = Tab.get .reset s.courses p :=
  (Tab.get_map Partition.course .reset s.parts p).symm

theorem State.course_of_courses {s t : State} (h : t.courses = s.courses) (p : Nat) : (t.part p).course = (s.part p).course := by
  rw [State.course_part, h, State.course_part]

/-- What a partition's course shows does not change where its course does not. -/
theorem State.of_courses {s t : State} (h : t.courses = s.courses) {β : Type} (g : Partition → β)
    (hg : ∀ p, g p.course = g p) (p : Nat) : g (t.part p) = g (s.part p) := by
  rw [← hg, State.course_of_courses h, hg]

theorem PJob.step_of_course {a : PJob} {c : StepJob} (h : a.course = .step c) : ∃ j, a = .step j ∧ j.course = c := by
  cases a with
  | step j => exact ⟨j, rfl, PJob.step.inj h⟩
  | _ => exact PJob.noConfusion h

theorem Partition.job_of_stepJob {p : Partition} {j : StepJob} (hj : p.stepJob = some j) : p.job = .step j := by
  unfold Partition.stepJob at hj
  split at hj
  · next hp =>
    cases hj
    exact hp
  · cases hj

/-- A step goes on but for its faults. -/
theorem Partition.stepJob_of_course {p q : Partition} (h : q.course = p.course) {j : StepJob} (hj : p.stepJob = some j) :
    ∃ j', q.stepJob = some j' ∧ j'.course = j.course := by
  have hc : q.job.course = p.job.course := congrArg Partition.job h
  rw [Partition.job_of_stepJob hj] at hc
  obtain ⟨j', hq, hj'⟩ := PJob.step_of_course hc
  exact ⟨j', by rw [Partition.stepJob, hq], hj'⟩

theorem State.partsOn_of_courses {s t : State} (h : t.courses = s.courses) (k : Nat) : t.partsOn k = s.partsOn k := by
  have on (u : State) : u.partsOn k = (u.courses.filter (fun p => !(p.2.regionsOn k).isEmpty)).map (·.1) := by
    rw [State.courses, List.filter_map, List.map_map]
    rfl
  rw [on, on, h]

/-- A step may be faulted. -/
theorem State.onStep_courses (s : State) (part : Nat) (f : StepJob → StepJob)
    (hf : ∀ j, PJob.course (.step (f j)) = PJob.course (.step j)) : (s.onStep part f).courses = s.courses := by
  simp only [State.onStep]
  split
  · next j hj =>
    refine Tab.map_ins_same Partition.course .reset s.parts part _ ?_ (fun hr => ?_)
    · show Partition.mk .. = (s.part part).course
      rw [Partition.course, hj, hf]
    · have hq : (s.part part).job = .idle := congrArg Partition.job hr
      rw [hj] at hq
      cases hq
  · rfl

theorem State.faultStep_courses (s : State) (part : Nat) (prog : Bool) : (s.faultStep part prog).courses = s.courses := by
  simp only [State.faultStep]
  split
  · rw [State.courses_of_parts (State.reportAll_parts ..)]
    exact s.onStep_courses part _ (fun _ => rfl)
  · rfl

/-! ## Only faults -/

/-- From `s` to `t` a partition changes at most by a fault of its step and a ring not in its clusters; a journal takes entries of
partitions in their optimizer phase alone; the sidings' staged bytes stay; and outputs follow those that there are. -/
structure State.OnlyFaults (s t : State) : Prop where
  courses : t.courses = s.courses
  cl : ∀ i, (t.ring i).cl = (s.ring i).cl
  entries : ∀ k, ∀ e ∈ (t.siding k).entries, e ∈ (s.siding k).entries ∨ (s.part e.part).opt = true
  staged : ∀ k, (t.siding k).staged = (s.siding k).staged
  outbox : s.outbox <+: t.outbox

/-- The partitions, the rings, the sidings and the outputs. -/
def State.besideDecks (s : State) : (Tab Partition × Tab Ring) × Tab Siding × List Output := (s.partsRings, s.sidings, s.outbox)

namespace State.OnlyFaults

variable {s t u : State}

theorem opt (h : s.OnlyFaults t) (p : Nat) : (t.part p).opt = (s.part p).opt :=
  State.of_courses h.courses Partition.opt (fun _ => rfl) p

/-- Partitions, rings and sidings stay, and outputs follow. -/
theorem of_tells (hp : t.parts = s.parts) (hr : t.rings = s.rings) (hs : t.sidings = s.sidings) (ho : s.outbox <+: t.outbox) :
    s.OnlyFaults t := by
  have siding (k : Nat) : t.siding k = s.siding k := congrArg (fun l => Tab.get Siding.reset l k) hs
  exact ⟨State.courses_of_parts hp, fun i => congrArg Ring.cl (State.ring_congr hr i), fun k e he => .inl (siding k ▸ he),
    fun k => congrArg Siding.staged (siding k), ho⟩

theorem of_besideDecks (h : t.besideDecks = s.besideDecks) : s.OnlyFaults t := by
  simp only [State.besideDecks, State.partsRings, Prod.mk.injEq] at h
  obtain ⟨⟨hp, hr⟩, hs, ho⟩ := h
  exact of_tells hp hr hs (ho ▸ List.prefix_refl _)

theorem refl (s : State) : s.OnlyFaults s := of_besideDecks rfl

theorem note (s : State) (part node reg cause : Nat) : s.OnlyFaults (s.note part node reg cause) := of_besideDecks rfl

theorem trans (h : s.OnlyFaults t) (h' : t.OnlyFaults u) : s.OnlyFaults u where
  courses := h'.courses.trans h.courses
  cl i := (h'.cl i).trans (h.cl i)
  entries k e he := by
    rcases h'.entries k e he with he | he
    · exact h.entries k e he
    · exact .inr (h.opt e.part ▸ he)
  staged k := (h'.staged k).trans (h.staged k)
  outbox := h.outbox.trans h'.outbox

theorem foldl {α : Type} (f : State → α → State) (h : ∀ (s : State) a, s.OnlyFaults (f s a)) (l : List α) (s : State) :
    s.OnlyFaults (l.foldl f s) :=
  List.foldlRecOn l f (motive := fun t => s.OnlyFaults t) (refl s) (fun t ht a _ => ht.trans (h t a))

end State.OnlyFaults

/-! ## Faults and the journal -/

theorem Ring.receiveReport_cl (r : Ring) : r.receiveReport.cl = r.cl := by
  unfold Ring.receiveReport
  split <;> rfl

theorem State.reportAll_cl (s : State) (part i : Nat) : ((s.reportAll part).ring i).cl = (s.ring i).cl := by
  rw [State.ring_reportAll]
  split
  · exact Ring.receiveReport_cl _
  · rfl

theorem State.reportAll_outbox (s : State) (part : Nat) : (s.reportAll part).outbox = s.outbox :=
  foldl_keeps State.outbox (fun s i => s.setRing i (s.ring i).receiveReport) (fun _ _ => rfl) _ s

theorem State.onStep_outbox (s : State) (part : Nat) (f : StepJob → StepJob) : (s.onStep part f).outbox = s.outbox := by
  simp only [State.onStep]
  split <;> rfl

theorem State.faultStep_outbox (s : State) (part : Nat) (prog : Bool) : (s.faultStep part prog).outbox = s.outbox := by
  simp only [State.faultStep]
  split
  · rw [State.reportAll_outbox, State.onStep_outbox]
  · rfl

theorem State.faultStep_cl (s : State) (part : Nat) (prog : Bool) (i : Nat) :
    ((s.faultStep part prog).ring i).cl = (s.ring i).cl := by
  simp only [State.faultStep]
  split
  · rw [State.reportAll_cl, State.onStep_ring]
  · rfl

theorem State.faultStep_onlyFaults (s : State) (part : Nat) (prog : Bool) : s.OnlyFaults (s.faultStep part prog) := by
  have hs (k : Nat) := State.siding_of_stored (s.faultStep_stored part prog) k
  exact ⟨s.faultStep_courses part prog, s.faultStep_cl part prog, fun k e he => .inl (hs k ▸ he),
    fun k => congrArg Siding.staged (hs k), s.faultStep_outbox part prog ▸ List.prefix_refl _⟩

theorem State.siding_setSiding_ne (s : State) (i k : Nat) (x : Siding) (h : k ≠ i) : (s.setSiding i x).siding k = s.siding k :=
  Tab.get_ins_ne _ _ _ _ _ h

/-- A siding die takes entries of a partition in its optimizer phase. -/
theorem State.OnlyFaults.setSiding (s : State) (k : Nat) (x : Siding) (hs : x.staged = (s.siding k).staged)
    (he : ∀ e ∈ x.entries, e ∈ (s.siding k).entries ∨ (s.part e.part).opt = true) : s.OnlyFaults (s.setSiding k x) := by
  refine ⟨rfl, fun _ => rfl, fun i e hm => ?_, fun i => ?_, List.prefix_refl _⟩
  all_goals by_cases hi : i = k
  · subst hi
    rw [State.siding_setSiding] at hm
    exact he e hm
  · exact .inl (s.siding_setSiding_ne k i x hi ▸ hm)
  · subst hi
    rw [State.siding_setSiding, hs]
  · rw [State.siding_setSiding_ne _ _ _ _ hi]

theorem State.journalFull_onlyFaults (s : State) (part k : Nat) : s.OnlyFaults (s.journalFull part k) := by
  have hset : s.OnlyFaults (s.setSiding k { s.siding k with jfull := setIns part (s.siding k).jfull }) :=
    .setSiding s k _ rfl (fun _ he => .inl he)
  refine .trans ?_ (State.faultStep_onlyFaults _ part true)
  exact hset.trans (.of_besideDecks rfl)

theorem State.journalNow_onlyFaults (s : State) (part dev : Nat) (ho : (s.part part).opt = true) :
    s.OnlyFaults (s.journalNow part dev).2 := by
  unfold State.journalNow
  extract_lets -underBinder k sd
  split
  · exact .refl s
  · split
    · exact s.journalFull_onlyFaults part k
    · exact .refl s
    · have hf : s.OnlyFaults (s.fetch dev 64) := .of_besideDecks rfl
      refine hf.trans (.setSiding _ k _ rfl (fun e he => ?_))
      rcases List.mem_append.mp he with he | he
      · exact .inl he
      · rw [List.mem_singleton.mp he]
        exact .inr ho

/-- What a partition journals it journals in its optimizer phase. -/
theorem State.opt_of_journalsNow {s : State} {part span : Nat} (h : s.journalsNow part span false = true) :
    (s.part part).opt = true := by
  rw [State.journalsNow, State.journals, Bool.false_or, Bool.or_eq_true, Bool.and_eq_true, Bool.and_eq_true] at h
  exact h.elim And.left And.left

/-! ## Writes of the signal box (R251, R260, R313) -/

theorem State.clearPoison_besideDecks (s : State) (dev n : Nat) : (s.clearPoison dev n).besideDecks = s.besideDecks := by
  simp only [State.clearPoison]
  split <;> rfl

theorem State.land_besideDecks (s : State) (dev : Nat) (bs : List Byte) : (s.land dev bs).besideDecks = s.besideDecks :=
  s.clearPoison_besideDecks dev bs.length

theorem State.place_onlyFaults (s : State) (x : Nat × List Byte) : s.OnlyFaults (s.place x) := by
  simp only [State.place]
  split
  · exact .of_besideDecks rfl
  · split
    · exact .refl s
    · split
      · exact .of_besideDecks (s.land_besideDecks ..)
      · next part hp =>
        have hj := s.journalNow_onlyFaults part (x.1 / 64 * 64) (State.opt_of_journalsNow (Option.filter_eq_some_iff.mp hp).2)
        split <;> rename_i hq <;> rw [hq] at hj
        · exact hj.trans (.of_besideDecks (State.land_besideDecks ..))
        · exact hj.trans (.of_besideDecks rfl)
        · exact hj

theorem State.unstall_onlyFaults (s : State) : s.OnlyFaults s.unstall := by
  refine .trans ?_ (.foldl _ (fun t x => t.place_onlyFaults _) _ _)
  exact .of_besideDecks rfl

theorem State.writePart_onlyFaults (s : State) (part pa : Nat) (bs : List Byte) : s.OnlyFaults (s.writePart part pa bs) := by
  refine .foldl _ (fun t p => ?_) _ s
  split
  · split
    · exact .refl t
    · split
      · exact .foldl _ State.place_onlyFaults _ t
      · exact .of_besideDecks (t.land_besideDecks ..)
  · exact .refl t

theorem State.fetchPart_onlyFaults (s : State) (part pa n : Nat) : s.OnlyFaults (s.fetchPart part pa n) := by
  refine .foldl _ (fun t p => ?_) _ s
  split
  · exact .of_besideDecks rfl
  · exact .refl t

/-! ## Outputs -/

theorem State.msix_outbox (s : State) (f v : Nat) : s.outbox <+: (s.msix f v).outbox := by
  simp only [State.msix]
  split
  · exact List.prefix_refl _
  · split
    · exact List.prefix_refl _
    · exact List.prefix_append ..

theorem State.sidings_of_inner {s t : State} (h : t.inner = s.inner) : t.sidings = s.sidings :=
  show t.inner.sidings = s.inner.sidings from congrArg _ h

theorem State.notify_onlyFaults (s : State) (part kind arg : Nat) : s.OnlyFaults (s.notify part kind arg) := by
  have hi := s.notify_inner part kind arg
  refine .of_tells (State.parts_of_inner hi) (State.rings_of_inner hi) (State.sidings_of_inner hi) ?_
  unfold State.notify
  split
  · exact List.prefix_refl _
  · next f _ =>
    dsimp only
    exact State.msix_outbox (s.setFn f _) f 1

/-! ## A channel that goes offline (R261) -/

theorem State.withdraw_onlyFaults (s : State) (k r page cause : Nat) : s.OnlyFaults (s.withdraw k r page cause) := by
  have hs : s.OnlyFaults ((s.setDeck k { s.deck k with
      withdrawn := setIns r (s.deck k).withdrawn, retlog := retlogOf ((s.regionHolder k r).getD 0xFF) cause page }).notifyOperator
        ((s.regionHolder k r).getD 0xFF) 259 r) := .of_besideDecks rfl
  simp only [State.withdraw]
  split
  · exact hs.trans (State.notify_onlyFaults ..)
  · exact hs

theorem State.channelOff_onlyFaults (s : State) (span ch : Nat) : s.OnlyFaults (s.channelOff span ch) := by
  refine .trans ?_ (State.unstall_onlyFaults _)
  refine .trans ?_ (.foldl _ (fun t p => t.notify_onlyFaults p 3 span) _ _)
  refine .trans ?_ (.note _ 0xFF (256 + span) 261 ch)
  refine .trans ?_ (.foldl _ (fun t r => t.withdraw_onlyFaults span r (r * 4096) 4) _ _)
  exact .of_besideDecks rfl

theorem State.settleChannels_onlyFaults (s : State) : s.OnlyFaults s.settleChannels := by
  refine .foldl _ (fun t k => ?_) _ s
  simp only [State.settleChannel]
  split
  · split
    · exact .refl t
    · exact t.channelOff_onlyFaults k _
  · exact .refl t

/-! ## Streams at their anchors (R324) -/

/-- The anchor of every stream of the cluster holds the live values. -/
def Cluster.Anchored (c : Cluster) : Prop := ∀ x ∈ c.sr, x.astep = x.step ∧ x.adraw = x.draw ∧ x.acursor = x.cursor

theorem Cluster.reset_anchored : Cluster.reset.Anchored := fun x hx => by
  rw [List.eq_of_mem_replicate hx]
  exact ⟨rfl, rfl, rfl⟩

theorem State.cluster_setCluster_ne (s : State) (g h : Nat) (c : Cluster) (hg : h ≠ g) :
    (s.setCluster g c).cluster h = s.cluster h := by
  simp only [State.setCluster, State.cluster]
  by_cases hr : h / 16 = g / 16
  · rw [hr, State.ring_setRing, Ring.get, Ring.put, Ring.get, List.getD_eq_getElem?_getD, List.getD_eq_getElem?_getD,
      List.getElem?_set_ne (by omega)]
  · rw [State.ring_setRing_ne _ _ _ _ hr]

/-- A cluster that is put reads as put, or as one that its ring does not have. -/
theorem State.cluster_setCluster_or (s : State) (g : Nat) (c : Cluster) :
    (s.setCluster g c).cluster g = c ∨ (s.setCluster g c).cluster g = .reset := by
  simp only [State.setCluster, State.cluster, State.ring_setRing, Ring.get, Ring.put, List.getD_eq_getElem?_getD]
  by_cases h : g % 16 < (s.ring (g / 16)).cl.length
  · exact .inl (by rw [List.getElem?_set_self h]; rfl)
  · exact .inr (by rw [List.getElem?_eq_none (by simpa using h)]; rfl)

section
variable (s : State) (g : Nat)

/-- The anchors of a cluster's streams take their live values. -/
def State.anchorAt : State := s.setSr g ((s.liveSr g).map SrStream.anchor)

theorem State.anchorAt_awake (i : Nat) : ((s.anchorAt g).ring i).awake = (s.ring i).awake := by
  simp only [State.anchorAt, State.setSr]
  split
  · by_cases hi : i = g / 16
    · rw [hi, State.setCluster, State.ring_setRing]
      rfl
    · rw [State.setCluster, State.ring_setRing_ne _ _ _ _ hi]
  · rfl

theorem State.anchorAt_same (h : (s.ring (g / 16)).awake = true) : ((s.anchorAt g).cluster g).Anchored := by
  rw [State.anchorAt, State.setSr, if_pos h]
  rcases s.cluster_setCluster_or g { s.cluster g with sr := (s.liveSr g).map SrStream.anchor } with hc | hc <;> rw [hc]
  · intro x hx
    obtain ⟨y, -, rfl⟩ := List.mem_map.mp hx
    exact ⟨rfl, rfl, rfl⟩
  · exact Cluster.reset_anchored

theorem State.anchorAt_anchored (h : Nat) (hh : (s.cluster h).Anchored) : ((s.anchorAt g).cluster h).Anchored := by
  by_cases ha : (s.ring (g / 16)).awake = true
  · by_cases hg : h = g
    · rw [hg]
      exact s.anchorAt_same g ha
    · rwa [State.anchorAt, State.setSr, if_pos ha, State.cluster_setCluster_ne _ _ _ _ hg]
  · rwa [State.anchorAt, State.setSr, if_neg ha]

end

theorem State.foldl_anchorAt (l : List Nat) (s : State) (g : Nat) (ha : (s.ring (g / 16)).awake = true)
    (hg : g ∈ l ∨ (s.cluster g).Anchored) : ((l.foldl State.anchorAt s).cluster g).Anchored := by
  induction l generalizing s with
  | nil => exact hg.resolve_left List.not_mem_nil
  | cons h l ih =>
    refine ih (s.anchorAt h) ((s.anchorAt_awake h _).trans ha) ?_
    rcases hg with hg | hg
    · rcases List.mem_cons.mp hg with rfl | hg
      · exact .inr (s.anchorAt_same g ha)
      · exact .inl hg
    · exact .inr (s.anchorAt_anchored h g hg)

/-- Each stream of an awake ring of the partition is at its anchor. -/
theorem State.mapSr_anchored (s : State) (part r k : Nat) (hr : r ∈ (s.part part).rings) (ha : (s.ring r).awake = true)
    (hk : k < 16) : (((s.mapSr part SrStream.anchor).ring r).get k).Anchored := by
  have hm := State.foldl_anchorAt (s.part part).clusters s (r * 16 + k) (by rwa [show (r * 16 + k) / 16 = r by omega])
    (.inl (List.mem_flatMap.mpr ⟨r, hr, List.mem_map.mpr ⟨k, List.mem_range.mpr hk, rfl⟩⟩))
  rwa [State.cluster, show (r * 16 + k) / 16 = r by omega, show (r * 16 + k) % 16 = k by omega] at hm

/-! ## The commit point (R307) -/

theorem State.failingOn_of (s t : State) (hs : t.spans = s.spans) (hc : ∀ k, t.partsOn k = s.partsOn k) (part : Nat) :
    t.failingOn part = s.failingOn part := by
  have hd (k : Nat) : t.deck k = s.deck k := congrArg (fun l => (Tab.get Span.reset l k).deck) hs
  simp only [State.failingOn, hd, hc]

/-- The journals are dropped. -/
theorem State.journalDrop_entries (s : State) (part k : Nat) (hk : k < 2) :
    ∀ e ∈ ((s.journalDrop part).siding k).entries, e.part ≠ part := by
  have two : k = 0 ∨ k = 1 := by omega
  simp only [State.journalDrop, List.foldl_cons, List.foldl_nil]
  intro e he
  rcases two with rfl | rfl
  · rw [State.siding_setSiding_ne _ _ _ _ (by decide), State.siding_setSiding] at he
    exact of_decide_eq_true (List.mem_filter.mp he).2
  · rw [State.siding_setSiding] at he
    exact of_decide_eq_true (List.mem_filter.mp he).2

/-- A ring's optimizer phase ends. -/
def State.phaseOff (s : State) (i : Nat) : State :=
  if (s.ring i).awake then s.setRing i { s.ring i with optph := false } else s

theorem State.phaseOff_cl (s : State) (i k : Nat) : ((s.phaseOff i).ring k).cl = (s.ring k).cl := by
  unfold State.phaseOff
  split
  · by_cases hk : k = i
    · rw [hk, State.ring_setRing]
    · rw [State.ring_setRing_ne _ _ _ _ hk]
  · rfl

/-- The partitions, the decks and the siding dies. -/
def State.afield (s : State) : (Tab Byte × Tab Span) × Tab Partition × Tab Siding := ((s.mem, s.spans), s.parts, s.sidings)

theorem State.phaseOff_afield (s : State) (i : Nat) : (s.phaseOff i).afield = s.afield := by
  unfold State.phaseOff
  split <;> rfl

theorem State.mapSr_afield (s : State) (part : Nat) (f : SrStream → SrStream) : (s.mapSr part f).afield = s.afield := by
  refine foldl_keeps State.afield _ (fun t g => ?_) _ s
  simp only [State.setSr]
  split <;> rfl

/-- The device before the commit is recorded in the partition: the journal dropped, the streams at their anchors, the rings' optimizer
phases at an end. -/
def State.settledFor (s : State) (part : Nat) : State :=
  (((s.journalDrop part).mapSr part SrStream.anchor).part part).rings.foldl State.phaseOff
    ((s.journalDrop part).mapSr part SrStream.anchor)

theorem State.settledFor_afield (s : State) (part : Nat) : (s.settledFor part).afield = (s.journalDrop part).afield :=
  (foldl_keeps State.afield _ (fun t i => t.phaseOff_afield i) _ _).trans (State.mapSr_afield ..)

theorem State.partsOn_setPart (s : State) (i k : Nat) (q : Partition) (hq : q.regions = (s.part i).regions)
    (hd : s.part i ≠ .reset) : (s.setPart i q).partsOn k = s.partsOn k := by
  have on (u : State) : u.partsOn k = ((u.parts.map (fun p => (p.1, p.2.regionsOn k))).filter (fun p => !p.2.isEmpty)).map (·.1) := by
    rw [List.filter_map, List.map_map]
    rfl
  rw [on, on]
  refine congrArg _ (congrArg _ (Tab.map_ins_same (Partition.regionsOn · k) .reset s.parts i q ?_ hd))
  show q.regionsOn k = (s.part i).regionsOn k
  rw [Partition.regionsOn, hq, Partition.regionsOn]

/-- The partition of a step that has committed. -/
def Partition.committed (p : Partition) (j : StepJob) : Partition :=
  { p with stepno := (p.stepno + 1) % 2 ^ 64, opt := false, job := .step { j with committed := true } }

theorem Partition.ne_reset_of_stepJob {p : Partition} {j : StepJob} (hj : p.stepJob = some j) : p ≠ .reset := by
  rintro rfl
  cases hj

section
variable {s : State} {part : Nat} {j : StepJob} (hj : (s.part part).stepJob = some j)
include hj

/-- The commit point is recorded in its partition. -/
theorem State.commitPoint_eq : ∃ q : Partition, q.regions = (s.part part).regions ∧ q ≠ .reset ∧
    s.commitPoint part = ((s.settledFor part).setPart part q).setPart part ((s.part part).committed j) := by
  have hp : ((s.journalDrop part).mapSr part SrStream.anchor).part part = s.part part :=
    State.part_congr (congrArg (·.2.1) (State.mapSr_afield ..) :) part
  have hjob := Partition.job_of_stepJob hj
  refine ⟨{ s.part part with stepno := ((s.part part).stepno + 1) % 2 ^ 64, opt := false }, rfl,
    fun h => ?_, ?_⟩
  · have hi := congrArg Partition.job h
    rw [hjob] at hi
    cases hi
  · have he : s.commitPoint part = ((s.settledFor part).setPart part
        { ((s.journalDrop part).mapSr part SrStream.anchor).part part with
          stepno := ((((s.journalDrop part).mapSr part SrStream.anchor).part part).stepno + 1) % 2 ^ 64
          opt := false }).onStep part (fun j => { j with committed := true }) := rfl
    rw [he, hp, State.onStep, State.part_setPart]
    simp only [hjob]
    rfl

theorem State.commitPoint_part : (s.commitPoint part).part part = (s.part part).committed j := by
  obtain ⟨q, -, -, he⟩ := State.commitPoint_eq hj
  rw [he, State.part_setPart]

theorem State.commitPoint_mem : (s.commitPoint part).mem = s.mem := by
  obtain ⟨q, -, -, he⟩ := State.commitPoint_eq hj
  rw [he]
  exact (congrArg (·.1.1) (s.settledFor_afield part) :)

theorem State.commitPoint_failingOn : (s.commitPoint part).failingOn part = s.failingOn part := by
  obtain ⟨q, hq, hr, he⟩ := State.commitPoint_eq hj
  have ha := s.settledFor_afield part
  have hp : (s.settledFor part).parts = s.parts := congrArg (·.2.1) ha
  have hpart : (s.settledFor part).part part = s.part part := State.part_congr hp part
  refine State.failingOn_of s _ ?_ (fun k => ?_) part
  · rw [he]
    exact (congrArg (·.1.2) ha :)
  · rw [he, State.partsOn_setPart _ _ _ _ (by rw [State.part_setPart, hq]; rfl) (by rwa [State.part_setPart]),
      State.partsOn_setPart _ _ _ _ (by rw [hpart, hq]) (by rw [hpart]; exact Partition.ne_reset_of_stepJob hj),
      State.partsOn, hp, State.partsOn]

end

/-! ## The step that ends -/

section
variable (s : State) (p code : Nat) (replan : Bool)

theorem State.finishStep_sidings : (s.finishStep p code replan).sidings = s.sidings := by
  cases hj : (s.part p).stepJob with
  | none => simp only [State.finishStep, hj]
  | some j =>
    rw [s.finishStep_of p code replan hj, State.sidings_of_inner (State.answerHalts_inner ..), State.setPart_sidings,
      State.sidings_of_inner (State.answerStep_inner ..), State.setPart_sidings]

theorem State.finishStep_mem : (s.finishStep p code replan).mem = s.mem := by
  cases hj : (s.part p).stepJob with
  | none => simp only [State.finishStep, hj]
  | some j =>
    rw [s.finishStep_of p code replan hj, State.mem_of_inner (State.answerHalts_inner ..), State.setPart_mem,
      State.mem_of_inner (State.answerStep_inner ..), State.setPart_mem]

theorem State.finishStep_part_ne (i : Nat) (hi : i ≠ p) : (s.finishStep p code replan).part i = s.part i := by
  cases hj : (s.part p).stepJob with
  | none => simp only [State.finishStep, hj]
  | some j =>
    rw [s.finishStep_of p code replan hj, State.part_congr (State.parts_of_inner (State.answerHalts_inner ..)),
      State.part_setPart_ne _ _ _ _ hi, State.part_congr (State.parts_of_inner (State.answerStep_inner ..)),
      State.part_setPart_ne _ _ _ _ hi]

end

/-! ## What holds on from the commit point through the end of the step -/

/-- A partition's step number is `n`, its optimizer phase is over and its journal is empty; the clusters of each ring are those of
`cl`. -/
structure State.Committed (part n : Nat) (cl : Nat → List Cluster) (s : State) : Prop where
  stepno : (s.part part).stepno = n
  opt : (s.part part).opt = false
  entries : ∀ k, k < 2 → ∀ e ∈ (s.siding k).entries, e.part ≠ part
  cl : ∀ i, (s.ring i).cl = cl i

section
variable {part n : Nat} {cl : Nat → List Cluster} {s t : State}

theorem State.Committed.onlyFaults (h : s.Committed part n cl) (ht : s.OnlyFaults t) : t.Committed part n cl where
  stepno := (State.of_courses ht.courses Partition.stepno (fun _ => rfl) part).trans h.stepno
  opt := (ht.opt part).trans h.opt
  entries k hk e he hp := by
    rcases ht.entries k e he with he | he
    · exact h.entries k hk e he hp
    · rw [hp, h.opt] at he
      cases he
  cl i := (ht.cl i).trans (h.cl i)

/-- Whichever step ends. -/
theorem State.Committed.finishStep (h : s.Committed part n cl) (p code : Nat) (replan : Bool) :
    (s.finishStep p code replan).Committed part n cl := by
  cases hj : (s.part p).stepJob with
  | none =>
    rw [show s.finishStep p code replan = s by simp only [State.finishStep, hj]]
    exact h
  | some j =>
    have hr := s.finishStep_rings p code replan
    have hparts := s.finishStep_part p code replan hj
    have hs : (s.finishStep p code replan).sidings = s.sidings := s.finishStep_sidings p code replan
    have hq (i : Nat) (hi : i ≠ p) := s.finishStep_part_ne p code replan i hi
    have hcl (i : Nat) := (congrArg Ring.cl (State.ring_congr hr i)).trans (h.cl i)
    have hent : ∀ k, k < 2 → ∀ e ∈ ((s.finishStep p code replan).siding k).entries, e.part ≠ part := by
      simp only [State.siding, hs]
      exact h.entries
    by_cases hp : part = p
    · subst hp
      exact ⟨by rw [hparts]; exact h.stepno, by rw [hparts]; rfl, hent, hcl⟩
    · exact ⟨by rw [hq part hp]; exact h.stepno, by rw [hq part hp]; exact h.opt, hent, hcl⟩

end

theorem State.onStep_opt (s : State) (p : Nat) (f : StepJob → StepJob) (part : Nat) :
    ((s.onStep p f).part part).opt = (s.part part).opt := by
  simp only [State.onStep]
  split
  · by_cases h : part = p
    · rw [h, State.part_setPart]
    · rw [State.part_setPart_ne _ _ _ _ h]
  · rfl

section
variable {part n : Nat} {cl : Nat → List Cluster} {s : State} (h : s.Committed part n cl)
include h

theorem State.Committed.finishSteps : s.finishSteps.Committed part n cl := by
  refine List.foldlRecOn _ _ (motive := State.Committed part n cl) h (fun t ht p _ => ?_)
  split
  · split
    · exact ht
    · exact ht.finishStep ..
  · exact ht

theorem State.Committed.onStep (p : Nat) (f : StepJob → StepJob) : (s.onStep p f).Committed part n cl := by
  have hr (i : Nat) : ((s.onStep p f).ring i).cl = cl i := by rw [State.onStep_ring, h.cl]
  have hs : (s.onStep p f).sidings = s.sidings := (Prod.mk.inj (s.onStep_stored p f)).2
  have ha := congrArg Prod.snd (congrFun (s.onStep_applied p f) part)
  have ho : ((s.onStep p f).part part).opt = (s.part part).opt := s.onStep_opt p f part
  exact ⟨ha.trans h.stepno, ho.trans h.opt, by simp only [State.siding, hs]; exact h.entries, hr⟩

/-- However the step ends. -/
theorem State.Committed.endStep (p code : Nat) (replan : Bool) : (s.endStep p code replan).Committed part n cl := by
  rw [State.endStep]
  split
  · exact ((h.onStep p _).onlyFaults (State.settleChannels_onlyFaults _)).finishSteps
  · exact h.finishStep ..

theorem State.Committed.badCkpt (p addr : Nat) : (s.badCkpt p addr).Committed part n cl := by
  simp only [State.badCkpt]
  split
  · exact h
  · split
    · exact h.onlyFaults (State.writePart_onlyFaults ..)
    · exact h

/-- A capture begins. -/
theorem State.Committed.setCkpt (ck : Ckpt) : (s.setPart part { s.part part with ckpt := some ck }).Committed part n cl :=
  ⟨by rw [State.part_setPart]; exact h.stepno, by rw [State.part_setPart]; exact h.opt, h.entries, h.cl⟩

/-- Where the stop begins, or its descriptor breaks a rule and the step ends. -/
theorem State.Committed.beginStop (addr : Nat) : (s.beginStop part addr).Committed part n cl := by
  have hf := h.onlyFaults (s.fetchPart_onlyFaults part addr (s.descLen part addr))
  simp only [State.beginStop]
  split
  · exact (hf.badCkpt part addr).endStep part stOk false
  · exact (hf.onlyFaults (State.writePart_onlyFaults ..)).setCkpt _

end

/-- The commit point brings it about. -/
theorem State.commitPoint_committed {s : State} {part : Nat} {j : StepJob} (hj : (s.part part).stepJob = some j) :
    (s.commitPoint part).Committed part (((s.part part).stepno + 1) % 2 ^ 64) (fun i => ((s.commitPoint part).ring i).cl) := by
  have hp := State.commitPoint_part hj
  refine ⟨by rw [hp]; rfl, by rw [hp]; rfl, fun k hk e he => ?_, fun _ => rfl⟩
  obtain ⟨q, -, -, hc⟩ := State.commitPoint_eq hj
  have hs : (s.commitPoint part).sidings = (s.journalDrop part).sidings := by
    rw [hc]
    exact congrArg (·.2.2) (s.settledFor_afield part)
  refine s.journalDrop_entries part k hk e ?_
  rwa [State.siding, ← hs]

/-- and each stream of its awake rings is at its anchor. -/
theorem State.commitPoint_anchored {s : State} {part : Nat} {j : StepJob} (hj : (s.part part).stepJob = some j) (r k : Nat)
    (hr : r ∈ (s.part part).rings) (ha : (s.ring r).awake = true) (hk : k < 16) :
    (((s.commitPoint part).ring r).get k).Anchored := by
  obtain ⟨q, -, -, he⟩ := State.commitPoint_eq hj
  have hcl : ((s.commitPoint part).ring r).cl = (((s.journalDrop part).mapSr part SrStream.anchor).ring r).cl := by
    rw [he, State.ring_setPart, State.ring_setPart]
    exact foldl_keeps (fun t => (t.ring r).cl) State.phaseOff (fun t i => t.phaseOff_cl i r) _ _
  have hm := (s.journalDrop part).mapSr_anchored part r k hr ha hk
  rwa [Ring.get, ← hcl] at hm

/-! ## COMMIT -/

/-- The conditions of the commit point (R307), and that what its checkpoint needs is served (R260). -/
theorem State.mayCommit_iff {s : State} {part : Nat} {j : StepJob} (hj : (s.part part).stepJob = some j) :
    (s.mayCommit part && s.stopServes part) = true ↔
      j.committed = false ∧ j.faulted = false ∧ j.halting = false ∧ (s.part part).rings ≠ [] ∧
        (∀ r ∈ (s.part part).rings, (s.ring r).tt.ended = true) ∧ (∀ g ∈ s.groups, g.2.part = part → g.2.liveIn = []) ∧
        s.journalWaits part = false ∧ (j.ckpt ≠ 0 → s.ckptServes part j.ckpt = true) := by
  simp only [State.mayCommit, State.stopServes, hj, Bool.and_eq_true, Bool.not_eq_true', List.isEmpty_eq_false_iff,
    List.all_eq_true, Bool.or_eq_true, bne_iff_ne, List.isEmpty_iff, decide_eq_true_eq, and_assoc]
  refine and_congr_right fun _ => and_congr_right fun _ => and_congr_right fun _ => and_congr_right fun _ =>
    and_congr_right fun _ => ?_
  refine and_congr (forall₂_congr fun g _ => ?_) (and_congr_right fun _ => ?_)
  · exact imp_iff_not_or.symm
  · rw [ne_eq, imp_iff_not_or, not_not]

theorem exec_commit_waits (part : Fin 64) {s : State} (h : (s.mayCommit part.val && s.stopServes part.val) = false) :
    exec (.commit part) s = .next s := by
  rw [exec_commit, execCommit, if_pos]
  rcases Bool.and_eq_false_iff.mp h with h | h <;> simp [h]

section
variable (part : Fin 64) {j : StepJob} {s : State} (hj : (s.part part.val).stepJob = some j)
include hj

theorem exec_commit_of (h : (s.mayCommit part.val && s.stopServes part.val) = true) : exec (.commit part) s =
    .next (if j.ckpt = 0 then (s.commitPoint part.val).endStep part.val stOk false
      else (s.commitPoint part.val).beginStop part.val j.ckpt) := by
  obtain ⟨hm, hs⟩ := Bool.and_eq_true_iff.mp h
  have hp : ((s.commitPoint part.val).part part.val).stepJob = some { j with committed := true } := by
    rw [State.commitPoint_part hj]
    rfl
  simp only [exec_commit, execCommit, hm, hs, hp, Bool.not_true, Bool.or_self, Bool.false_eq_true, if_false]
  split <;> rfl

end

/-- Settles O30: the commit point brings about its effects, which no way that the step then ends undoes. -/
theorem commits : Obligations.Commits := by
  intro part j s hj ok
  have hiff := State.mayCommit_iff hj
  refine ⟨fun hno => exec_commit_waits part (Bool.eq_false_of_not_eq_true (fun h => hno (hiff.mp h))), fun hok => ?_⟩
  have hp := State.commitPoint_part hj
  have hc := State.commitPoint_committed hj
  have hjob : ((s.commitPoint part.val).part part.val).stepJob = some { j with committed := true } := by
    rw [hp]
    rfl
  refine ⟨_, exec_commit_of part hj (hiff.mpr hok), ?_⟩
  have ht : (if j.ckpt = 0 then (s.commitPoint part.val).endStep part.val stOk false
      else (s.commitPoint part.val).beginStop part.val j.ckpt).Committed part.val (((s.part part.val).stepno + 1) % 2 ^ 64)
        (fun i => ((s.commitPoint part.val).ring i).cl) := by
    split
    · exact hc.endStep ..
    · exact hc.beginStop ..
  refine ⟨ht.stepno, ht.opt, ht.entries, fun r hr ha k hk => ?anchors, fun h0 hf => ?ends, fun h0 _ => if_pos h0,
    fun h0 => if_neg h0⟩
  case anchors =>
    have hm := State.commitPoint_anchored hj r k hr ha hk
    rw [Ring.get, ← ht.cl r] at hm
    rw [State.cluster, show (r * 16 + k) / 16 = r by omega, show (r * 16 + k) % 16 = k by omega]
    exact hm
  case ends =>
    have hf' : ¬ (s.commitPoint part.val).failingOn part.val = true := by rw [State.commitPoint_failingOn hj, hf]; decide
    rw [if_pos h0, State.endStep, if_neg hf', State.finishStep_part _ _ _ _ hjob, State.finishStep_mem,
      State.commitPoint_mem hj]
    exact ⟨rfl, rfl, rfl⟩

end Sys2Proof.Machine

/-! # Checkpoints (O31)

The end of a stop reads the extents, ships the copy, stages it and ends the step. A drain goes on by one change of its partition,
after which the sidings are staged again; what an access leaves of a deck, and what a link that sends leaves of the device, is said
once. -/

namespace Sys2Proof.Machine

/-! ## What no access changes of a deck (R251, R257) -/

/-- A deck but for its channels, its clock, its bus cycles and its poisoned granules. -/
def Deck.fixed (d : Deck) : Deck := { d with chans := [], now := 0, busy := 0, poison := [] }

/-- The decks but for these. -/
def State.fixed (s : State) (k : Nat) : Deck := (s.deck k).fixed

@[simp] theorem Deck.touch_fixed (d : Deck) (ch cycle : Nat) : (d.touch ch cycle).fixed = d.fixed := rfl

@[simp] theorem Deck.look_fixed (d : Deck) (a : Nat) : (d.look a).fixed = d.fixed := by
  simp only [Deck.look, Deck.access]
  split
  · rfl
  · split <;> rfl

@[simp] theorem Deck.enter_fixed (d : Deck) (a cycle : Nat) : (d.enter a cycle).fixed = d.fixed := by
  simp only [Deck.enter]
  split <;> rfl

@[simp] theorem Deck.letIn_fixed (d : Deck) (a cycle : Nat) : (d.letIn a cycle).fixed = d.fixed := by
  rw [Deck.letIn, Deck.enter_fixed]
  split <;> rfl

@[simp] theorem Deck.put_fixed (d : Deck) (a : Nat) : (d.put a).fixed = d.fixed := by
  rw [Deck.put, Deck.letIn_fixed, Deck.touch_fixed]

theorem State.fixed_of_spans {s t : State} (h : t.spans = s.spans) : t.fixed = s.fixed :=
  funext fun k => congrArg (fun l => (Tab.get Span.reset l k).deck.fixed) h

theorem State.setDeck_fixed (s : State) (k : Nat) (d : Deck) (h : d.fixed = (s.deck k).fixed) : (s.setDeck k d).fixed = s.fixed := by
  funext j
  by_cases hj : j = k
  · subst hj
    exact (congrArg Deck.fixed (s.deck_setDeck j d)).trans h
  · exact congrArg Deck.fixed (s.deck_setDeck_ne k j d hj)

theorem State.clearPoison_fixed (s : State) (dev n : Nat) : (s.clearPoison dev n).fixed = s.fixed := by
  simp only [State.clearPoison]
  split
  · rfl
  · exact s.setDeck_fixed _ _ rfl

theorem State.buffer_fixed (s : State) (dev n : Nat) : (s.buffer dev n).fixed = s.fixed :=
  s.setDeck_fixed _ _ (foldl_keeps Deck.fixed _ (fun d _ => d.put_fixed _) _ _)

theorem State.land_fixed (s : State) (dev : Nat) (bs : List Byte) : (s.land dev bs).fixed = s.fixed :=
  (State.buffer_fixed ..).trans ((State.fixed_of_spans rfl).trans (s.clearPoison_fixed dev bs.length))

theorem State.busyCycles_fixed (s : State) (k n : Nat) : (s.busyCycles k n).fixed = s.fixed := s.setDeck_fixed _ _ rfl

theorem State.fetch_fixed (s : State) (dev n : Nat) : (s.fetch dev n).fixed = s.fixed := by
  rw [State.fetch, State.busyCycles_fixed]
  exact s.setDeck_fixed _ _ (foldl_keeps Deck.fixed _ (fun d g => d.look_fixed g) _ _)

theorem State.fetchPart_fixed (s : State) (part pa n : Nat) : (s.fetchPart part pa n).fixed = s.fixed := by
  refine foldl_keeps State.fixed _ (fun t p => ?_) _ s
  split
  · exact t.fetch_fixed ..
  · rfl

theorem State.onStep_spans (s : State) (part : Nat) (f : StepJob → StepJob) : (s.onStep part f).spans = s.spans := by
  simp only [State.onStep]
  split <;> rfl

theorem State.reportAll_spans (s : State) (part : Nat) : (s.reportAll part).spans = s.spans :=
  foldl_keeps State.spans (fun s i => s.setRing i (s.ring i).receiveReport) (fun _ _ => rfl) _ s

theorem State.faultStep_spans (s : State) (part : Nat) (prog : Bool) : (s.faultStep part prog).spans = s.spans := by
  simp only [State.faultStep]
  split
  · rw [State.reportAll_spans, State.onStep_spans]
  · rfl

theorem State.journalNow_fixed (s : State) (part dev : Nat) : (s.journalNow part dev).2.fixed = s.fixed := by
  unfold State.journalNow
  extract_lets -underBinder k sd
  split
  · rfl
  · split
    · exact State.fixed_of_spans ((State.faultStep_spans ..).trans rfl)
    · rfl
    · exact (State.fixed_of_spans rfl).trans (s.fetch_fixed dev 64)

theorem State.place_fixed (s : State) (x : Nat × List Byte) : (s.place x).fixed = s.fixed := by
  simp only [State.place]
  split
  · exact State.fixed_of_spans rfl
  · split
    · rfl
    · split
      · exact s.land_fixed ..
      · next part _ =>
        have hj := s.journalNow_fixed part (x.1 / 64 * 64)
        split <;> rename_i hq <;> rw [hq] at hj
        · exact (State.land_fixed ..).trans hj
        · exact (State.fixed_of_spans rfl).trans hj
        · exact hj

theorem State.unstall_fixed (s : State) : s.unstall.fixed = s.fixed :=
  (foldl_keeps State.fixed _ (fun t _ => t.place_fixed _) _ _).trans (State.fixed_of_spans rfl)

theorem State.writePart_fixed (s : State) (part pa : Nat) (bs : List Byte) : (s.writePart part pa bs).fixed = s.fixed := by
  refine foldl_keeps State.fixed _ (fun t p => ?_) _ s
  split
  · split
    · rfl
    · split
      · exact foldl_keeps State.fixed _ State.place_fixed _ t
      · exact t.land_fixed ..
  · rfl

/-- Which decks are about to lose a channel shows in what no access changes. -/
theorem State.failingOn_of_fixed {s t : State} (hf : t.fixed = s.fixed) (hp : ∀ k, t.partsOn k = s.partsOn k) (part : Nat) :
    t.failingOn part = s.failingOn part := by
  have hd (k : Nat) : (t.deck k).failing = (s.deck k).failing := (congrArg Deck.failing (congrFun hf k) :)
  simp only [State.failingOn, hd, hp]

/-! ## Outputs follow those that there are -/

theorem State.complete_outbox (s : State) (f k code detail : Nat) (result : List (Nat × List Byte)) :
    s.outbox <+: (s.complete f k code detail result).outbox := by
  simp only [State.complete]
  split
  · exact List.prefix_refl _
  · refine List.IsPrefix.trans ?_ (State.msix_outbox _ f 0)
    simp only [State.putBook_outbox]
    rw [foldl_keeps State.outbox _ (fun t (p : Nat × List Byte) => t.putBook_outbox f _ p.2)]
    exact List.prefix_refl _

theorem State.reply_outbox (s : State) (h : Mgmt) (code : Nat) (data : List Nat) : s.outbox <+: (s.reply h code data).outbox := by
  simp only [State.reply]
  split <;> exact List.prefix_append ..

theorem State.answer_outbox (s : State) (o : Origin) (code : Nat) (data : List Nat) :
    s.outbox <+: (s.answer o code data).outbox := by
  cases o with
  | slot f k => exact s.complete_outbox ..
  | mgmt h => exact s.reply_outbox ..

/-- What each step of a fold adds its outputs to, the fold does. -/
theorem foldl_outbox {α : Type} (f : State → α → State) (h : ∀ (s : State) a, s.outbox <+: (f s a).outbox) (l : List α) (s : State) :
    s.outbox <+: (l.foldl f s).outbox :=
  List.foldlRecOn l f (motive := fun t => s.outbox <+: t.outbox) (List.prefix_refl _) (fun t ht a _ => ht.trans (h t a))

theorem State.answerHalts_outbox (s : State) (part : Nat) (slots : Bool) : s.outbox <+: (s.answerHalts part slots).outbox := by
  have h := foldl_outbox (fun s o => match o with
    | .slot _ _ => if slots then s.answer o stOk [] else s
    | .mgmt _ => s.answer o stOk []) (fun t o => ?_) (s.part part).halts (s.setPart part { s.part part with halts := [] })
  · exact h
  split
  · split
    · exact t.answer_outbox ..
    · exact List.prefix_refl _
  · exact t.answer_outbox ..

theorem State.finishStep_outbox (s : State) (p code : Nat) (replan : Bool) : s.outbox <+: (s.finishStep p code replan).outbox := by
  cases hj : (s.part p).stepJob with
  | none =>
    simp only [State.finishStep, hj]
    exact List.prefix_refl _
  | some j =>
    rw [s.finishStep_of p code replan hj]
    refine List.IsPrefix.trans ?_ (State.answerHalts_outbox _ p true)
    simp only [State.answerStep]
    split
    · exact State.complete_outbox (s.setPart p _) ..
    · exact State.complete_outbox (s.setPart p _) ..

/-! ## What a link that sends leaves of the device (R276, R302) -/

/-- The device without its ports and its outputs. -/
def State.offLinks (s : State) : State := { s with ports := [], outbox := [] }

/-- From `s` to `t` only ports change, and outputs follow. -/
structure State.Sends (s t : State) : Prop where
  rest : t.offLinks = s.offLinks
  outbox : s.outbox <+: t.outbox

namespace State.Sends

variable {s t u : State}

theorem refl (s : State) : s.Sends s := ⟨rfl, List.prefix_refl _⟩

theorem trans (h : s.Sends t) (h' : t.Sends u) : s.Sends u := ⟨h'.rest.trans h.rest, h.outbox.trans h'.outbox⟩

theorem foldl {α : Type} (f : State → α → State) (h : ∀ (s : State) a, s.Sends (f s a)) (l : List α) (s : State) :
    s.Sends (l.foldl f s) :=
  List.foldlRecOn l f (motive := fun t => s.Sends t) (refl s) (fun t ht a _ => ht.trans (h t a))

theorem setLink (s : State) (port : Nat) (half : Bool) (l : Link) : s.Sends (s.setLink port half l) := ⟨rfl, List.prefix_refl _⟩

theorem emit (s : State) (o : Output) : s.Sends (s.emit o) := ⟨rfl, List.prefix_append ..⟩

theorem sendNow (s : State) (port : Nat) (half : Bool) (f : NFrame) (out : List (Flow × NFrame)) :
    s.Sends (s.sendNow port half f out) := ⟨rfl, List.prefix_append ..⟩

theorem parts (h : s.Sends t) : t.parts = s.parts := (congrArg State.parts h.rest :)
theorem rings (h : s.Sends t) : t.rings = s.rings := (congrArg State.rings h.rest :)
theorem sidings (h : s.Sends t) : t.sidings = s.sidings := (congrArg State.sidings h.rest :)
theorem spans (h : s.Sends t) : t.spans = s.spans := (congrArg State.spans h.rest :)
theorem fns (h : s.Sends t) : t.fns = s.fns := (congrArg State.fns h.rest :)

theorem onlyFaults (h : s.Sends t) : s.OnlyFaults t := .of_tells h.parts h.rings h.sidings h.outbox

end State.Sends

theorem State.roundStep_sends (s : State) (port : Nat) (half : Bool) : s.Sends (s.roundStep port half) := by
  unfold State.roundStep
  extract_lets -underBinder l k on
  split
  · exact .setLink ..
  · extract_lets d have_
    split
    · exact (State.Sends.setLink ..).trans (.sendNow ..)
    · exact .setLink ..

theorem State.serveAux_sends (port : Nat) (half : Bool) (n : Nat) (s : State) : s.Sends (State.serveAux port half n s) := by
  induction n generalizing s with
  | zero => exact .refl s
  | succ n ih =>
    simp only [State.serveAux]
    split
    · exact (State.Sends.sendNow ..).trans (ih _)
    · split
      · exact (State.Sends.sendNow ..).trans (ih _)
      · split
        · exact (s.roundStep_sends port half).trans (ih _)
        · exact .refl s

theorem State.queueFrame_sends (s : State) (port : Nat) (half : Bool) (k : Flow) (f : NFrame) :
    s.Sends (s.queueFrame port half k f) := by
  refine .trans ?_ (State.Sends.setLink _ port half _)
  exact (State.Sends.setLink s port half _).trans (State.serveAux_sends port half _ _)

theorem State.sendCopy_sends (s : State) (g : GroupRec) (d : CkDest) (ser : Nat) (copy man : List Byte) :
    s.Sends (s.sendCopy g d ser copy man) := by
  refine (State.Sends.foldl _ (fun t x => ?_) _ s).trans (.foldl _ (fun t x => ?_) _ _)
  · exact t.queueFrame_sends ..
  · exact t.queueFrame_sends ..

/-! ## A copy goes to its destinations (R320, R365) -/

section
variable (s : State) (part : Nat) (ck : Ckpt) (copy man : List Byte)

theorem State.ship_sends (d : CkDest) : s.Sends (s.ship part ck copy man d).2 := by
  unfold State.ship
  split
  · extract_lets links up
    split
    · split
      · exact s.sendCopy_sends ..
      · exact .refl s
    · exact .refl s
  · split
    · split
      · exact .refl s
      · exact (State.Sends.emit s _).trans (.emit ..)
    · exact .refl s

theorem State.shipAll_sends (ds : List CkDest) : s.Sends (s.shipAll part ck copy man ds).2 := by
  induction ds generalizing s with
  | nil => exact .refl s
  | cons d ds ih => exact (s.ship_sends part ck copy man d).trans (ih _)

/-- A host destination is given the copy and after it the manifest. -/
theorem State.ship_host {d : CkDest} {f : Nat} (hd : d.buddy = false) (hf : (s.part part).vf = some f)
    (hb : s.ideBars f part = false) : (s.ship part ck copy man d).2 =
      (s.emit (.host f d.base copy (s.via f))).emit (.host f (d.base + copy.length) man (s.via f)) := by
  simp only [State.ship, hd, hf, hb, Bool.false_eq_true, if_false]

/-- Whatever goes to the other destinations. -/
theorem State.shipAll_host {d : CkDest} {f : Nat} (hd : d.buddy = false) (hf : (s.part part).vf = some f)
    (hb : s.ideBars f part = false) (ds : List CkDest) (hm : d ∈ ds) :
    .host f d.base copy (s.via f) ∈ (s.shipAll part ck copy man ds).2.outbox ∧
      .host f (d.base + copy.length) man (s.via f) ∈ (s.shipAll part ck copy man ds).2.outbox := by
  induction ds generalizing s with
  | nil => exact absurd hm List.not_mem_nil
  | cons x ds ih =>
    have hx := s.ship_sends part ck copy man x
    rcases List.mem_cons.mp hm with rfl | hm
    · have ho := (State.shipAll_sends (s.ship part ck copy man d).2 part ck copy man ds).outbox
      rw [s.ship_host part ck copy man hd hf hb] at ho
      rw [State.shipAll, s.ship_host part ck copy man hd hf hb]
      exact ⟨ho.subset (by simp [State.emit]), ho.subset (by simp [State.emit])⟩
    · have hp := State.part_congr hx.parts part
      have hfn (g : Nat) : (s.ship part ck copy man x).2.fn g = s.fn g := congrArg (fun l => Tab.get Fn.reset l g) hx.fns
      have hvia : (s.ship part ck copy man x).2.via f = s.via f := by simp only [State.via, hfn]
      rw [State.shipAll, ← hvia]
      exact ih _ (by rw [hp, hf]) (by simp only [State.ideBars, hp, hfn]; exact hb) hm

/-- The links of a buddy destination, and the group of its image that it names. -/
def CkDest.links (d : CkDest) : List Nat := [d.port0, d.port1].filter (fun p => decide (p < 16))

def Partition.groupOf (p : Partition) (gid : Nat) : Option GroupRec :=
  p.image.bind (fun im => im.groups.find? (fun g => g.gid == gid))

theorem State.ship_buddy {d : CkDest} (hd : d.buddy = true) : s.ship part ck copy man d =
    match (s.part part).groupOf d.gid with
    | some g => if !d.links.isEmpty && d.links.all (fun p => (s.link p false).st != .failed) then
        (d, s.sendCopy g d ck.serial copy man) else ({ d with state := 2 }, s)
    | none => ({ d with state := 2 }, s) := by
  rw [State.ship, if_pos hd, Partition.groupOf]
  cases (s.part part).image <;> rfl

/-- A buddy destination without a link or a group, or with a failed link, has failed. -/
theorem State.ship_buddy_fails {d : CkDest} (hd : d.buddy = true)
    (h : d.links = [] ∨ (∃ p ∈ d.links, (s.link p false).st = .failed) ∨ (s.part part).groupOf d.gid = none) :
    s.ship part ck copy man d = ({ d with state := 2 }, s) := by
  rw [s.ship_buddy part ck copy man hd]
  split
  · next g hg =>
    refine if_neg (fun hu => ?_)
    rw [Bool.and_eq_true, Bool.not_eq_true', List.isEmpty_eq_false_iff, List.all_eq_true] at hu
    rcases h with h | ⟨p, hp, hf⟩ | h
    · exact hu.1 h
    · exact absurd (hu.2 p hp) (by simp [hf])
    · rw [hg] at h
      cases h
  · rfl

/-- One whose links are up is sent the copy. -/
theorem State.ship_buddy_sent {d : CkDest} (hd : d.buddy = true) (hl : d.links ≠ [])
    (hu : ∀ p ∈ d.links, (s.link p false).st ≠ .failed) {r : GroupRec} (hg : (s.part part).groupOf d.gid = some r) :
    s.ship part ck copy man d = (d, s.sendCopy r d ck.serial copy man) := by
  rw [s.ship_buddy part ck copy man hd, hg]
  exact if_pos (by simpa [hl] using hu)

end

/-! ## Staged bytes (R313, R317) -/

/-- The bytes that a partition's draining checkpoints hold. -/
def Partition.drained (p : Partition) : Nat := p.drains.foldl (fun a ck => a + ck.bytes) 0

/-- The staged bytes of a siding die for a partition. -/
def State.stagedOn (s : State) (k part : Nat) : Nat := Tab.get 0 (s.siding k).staged part

/-- A siding die's staged bytes for a partition become `m`. -/
def State.stageOn (s : State) (part k m : Nat) : State :=
  s.setSiding k { s.siding k with
    staged := if m = 0 then Tab.del part (s.siding k).staged else Tab.ins part m (s.siding k).staged }

theorem State.restage_eq (s : State) (part : Nat) : ∃ m ≤ (s.part part).drained,
    s.restage part = (s.stageOn part 0 m).stageOn part 1 ((s.part part).drained - m) := by
  refine ⟨_, ?_, rfl⟩
  have hc : ceilDiv (s.part part).drained 2 ≤ (s.part part).drained := by
    rw [ceilDiv]
    omega
  refine Nat.max_le.mpr ⟨Nat.sub_le _ _, le_trans (Nat.min_le_left _ _) hc⟩

theorem State.restage_parts (s : State) (part : Nat) : (s.restage part).parts = s.parts := rfl

section
variable (s : State) (part k m : Nat)

theorem State.stageOn_staged (h : Tab.wf 0 (s.siding k).staged = true) : (s.stageOn part k m).stagedOn k part = m ∧
    Tab.wf 0 ((s.stageOn part k m).siding k).staged = true := by
  rw [State.stagedOn, State.stageOn, State.siding_setSiding]
  dsimp only
  split
  · next hm => exact ⟨(Tab.get_del_same 0 _ 0 part h).trans hm.symm, Tab.wfFrom_del 0 _ 0 part h⟩
  · next hm => exact ⟨Tab.get_ins_same .., Tab.wfFrom_ins 0 _ 0 part m h (Nat.zero_le _) hm⟩

theorem State.stageOn_siding_ne (i : Nat) (h : i ≠ k) : (s.stageOn part k m).siding i = s.siding i :=
  s.siding_setSiding_ne k i _ h

end

/-- The staged bytes of both siding dies are listed in their canonical form. -/
def State.StagedWf (s : State) : Prop := Tab.wf 0 (s.siding 0).staged = true ∧ Tab.wf 0 (s.siding 1).staged = true

/-- Staged again, the siding dies together hold the bytes of the draining checkpoints. -/
theorem State.restage_staged {s : State} (part : Nat) (h : s.StagedWf) :
    (s.restage part).stagedOn 0 part + (s.restage part).stagedOn 1 part = (s.part part).drained ∧ (s.restage part).StagedWf := by
  obtain ⟨m, hm, he⟩ := s.restage_eq part
  obtain ⟨h0, w0⟩ := s.stageOn_staged part 0 m h.1
  have hs1 := s.stageOn_siding_ne part 0 m 1 (by decide)
  obtain ⟨h1, w1⟩ := (s.stageOn part 0 m).stageOn_staged part 1 ((s.part part).drained - m) (by rw [hs1]; exact h.2)
  have hs0 := (s.stageOn part 0 m).stageOn_siding_ne part 1 ((s.part part).drained - m) 0 (by decide)
  rw [he]
  refine ⟨?_, by rw [hs0]; exact w0, w1⟩
  rw [h1, State.stagedOn, hs0, ← State.stagedOn, h0]
  omega

theorem State.StagedWf.onlyFaults {s t : State} (h : s.StagedWf) (ht : s.OnlyFaults t) : t.StagedWf := by
  rw [State.StagedWf, ht.staged, ht.staged]
  exact h

/-! ## A drain goes on (R319, R320) -/

/-- The partition's draining checkpoints become `l`. -/
def State.withDrains (s : State) (part : Nat) (l : List Ckpt) : State := s.setPart part { s.part part with drains := l }

/-- A destination is pending where not every one has failed. -/
theorem Ckpt.pending_of_allFailed {ck : Ckpt} (h : ck.allFailed = true) : ck.pending = false := by
  rw [Ckpt.pending, List.any_eq_false]
  intro d hd
  have hf := List.all_eq_true.mp h d hd
  simp only [beq_iff_eq] at hf ⊢
  omega

/-- A manifest says otherwise from then on. -/
theorem State.manifestState_writes (s : State) (part addr st cause fext : Nat) :
    s.OnlyFaults (s.manifestState part addr st cause fext) ∧ (s.manifestState part addr st cause fext).fixed = s.fixed := by
  rw [State.manifestState]
  exact ⟨s.writePart_onlyFaults .., s.writePart_fixed ..⟩

/-- The manifest of a drain shows its destinations, and what the drain has come to where it has ended. -/
def State.tellDrain (s : State) (part : Nat) (ck : Ckpt) : State :=
  let s := s.writePart part (ck.manifest + 24) (ck.dests.map (fun d => BitVec.ofNat 8 d.state))
  if ck.allFailed then s.manifestState part ck.manifest mfFailed 4 0xFFFF
  else if !ck.pending && ck.dests.all (fun d => d.state == 1) then s.manifestState part ck.manifest mfComplete 0 0xFFFF
  else s

theorem State.tellDrain_writes (s : State) (part : Nat) (ck : Ckpt) :
    s.OnlyFaults (s.tellDrain part ck) ∧ (s.tellDrain part ck).fixed = s.fixed := by
  have hw := s.writePart_onlyFaults part (ck.manifest + 24) (ck.dests.map (fun d => BitVec.ofNat 8 d.state))
  have hf := s.writePart_fixed part (ck.manifest + 24) (ck.dests.map (fun d => BitVec.ofNat 8 d.state))
  unfold State.tellDrain
  extract_lets t
  have hm (st cause fext : Nat) := t.manifestState_writes part ck.manifest st cause fext
  split
  · exact ⟨hw.trans (hm ..).1, (hm ..).2.trans hf⟩
  · split
    · exact ⟨hw.trans (hm ..).1, (hm ..).2.trans hf⟩
    · exact ⟨hw, hf⟩

/-- The checkpoint goes on draining while a destination is pending, and else has drained. -/
theorem State.drainStep_eq (s : State) (part : Nat) (older : List Ckpt) (ck : Ckpt) (newer : List Ckpt) :
    s.drainStep part older ck newer =
      if ck.pending then (s.tellDrain part ck).withDrains part (older ++ ck :: newer)
      else ((s.tellDrain part ck).withDrains part (older ++ newer)).restage part := by
  simp only [State.drainStep, State.tellDrain]
  by_cases hf : ck.allFailed = true
  · simp only [hf, Ckpt.pending_of_allFailed hf, if_true, Bool.false_eq_true, if_false, State.withDrains]
  · by_cases hp : ck.pending = true
    · simp only [hf, hp, if_true, Bool.false_eq_true, if_false, Bool.not_true, Bool.false_and, State.withDrains]
    · simp only [hf, hp, Bool.false_eq_true, if_false, Bool.not_false, Bool.true_and, State.withDrains]
      split <;> rfl

theorem State.drainStep_drains (s : State) (part : Nat) (older : List Ckpt) (ck : Ckpt) (newer : List Ckpt) :
    ((s.drainStep part older ck newer).part part).drains = older ++ (if ck.pending then ck :: newer else newer) := by
  rw [State.drainStep_eq]
  split
  · rw [State.withDrains, State.part_setPart]
  · rw [State.part_congr (State.restage_parts ..), State.withDrains, State.part_setPart]

/-! ## A capture ends (R317 to R320) -/

/-- A capture is over, and its checkpoint drains. -/
def State.startDrain (s : State) (part : Nat) (ck : Ckpt) : State :=
  (s.setPart part { s.part part with ckpt := none, drains := (s.part part).drains ++ [ck] }).restage part

/-- Where no destination is pending it has drained at once. -/
def State.captured (s : State) (part : Nat) (ck : Ckpt) : State :=
  if ck.pending then s.startDrain part ck else (s.startDrain part ck).drainStep part (s.part part).drains ck []

/-- A partition without a capture, whose drains are `l`. -/
def Partition.draining (p : Partition) (l : List Ckpt) : Partition := { p with ckpt := none, drains := l }

theorem State.startDrain_part (s : State) (part : Nat) (ck : Ckpt) :
    (s.startDrain part ck).part part = (s.part part).draining ((s.part part).drains ++ [ck]) := by
  rw [State.startDrain, State.part_congr (State.restage_parts ..), State.part_setPart]
  rfl

theorem State.restage_failingOn (s : State) (part p : Nat) : (s.restage part).failingOn p = s.failingOn p := by
  have hf : (s.restage part).fixed = s.fixed := State.fixed_of_spans rfl
  exact State.failingOn_of_fixed hf (fun _ => rfl) p

theorem State.setPart_failingOn (s : State) (i p : Nat) (q : Partition) (hq : q.regions = (s.part i).regions)
    (hd : s.part i ≠ .reset) : (s.setPart i q).failingOn p = s.failingOn p := by
  have hf : (s.setPart i q).fixed = s.fixed := State.fixed_of_spans rfl
  exact State.failingOn_of_fixed hf (fun k => s.partsOn_setPart i k q hq hd) p

section
variable {s : State} {part : Nat} {j : StepJob} (hj : (s.part part).stepJob = some j)
include hj

theorem State.startDrain_failingOn (ck : Ckpt) : (s.startDrain part ck).failingOn part = s.failingOn part := by
  rw [State.startDrain, State.restage_failingOn]
  exact s.setPart_failingOn part part _ rfl (Partition.ne_reset_of_stepJob hj)

theorem State.withDrains_failingOn (l : List Ckpt) : (s.withDrains part l).failingOn part = s.failingOn part :=
  s.setPart_failingOn part part _ rfl (Partition.ne_reset_of_stepJob hj)

/-- The partition has its capture behind it, and drains the checkpoint where a destination is pending; on its decks, and of the
outputs that there are, nothing changes. -/
theorem State.captured_of (ck : Ckpt) :
    ((s.captured part ck).part part).course =
        ((s.part part).draining ((s.part part).drains ++ (if ck.pending then [ck] else []))).course ∧
      (s.captured part ck).failingOn part = s.failingOn part ∧ s.outbox <+: (s.captured part ck).outbox := by
  have hp := s.startDrain_part part ck
  have hf := State.startDrain_failingOn hj ck
  unfold State.captured
  split
  · exact ⟨by rw [hp], hf, List.prefix_refl _⟩
  · next hn =>
    obtain ⟨ho, hx⟩ := (s.startDrain part ck).tellDrain_writes part ck
    have hc := State.course_of_courses ho.courses part
    obtain ⟨_, ht, _⟩ := Partition.stepJob_of_course (j := j) hc (by rw [hp]; exact hj)
    rw [State.drainStep_eq, if_neg hn]
    refine ⟨?_, ?_, ho.outbox⟩
    · rw [State.part_congr (State.restage_parts ..), State.withDrains, State.part_setPart, List.append_nil]
      show { ((s.startDrain part ck).tellDrain part ck).part part with drains := (s.part part).drains }.course = _
      have hd (p : Partition) (l : List Ckpt) : { p with drains := l }.course = { p.course with drains := l } := rfl
      rw [hd, hc, hp]
      rfl
    · rw [State.restage_failingOn, State.withDrains_failingOn ht, State.failingOn_of_fixed hx (State.partsOn_of_courses ho.courses), hf]

end

/-- The siding dies together hold what the draining checkpoints hold. -/
theorem State.captured_staged {s : State} (part : Nat) (ck : Ckpt) (h : s.StagedWf) :
    (s.captured part ck).stagedOn 0 part + (s.captured part ck).stagedOn 1 part = ((s.captured part ck).part part).drained := by
  obtain ⟨hs, hw⟩ := State.restage_staged (s := s.setPart part { s.part part with
    ckpt := none, drains := (s.part part).drains ++ [ck] }) part h
  unfold State.captured
  split
  · exact hs
  · next hn =>
    rw [State.drainStep_eq, if_neg hn]
    refine (State.restage_staged (s := (((s.startDrain part ck).tellDrain part ck).withDrains part _)) part ?_).1
    have ht : ((s.startDrain part ck).tellDrain part ck).StagedWf :=
      hw.onlyFaults ((s.startDrain part ck).tellDrain_writes part ck).1
    exact ht

/-- The extents of a capture are read. -/
def State.fetchExts (s : State) (part : Nat) (exts : List (Nat × Nat)) : State := exts.foldl (fun s x => s.fetchPart part x.1 x.2) s

/-- The device without its decks. -/
def State.offDecks (s : State) : State := { s with spans := [] }

theorem State.fetchExts_offDecks (s : State) (part : Nat) (exts : List (Nat × Nat)) :
    (s.fetchExts part exts).offDecks = s.offDecks := by
  refine foldl_keeps State.offDecks _ (fun t x => foldl_keeps State.offDecks _ (fun u p => ?_) _ t) exts s
  split <;> rfl

theorem State.fetchExts_fixed (s : State) (part : Nat) (exts : List (Nat × Nat)) : (s.fetchExts part exts).fixed = s.fixed :=
  foldl_keeps State.fixed (fun s (x : Nat × Nat) => s.fetchPart part x.1 x.2) (fun t x => t.fetchPart_fixed part x.1 x.2) exts s

/-- A checkpoint with as many of a copy's bytes staged as the siding dies have free. -/
def State.stagedAs (s : State) (ck : Ckpt) (copy : List Byte) : Ckpt :=
  { ck with bytes := min copy.length (((s.siding 0).free + (s.siding 1).free) * blockBytes), staged := true }

/-- A capture's bytes and its manifest. -/
def Ckpt.copyOf (ck : Ckpt) (bs : List (List Byte)) : List Byte := ck.record ++ bs.flatten

def Ckpt.manifestOf (ck : Ckpt) (st : Nat) (meas : List Byte) (bs : List (List Byte)) : List Byte :=
  ck.manifestBytes st 0 0xFFFF (if ck.snapshot then 0 else crc64 ck.record) meas (bs.map crc64)

/-- What a capture whose extents are read sends to its destinations. -/
def State.shipped (s : State) (part : Nat) (ck : Ckpt) (bs : List (List Byte)) : List CkDest × State :=
  (s.fetchExts part ck.exts).shipAll part (s.stagedAs ck (ck.copyOf bs)) (ck.copyOf bs)
    (ck.manifestOf mfComplete (s.part part).meas bs) ck.dests

theorem State.startDrain_dropLast (s : State) (part : Nat) (ck : Ckpt) :
    ((s.startDrain part ck).part part).drains.dropLast = (s.part part).drains := by
  rw [State.startDrain_part]
  exact List.dropLast_concat

/-- Such a capture is shipped, its manifest says STAGED, and its step ends. -/
theorem State.endStop_ok (s : State) (part : Nat) (ck : Ckpt) {bs : List (List Byte)} (hb : s.readExts part 0 ck.exts = .ok bs) :
    ∃ m, s.endStop part ck none = (((s.shipped part ck bs).2.writePart part ck.manifest m).captured part
      { s.stagedAs ck (ck.copyOf bs) with dests := (s.shipped part ck bs).1 }).endStep part stOk false := by
  have hs (k : Nat) : (s.fetchExts part ck.exts).siding k = s.siding k :=
    (congrArg (fun t : State => t.siding k) (s.fetchExts_offDecks part ck.exts) :)
  have hk : (s.fetchExts part ck.exts).stagedAs ck (ck.copyOf bs) = s.stagedAs ck (ck.copyOf bs) := by
    rw [State.stagedAs, hs, hs, State.stagedAs]
  refine ⟨({ s.stagedAs ck (ck.copyOf bs) with dests := (s.shipped part ck bs).1 } : Ckpt).manifestOf mfStaged (s.part part).meas bs,
    ?_⟩
  rw [State.captured, ← State.startDrain_dropLast _ part { s.stagedAs ck (ck.copyOf bs) with dests := (s.shipped part ck bs).1 }]
  simp only [State.endStop, hb, State.shipped, ← hk]
  rfl

/-- The fetches of a capture's extents change the decks, and those little. -/
theorem State.fetchExts_onlyFaults (s : State) (part : Nat) (exts : List (Nat × Nat)) : s.OnlyFaults (s.fetchExts part exts) :=
  .foldl (fun s (x : Nat × Nat) => s.fetchPart part x.1 x.2) (fun t x => t.fetchPart_onlyFaults part x.1 x.2) exts s

/-- From a capture that ends to the end of its step: the extents fetched, the copy shipped, the manifest written. -/
theorem State.shipped_writes (s : State) (part : Nat) (ck : Ckpt) (bs : List (List Byte)) (m : List Byte) :
    s.OnlyFaults ((s.shipped part ck bs).2.writePart part ck.manifest m) ∧
      ((s.shipped part ck bs).2.writePart part ck.manifest m).fixed = s.fixed := by
  have hsend : (s.fetchExts part ck.exts).Sends (s.shipped part ck bs).2 := State.shipAll_sends ..
  have hw := (s.shipped part ck bs).2.writePart_onlyFaults part ck.manifest m
  have hf := (s.shipped part ck bs).2.writePart_fixed part ck.manifest m
  exact ⟨((s.fetchExts_onlyFaults part ck.exts).trans hsend.onlyFaults).trans hw,
    hf.trans ((State.fixed_of_spans hsend.spans).trans (s.fetchExts_fixed part ck.exts))⟩

/-- A host destination is sent the copy and the manifest. -/
theorem State.shipped_host (s : State) (part : Nat) (ck : Ckpt) (bs : List (List Byte)) {d : CkDest} {f : Nat}
    (hm : d ∈ ck.dests) (hd : d.buddy = false) (hf : (s.part part).vf = some f) (hb : s.ideBars f part = false) :
    .host f d.base (ck.copyOf bs) (s.via f) ∈ (s.shipped part ck bs).2.outbox ∧
      .host f (d.base + (ck.copyOf bs).length) (ck.manifestOf mfComplete (s.part part).meas bs) (s.via f) ∈
        (s.shipped part ck bs).2.outbox := by
  have ho := s.fetchExts_offDecks part ck.exts
  have hp : (s.fetchExts part ck.exts).part part = s.part part := (congrArg (fun t : State => t.part part) ho :)
  have hvia : (s.fetchExts part ck.exts).via f = s.via f := (congrArg (fun t : State => t.via f) ho :)
  have hbars : (s.fetchExts part ck.exts).ideBars f part = s.ideBars f part :=
    (congrArg (fun t : State => t.ideBars f part) ho :)
  rw [← hvia, State.shipped]
  generalize ck.manifestOf mfComplete (s.part part).meas bs = man
  generalize ck.copyOf bs = copy
  exact State.shipAll_host _ part (s.stagedAs ck copy) copy man hd (by rw [hp, hf]) (by rw [hbars, hb]) ck.dests hm

/-- What a step that ends with OK leaves of its partition. -/
theorem State.finishStep_shows {u : State} {part : Nat} {j : StepJob} (hj : (u.part part).stepJob = some j) :
    ((u.finishStep part stOk false).part part).st = (if j.replan then .replan else .ready) ∧
      ((u.finishStep part stOk false).part part).job = .idle ∧
      ((u.finishStep part stOk false).part part).ckpt = (u.part part).ckpt ∧
      ((u.finishStep part stOk false).part part).drains = (u.part part).drains := by
  rw [State.finishStep_part u part stOk false hj]
  generalize u.part part = p
  exact ⟨rfl, rfl, rfl, rfl⟩

theorem Partition.ckpt_drains_of_course {p q : Partition} {l : List Ckpt} (h : p.course = (q.draining l).course) :
    p.ckpt = none ∧ p.drains = l :=
  ⟨(congrArg Partition.ckpt h :), (congrArg Partition.drains h :)⟩

/-- What a capture that is over and its step that ends leave. -/
theorem State.captured_endStep {v : State} {part : Nat} {j : StepJob} (hj : (v.part part).stepJob = some j)
    (hf : v.failingOn part = false) (ck : Ckpt) {t : State} (ht : t = (v.captured part ck).endStep part stOk false) :
    (t.part part).ckpt = none ∧ (t.part part).st = (if j.replan then .replan else .ready) ∧ (t.part part).job = .idle ∧
      (t.part part).drains = (v.part part).drains ++ (if ck.pending then [ck] else []) ∧
      (v.StagedWf → t.stagedOn 0 part + t.stagedOn 1 part = (t.part part).drained) ∧ v.outbox <+: t.outbox := by
  obtain ⟨hc, hfail, hout⟩ := State.captured_of hj ck
  have hst (h : v.StagedWf) := State.captured_staged part ck h
  generalize v.captured part ck = w at hc hfail hout hst ht
  obtain ⟨hcw, hdw⟩ := Partition.ckpt_drains_of_course hc
  obtain ⟨i, hi, hij⟩ := Partition.stepJob_of_course hc (j := j) (by rw [Partition.stepJob, Partition.draining,
    Partition.job_of_stepJob hj])
  rw [State.endStep, if_neg (by rw [hfail, hf]; exact Bool.false_ne_true)] at ht
  obtain ⟨s1, s2, s3, s4⟩ := State.finishStep_shows hi
  rw [← ht] at s1 s2 s3 s4
  have hsid : t.sidings = w.sidings := by rw [ht, State.finishStep_sidings]
  have hk (k : Nat) : t.stagedOn k part = w.stagedOn k part := by
    rw [State.stagedOn, State.siding, hsid, ← State.siding, ← State.stagedOn]
  have hrp : i.replan = j.replan := (congrArg StepJob.replan hij :)
  refine ⟨s3.trans hcw, by rw [s1, hrp], s2, s4.trans hdw, fun h => ?_, ?_⟩
  · rw [hk, hk, hst h, Partition.drained, Partition.drained, s4]
  · rw [ht]
    exact hout.trans (State.finishStep_outbox ..)

/-- What the end of a stop whose extents can be read leaves. -/
theorem State.endStop_of {s : State} {part : Nat} {j : StepJob} (hj : (s.part part).stepJob = some j)
    (hf : s.failingOn part = false) (ck : Ckpt) {bs : List (List Byte)} (hb : s.readExts part 0 ck.exts = .ok bs) {ck' : Ckpt}
    (hck : ck' = { s.stagedAs ck (ck.copyOf bs) with dests := (s.shipped part ck bs).1 }) {t : State}
    (ht : t = s.endStop part ck none) :
    (t.part part).ckpt = none ∧ (t.part part).st = (if j.replan then .replan else .ready) ∧ (t.part part).job = .idle ∧
      (t.part part).drains = (s.part part).drains ++ (if ck'.pending then [ck'] else []) ∧
      (s.StagedWf → t.stagedOn 0 part + t.stagedOn 1 part = (t.part part).drained) ∧
      (s.shipped part ck bs).2.outbox <+: t.outbox := by
  obtain ⟨m, he⟩ := s.endStop_ok part ck hb
  obtain ⟨ho, hx⟩ := s.shipped_writes part ck bs m
  have hout := ((s.shipped part ck bs).2.writePart_onlyFaults part ck.manifest m).outbox
  rw [he, ← hck] at ht
  generalize (s.shipped part ck bs).2.writePart part ck.manifest m = v at ht ho hx hout
  obtain ⟨i, hi, hij⟩ := Partition.stepJob_of_course (State.course_of_courses ho.courses part) hj
  have hdr : (v.part part).drains = (s.part part).drains := State.of_courses ho.courses Partition.drains (fun _ => rfl) part
  have hfv : v.failingOn part = false := (State.failingOn_of_fixed hx (State.partsOn_of_courses ho.courses) part).trans hf
  obtain ⟨s1, s2, s3, s4, s5, s6⟩ := State.captured_endStep hi hfv ck' ht
  have hrp : i.replan = j.replan := (congrArg StepJob.replan hij :)
  exact ⟨s1, by rw [s2, hrp], s3, by rw [s4, hdr], fun h => s5 (h.onlyFaults ho), hout.trans s6⟩

/-! ## Acknowledgements, timeouts and links that fail (R319, R320) -/

/-- The oldest checkpoint of a serial number changes the state of a destination that is pending. -/
theorem State.destState_of {s : State} {part serial dest st : Nat} {older newer : List Ckpt} {ck : Ckpt} {d : CkDest}
    (hl : (s.part part).drains = older ++ ck :: newer) (ho : ∀ x ∈ older, x.serial ≠ serial) (hs : ck.serial = serial)
    (hd : ck.dests[dest]? = some d) (h0 : d.state = 0) : s.destState part serial dest st =
      s.drainStep part older { ck with dests := ck.dests.set dest { d with state := st } } newer := by
  have hidx : (older ++ ck :: newer).findIdx? (fun ck => ck.serial == serial && ck.dests[dest]?.any (fun d => d.state == 0)) =
      some older.length := by
    rw [List.findIdx?_append, List.findIdx?_eq_none_iff.mpr (fun x hx => by simp [ho x hx]), List.findIdx?_cons,
      if_pos (by simp [hs, hd, h0])]
    simp
  simp only [State.destState, hl, hidx]
  rw [List.getElem?_append_right (Nat.le_refl _), Nat.sub_self, List.getElem?_cons_zero]
  dsimp only
  rw [hd]
  dsimp only
  rw [if_pos h0, List.take_left, List.drop_append, Nat.sub_eq_of_eq_add (Nat.add_comm _ _), List.drop_eq_nil_of_le (by omega)]
  rfl

/-- Whether a destination of a checkpoint is pending on a link of a port. -/
def Ckpt.busyOn (port : Nat) (ck : Ckpt) : Bool := ck.dests.any (fun d => d.waitsOn port)

/-- The destinations that wait on the port have failed. -/
def Ckpt.portFailed (port : Nat) (ck : Ckpt) : Ckpt :=
  { ck with dests := ck.dests.map (fun d => if d.waitsOn port then { d with state := 2 } else d) }

theorem Ckpt.portFailed_busyOn (port : Nat) (ck : Ckpt) : (ck.portFailed port).busyOn port = false := by
  simp only [Ckpt.busyOn, Ckpt.portFailed, List.any_map, List.any_eq_false]
  intro d _
  simp only [Function.comp_apply]
  split
  · simp [CkDest.waitsOn]
  · assumption

/-- With fuel for every checkpoint that waits on the port, none does in the end. -/
theorem State.failDrains_done (part port n : Nat) (s : State)
    (hn : (s.part part).drains.countP (Ckpt.busyOn port) ≤ n) :
    ∀ ck ∈ ((State.failDrains part port n s).part part).drains, ck.busyOn port = false := by
  induction n generalizing s with
  | zero =>
    intro ck hck
    exact Bool.eq_false_of_not_eq_true (List.countP_eq_zero.mp (Nat.le_zero.mp hn) ck hck)
  | succ n ih =>
    have hsplit := List.takeWhile_append_dropWhile (p := fun ck => !Ckpt.busyOn port ck) (l := (s.part part).drains)
    have hfail : State.failDrains part port (n + 1) s =
        match (s.part part).drains.dropWhile (fun ck => !ck.busyOn port) with
        | [] => s
        | ck :: newer => State.failDrains part port n
            (s.drainStep part ((s.part part).drains.takeWhile (fun ck => !ck.busyOn port)) (ck.portFailed port) newer) := rfl
    rw [hfail]
    generalize (s.part part).drains.takeWhile (fun ck => !ck.busyOn port) = older at hsplit ⊢
    cases hd : (s.part part).drains.dropWhile (fun ck => !ck.busyOn port) with
    | nil => exact fun ck hck => by simpa using List.dropWhile_eq_nil_iff.mp hd ck hck
    | cons ck newer =>
      have hbusy : ck.busyOn port = true := by
        have h0 := List.dropWhile_get_zero_not (fun ck => !Ckpt.busyOn port ck) (s.part part).drains (by rw [hd]; simp)
        simpa [hd] using h0
      refine ih _ ?_
      rw [← hsplit, hd, List.countP_append, List.countP_cons_of_pos hbusy] at hn
      have hleft : (if (ck.portFailed port).pending then ck.portFailed port :: newer else newer).countP (Ckpt.busyOn port) =
          newer.countP (Ckpt.busyOn port) := by
        split
        · rw [List.countP_cons_of_neg (by rw [Ckpt.portFailed_busyOn]; exact Bool.false_ne_true)]
        · rfl
      rw [State.drainStep_drains, List.countP_append, hleft]
      omega

/-! ## What Checkpoints states -/

section
variable (part : Fin 64) (ck : Ckpt) (s : State)

/-- The end of a stop waits where a channel that it reads or writes is retraining, and else ends. -/
theorem exec_stopEnd (hck : (s.part part).ckpt = some ck) (bad : Option Nat) :
    ((¬ ∀ x ∈ (ck.manifest, ck.manifestLen) :: ck.exts, s.rangeServes part x.1 x.2 = true) →
      exec (.checkpointStopEnd part bad) s = .next s) ∧
    ((∀ x ∈ (ck.manifest, ck.manifestLen) :: ck.exts, s.rangeServes part x.1 x.2 = true) →
      exec (.checkpointStopEnd part bad) s = .next (s.endStop part ck bad)) := by
  have hany : ((ck.manifest, ck.manifestLen) :: ck.exts).any (fun x => !s.rangeServes part x.1 x.2) = false ↔
      ∀ x ∈ (ck.manifest, ck.manifestLen) :: ck.exts, s.rangeServes part x.1 x.2 = true := by
    simp only [List.any_eq_false, Bool.not_eq_true', Bool.not_eq_false]
  rw [exec_checkpointStopEnd, execCheckpointStopEnd, hck, ← hany]
  exact ⟨fun h => if_pos (Bool.eq_true_of_not_eq_false h), fun h => if_neg (by rw [h]; exact Bool.false_ne_true)⟩

end

/-- A capture one of whose extents cannot be read fails, and its step ends. -/
theorem State.endStop_unread (s : State) (part : Nat) (ck : Ckpt) {e : Nat} (he : s.readExts part 0 ck.exts = .error e) :
    s.endStop part ck none = (s.failCkpt part 2 e).endStep part stOk false := by
  simp only [State.endStop, he]

/-- A pending destination of a draining checkpoint makes its timer due. -/
theorem State.exec_destinationTimeout_of {s : State} {part : Fin 64} {serial : BitVec 64} {dest : Fin 4} {older newer : List Ckpt}
    {ck : Ckpt} {d : CkDest} (hl : (s.part part).drains = older ++ ck :: newer) (hs : ck.serial = serial.toNat)
    (hd : ck.dests[dest.val]? = some d) (h0 : d.state = 0) : exec (.destinationTimeout part ⟨serial, dest⟩) s =
      .next (s.rouse.destState part serial.toNat dest 2) := by
  have hdue : (s.part part).drains.any (fun ck => ck.serial == serial.toNat && ck.dests[dest.val]?.any (fun d => d.state == 0)) =
      true := by
    rw [hl]
    simp [hs, hd, h0]
  exact congrArg Host.Outcome.next (if_pos hdue)

/-- Settles O31: what the end of a stop, an acknowledgement, a timeout and a link that fails leave of the draining checkpoints, each
from the lemma about the step that all drains take. -/
theorem checkpoints : Obligations.Checkpoints := by
  unfold Obligations.Checkpoints
  intro part serial dest ck older newer s
  refine ⟨fun j hck hj => ?_, fun d copy man hd => ?_, fun d hl ho hs hd h0 => ?_, fun port => ?_⟩
  · intro served
    have hex := exec_stopEnd part ck s hck
    refine ⟨fun hn e => (hex e).1 hn, fun h e => (hex (some e)).2 h, fun h bs hbs hf => ?_, fun h e he => ?_⟩
    · intro copy man room staged
      obtain ⟨hckpt, hst, hjob, hdr, hstaged, hout⟩ := State.endStop_of hj hf ck hbs rfl rfl
      refine ⟨s.endStop part ck none, (s.shipped part ck bs).1, (hex none).2 h, hckpt, hst, hjob, rfl, hdr,
        fun h0 h1 => hstaged ⟨h0, h1⟩, fun d hm hb f hvf hbars => ?_⟩
      obtain ⟨m1, m2⟩ := s.shipped_host part ck bs hm hb hvf hbars
      exact ⟨hout.subset m1, hout.subset m2⟩
    · rw [(hex none).2 h, State.endStop_unread _ _ _ he]
  · exact ⟨s.ship_buddy_fails part ck copy man hd, fun hl hu r hg => s.ship_buddy_sent part ck copy man hd hl hu hg⟩
  · intro marked left
    refine ⟨⟨_, rfl, State.destState_of hl ho hs hd h0, ?_⟩,
      ⟨_, State.exec_destinationTimeout_of hl hs hd h0, State.destState_of hl ho hs hd h0, ?_⟩⟩
    · rw [State.destState_of hl ho hs hd h0, State.drainStep_drains]
    · rw [State.destState_of (s := s.rouse) hl ho hs hd h0, State.drainStep_drains]
  · intro u x hx d hd
    simpa using List.any_eq_false.mp (State.failDrains_done part port _ s List.countP_le_length x hx) d hd

end Sys2Proof.Machine

/-! # Restores (O32)

Recovery leaves what a partition is doing but for faults of its step, so that the order's last change decides its state; a copy that
has been read ends the restore by what it is. -/

namespace Sys2Proof.Machine

/-! ## Invocations that are abandoned (R298) -/

theorem State.courses_of_partsRings {s t : State} (h : t.partsRings = s.partsRings) : t.courses = s.courses :=
  State.courses_of_parts (congrArg Prod.fst h)

theorem State.leaveHome_courses (s : State) (part : Nat) (x : CollWait) : (s.leaveHome part x).courses = s.courses := by
  simp only [State.leaveHome]
  split
  · exact s.faultStep_courses part true
  · split
    · rfl
    · exact State.courses_of_partsRings ((State.queueFrame_partsRings ..).trans (s.crossFrame_partsRings ..))

theorem State.sendVerdict_courses (s : State) (slot b pos : Nat) (v : Verdict) :
    (s.sendVerdict slot b pos v).courses = s.courses := by
  simp only [State.sendVerdict]
  split
  · rfl
  · split
    · exact State.courses_of_partsRings (s.onInv_partsRings ..)
    · exact s.leaveHome_courses _ _

theorem State.sendVerdicts_courses (s : State) (slot b : Nat) : (s.sendVerdicts slot b).courses = s.courses := by
  simp only [State.sendVerdicts]
  split
  · rfl
  · exact (foldl_keeps State.courses _ (fun t p => t.sendVerdict_courses slot b _ _) _ _).trans
      (State.courses_of_partsRings (s.onInv_partsRings ..))

theorem State.abandon_courses (s : State) (slot b : Nat) : (s.abandon slot b).courses = s.courses := by
  simp only [State.abandon]
  split
  · rfl
  · split
    · rfl
    · exact (State.sendVerdicts_courses _ slot b).trans (State.courses_of_partsRings (State.onInv_partsRings ..))

/-- A verdict that cannot cross the fabric faults a step; else the partitions stay. -/
theorem State.recoverGroups_courses (s : State) (part : Nat) : (s.recoverGroups part).courses = s.courses := by
  refine foldl_keeps State.courses _ (fun t g => ?_) _ s
  refine Eq.trans ?_ (foldl_keeps State.courses _ (fun u x => u.abandon_courses g.1 x.1) g.2.liveIn t)
  dsimp only
  split <;> rfl

/-- Recovery drops a partition's tokens. -/
theorem State.recovered_toks (s : State) (part : Nat) :
    (((s.recoverUnits part).recoverGroups part).part part).spanTok = [] ∧
      (((s.recoverUnits part).recoverGroups part).part part).devTok = [] := by
  have hc := State.recoverGroups_courses (s.recoverUnits part) part
  rw [State.of_courses hc Partition.spanTok (fun _ => rfl), State.of_courses hc Partition.devTok (fun _ => rfl),
    State.recoverUnits, State.part_setPart]
  exact ⟨rfl, rfl⟩

/-! ## A restore starts (R321) -/

section
variable {s : State} {f k part : Fin 64} {src : RestoreSrc} {roff rstate : Word} (ho : TenantOrder s f k part)
include ho

theorem exec_restore_of (hst : (s.part part).st = .ready ∨ (s.part part).st = .replan) :
    exec (.restore f k src roff rstate) s =
      .next ((((s.takeOrder f k).recoverUnits part).recoverGroups part).setPart part
        { (((s.takeOrder f k).recoverUnits part).recoverGroups part).part part with
          st := .loading, came := (s.part part).st, job := .restore ⟨f, k, src, roff.toNat, rstate.toNat⟩ }) := by
  refine congrArg Host.Outcome.next ?_
  rw [State.vfOrder_of s f k part false _ ho]
  dsimp only
  rw [State.takeOrder_part, if_pos hst]

theorem exec_restore_refused (hr : (s.part part).st ≠ .ready) (hp : (s.part part).st ≠ .replan) :
    exec (.restore f k src roff rstate) s = .next ((s.takeOrder f k).completeBad f k part stConflict) := by
  refine congrArg Host.Outcome.next ?_
  rw [State.vfOrder_of s f k part false _ ho]
  dsimp only
  rw [State.takeOrder_part, if_neg (not_or.mpr ⟨hr, hp⟩)]

end

/-! ## A restore ends (R321, R322, R325) -/

section
variable {s : State} {part : Fin 64} {j : RestoreJob} (hj : (s.part part).job = .restore j) (exts : List (Nat × Nat))
  (data : Tlp (List Byte)) (hw : Bool)
include hj

/-- Bytes that came outside the stream are discarded and counted. -/
theorem exec_restoreComplete_outside {f : Nat} (ho : s.restoreOutside part j data = some f) :
    exec (.restoreComplete part exts data hw) s =
      .next ((s.setFn f { s.fn f with ideDrops := (s.fn f).ideDrops + 1 }).note part nodeSb 365 1) := by
  rw [exec_restoreComplete, execRestoreComplete]
  simp only [hj, ho]

variable (ho : s.restoreOutside part j data = none)
include ho

/-- While a channel that the copy goes to is retraining the restore waits. -/
theorem exec_restoreComplete_waits (hs : ¬ ∀ x ∈ exts, s.rangeServes part ((x.1 + j.roff) % 2 ^ 64) x.2 = true) :
    exec (.restoreComplete part exts data hw) s = .next s := by
  have hany : exts.any (fun x => !s.rangeServes part ((x.1 + j.roff) % 2 ^ 64) x.2) = true := by simpa using hs
  rw [exec_restoreComplete, execRestoreComplete]
  simp only [hj, ho, hany, if_true]

variable (hs : ∀ x ∈ exts, s.rangeServes part ((x.1 + j.roff) % 2 ^ 64) x.2 = true)
include hs

theorem exec_restoreComplete_read {c : CopyParts} (hc : s.fabricOn.copyRead part j exts data.body = some c) :
    exec (.restoreComplete part exts data hw) s = .next (s.fabricOn.restoreFrom part j (s.part part).came exts c hw) := by
  have hany : exts.any (fun x => !s.rangeServes part ((x.1 + j.roff) % 2 ^ 64) x.2) = false := by simpa using hs
  rw [exec_restoreComplete, execRestoreComplete]
  simp only [hj, ho, hany, hc, Bool.false_eq_true, if_false]

theorem exec_restoreComplete_unread (hc : s.fabricOn.copyRead part j exts data.body = none) :
    exec (.restoreComplete part exts data hw) s = .next (s.fabricOn.endRestore part j (s.part part).came stRestore) := by
  have hany : exts.any (fun x => !s.rangeServes part ((x.1 + j.roff) % 2 ^ 64) x.2) = false := by simpa using hs
  rw [exec_restoreComplete, execRestoreComplete]
  simp only [hj, ho, hany, hc, Bool.false_eq_true, if_false]

end

/-- A copy whose manifest does not check ends the restore. -/
theorem State.restoreFrom_badManifest (s : State) (part : Nat) (j : RestoreJob) (came : PState) (exts : List (Nat × Nat))
    {c : CopyParts} (hw : Bool) (h : slice c.manifest 0 4 ≠ ascii "CKMF" ∨ leAt c.manifest 4 1 ≠ mfComplete ∨
      c.manifest.length ≠ 128 + 8 * exts.length) : s.restoreFrom part j came exts c hw = s.endRestore part j came stRestore := by
  have hgood : (slice c.manifest 0 4 == ascii "CKMF" && leAt c.manifest 4 1 == mfComplete &&
      decide (c.manifest.length = 128 + 8 * exts.length)) = false := by
    rw [Bool.eq_false_iff, Ne, Bool.and_eq_true, Bool.and_eq_true, beq_iff_eq, beq_iff_eq, decide_eq_true_iff]
    tauto
  simp only [State.restoreFrom, hgood, Bool.not_false, Bool.true_or, if_true]

/-- The bytes of a host whose image key demands the stream come outside it. -/
theorem State.restoreOutside_of {s : State} {part : Nat} {j : RestoreJob} {b : Word} {data : Tlp (List Byte)} {vf : Nat}
    (hb : j.src = .host b) (hd : data.inStream = false) (hv : (s.part part).vf = some vf) (hn : s.ideNeeds vf part = true) :
    s.restoreOutside part j data = some vf := by
  simp [State.restoreOutside, hb, hd, hv, hn]

/-- Settles O32: the order's state decides whether it starts; what has been read of the copy decides how it ends. -/
theorem restores : Obligations.Restores := by
  unfold Obligations.Restores
  intro f k src roff rstate part exts data hw s
  refine ⟨fun ho => ⟨fun hst => ?_, fun hr hp => exec_restore_refused ho hr hp⟩, fun j hj => ?_⟩
  · obtain ⟨hspan, hdev⟩ := State.recovered_toks (s.takeOrder f k) part
    refine ⟨_, exec_restore_of ho hst, ?_⟩
    rw [State.part_setPart]
    exact ⟨rfl, rfl, rfl, hspan, hdev⟩
  · intro came s1 served fails
    refine ⟨fun b vf hb hd hv hn => ⟨_, exec_restoreComplete_outside hj exts data hw (State.restoreOutside_of hb hd hv hn), rfl, rfl,
        congrArg Fn.ideDrops (s.fn_setFn vf _)⟩, fun ho hs => exec_restoreComplete_waits hj exts data hw ho hs,
      fun ho hs => ⟨fun hc => exec_restoreComplete_unread hj exts data hw ho hs hc, fun c hc => ⟨fun hbad => ?_,
        exec_restoreComplete_read hj exts data hw ho hs hc⟩⟩⟩
    exact (exec_restoreComplete_read hj exts data hw ho hs hc).trans
      (congrArg Host.Outcome.next (State.restoreFrom_badManifest _ _ _ _ exts hw hbad))

end Sys2Proof.Machine

/-! # Reads of the decks (O34)

What becomes of a request decides its command; a granule that is read counts one error where it meets any. -/

namespace Sys2Proof.Machine

/-! ## The error counters of a deck (R250, R256, R257) -/

/-- A deck's counts of corrected and of uncorrectable errors. -/
def Deck.counts (d : Deck) : Nat × Nat := (d.cecnt, d.uecnt)

def State.counts (s : State) (k : Nat) : Nat × Nat := (s.deck k).counts

theorem State.counts_of_spans {s t : State} (h : t.spans = s.spans) : t.counts = s.counts :=
  funext fun k => congrArg (fun l => (Tab.get Span.reset l k).deck.counts) h

theorem State.counts_of_fixed {s t : State} (h : t.fixed = s.fixed) : t.counts = s.counts :=
  funext fun k => (congrArg Deck.counts (congrFun h k) :)

theorem State.setDeck_counts (s : State) (k : Nat) (d : Deck) (h : d.counts = (s.deck k).counts) :
    (s.setDeck k d).counts = s.counts := by
  funext j
  by_cases hj : j = k
  · subst hj
    exact (congrArg Deck.counts (s.deck_setDeck j d)).trans h
  · exact congrArg Deck.counts (s.deck_setDeck_ne k j d hj)

section
variable (s : State) (k : Nat)

theorem State.busyCycles_counts (n : Nat) : (s.busyCycles k n).counts = s.counts := s.setDeck_counts k _ rfl

theorem State.notify_counts (part kind arg : Nat) : (s.notify part kind arg).counts = s.counts :=
  State.counts_of_spans (State.spans_of_inner (s.notify_inner part kind arg))

theorem State.withdraw_counts (r page cause : Nat) : (s.withdraw k r page cause).counts = s.counts := by
  simp only [State.withdraw]
  split
  · exact (State.notify_counts ..).trans (s.setDeck_counts k _ rfl)
  · exact s.setDeck_counts k _ rfl

theorem State.retirePage_counts (a cause : Nat) : (s.retirePage k a cause).counts = s.counts := by
  simp only [State.retirePage]
  split
  · exact s.withdraw_counts ..
  · split
    · split
      · exact (State.notify_counts ..).trans (s.setDeck_counts k _ rfl)
      · exact s.setDeck_counts k _ rfl
    · exact s.setDeck_counts k _ rfl

/-- The remap of a row counts no error. -/
theorem State.fixRow_counts (a : Nat) : (s.fixRow k a).counts = s.counts := by
  have hd : ((s.deck k).fixRow a).2.counts = (s.deck k).counts := by
    simp only [Deck.fixRow]
    split <;> rfl
  have hs : (s.setDeck k ((s.deck k).fixRow a).2).counts = s.counts := s.setDeck_counts k _ hd
  simp only [State.fixRow]
  split
  · exact (State.busyCycles_counts ..).trans hs
  · exact (State.retirePage_counts ..).trans ((State.busyCycles_counts ..).trans hs)
  · exact (State.retirePage_counts ..).trans hs

theorem State.correctedRead_cecnt (a : Nat) : ((s.correctedRead k a).deck k).cecnt = satInc 32 (s.deck k).cecnt := by
  have hd (d : Deck) : ((d.put a).cecnt) = d.cecnt := (congrArg Deck.cecnt (d.put_fixed a) :)
  simp only [State.correctedRead]
  split
  · refine (congrArg Prod.fst (congrFun (State.fixRow_counts ..) k)).trans ?_
    rw [State.counts, State.deck_setDeck]
    exact hd _
  · rw [State.deck_setDeck, hd]

theorem State.failedRead_uecnt (a : Nat) : ((s.failedRead k a).deck k).uecnt = satInc 32 (s.deck k).uecnt := by
  simp only [State.failedRead]
  refine (congrArg Prod.snd (congrFun (State.fixRow_counts ..) k)).trans ?_
  exact congrArg Deck.uecnt (s.deck_setDeck k _)

/-- A granule that cannot be corrected is poisoned from then on. -/
theorem State.failedRead_poisoned (dev : Nat) :
    (s.failedRead (dev / 2 ^ 32) (dev % 2 ^ 32)).poisoned dev = true := by
  simp only [State.failedRead]
  rw [State.poisoned_of_cells (State.fixRow_cells ..), State.poisoned]
  refine (congrArg (fun d : Deck => d.poison.contains (granuleOf dev)) (s.deck_setDeck (dev / 2 ^ 32) _)).trans ?_
  exact List.contains_iff_mem.mpr ((mem_setIns ..).mpr (.inl rfl))

end

/-! ## A granule that is read (R250, R251, R257) -/

theorem State.fetched_fixed (s : State) (dev : Nat) : (s.fetched dev).fixed = s.fixed := by
  have hl := s.setDeck_fixed (dev / 2 ^ 32) ((s.deck (dev / 2 ^ 32)).look (dev % 2 ^ 32)) (Deck.look_fixed ..)
  simp only [State.fetched]
  split
  · exact hl
  · exact (State.busyCycles_fixed ..).trans hl

/-- A look at a granule leaves the write buffers. -/
theorem Deck.look_holds (d : Deck) (a b : Nat) : (d.look a).holds b = d.holds b := by
  have hset (d : Deck) (ch : Nat) (c : Chan) (hc : c.wbuf = (d.chan ch).wbuf) : (d.setChan ch c).holds b = d.holds b := by
    have hget : ((d.setChan ch c).chan (d.channel b)).wbuf = (d.chan (d.channel b)).wbuf := by
      by_cases h : d.channel b = ch
      · rw [h, Deck.chan, Deck.setChan, Tab.get_ins_same, hc]
      · rw [Deck.chan, Deck.setChan, Tab.get_ins_ne _ _ _ _ _ h, Deck.chan]
    exact congrArg (fun l : List (Nat × Nat) => l.any (fun p => p.1 == b / 64)) hget
  have htouch (d : Deck) (ch cycle : Nat) : (d.touch ch cycle).holds b = d.holds b := 
    hset d ch { d.chan ch with last := max (d.chan ch).last cycle } rfl
  simp only [Deck.look, Deck.access]
  split
  · exact htouch ..
  · split
    · exact htouch ..
    · refine (hset _ _ _ ?_).trans (htouch ..)
      rfl

theorem State.fetched_holds (s : State) (dev : Nat) :
    ((s.fetched dev).deck (dev / 2 ^ 32)).holds (dev % 2 ^ 32) = (s.deck (dev / 2 ^ 32)).holds (dev % 2 ^ 32) := by
  simp only [State.fetched]
  split
  · rw [State.deck_setDeck, Deck.look_holds]
  · rw [State.busyCycles, State.deck_setDeck, State.deck_setDeck]
    exact Deck.look_holds _ _ _

section
variable {s : State} {dev : Nat} (hh : (s.deck (dev / 2 ^ 32)).holds (dev % 2 ^ 32) = false) (hp : s.poisoned dev = false)
include hh

theorem State.fetched_of_unheld : s.fetched dev =
    (s.setDeck (dev / 2 ^ 32) ((s.deck (dev / 2 ^ 32)).look (dev % 2 ^ 32))).busyCycles (dev / 2 ^ 32) 1 := by
  simp only [State.fetched, hh, Bool.false_eq_true, if_false]

include hp

/-- A granule that is neither poisoned nor in the write buffer is judged by its erroneous bytes. -/
theorem State.readGranule_judged (n : Nat) : s.readGranule dev n = match rsVerdict n with
    | .clean => (some (s.deckBytes dev 64), s.fetched dev)
    | .corrected => (some (s.deckBytes dev 64), (s.fetched dev).correctedRead (dev / 2 ^ 32) (dev % 2 ^ 32))
    | .uncorrectable => (none, (s.fetched dev).failedRead (dev / 2 ^ 32) (dev % 2 ^ 32))
    | .beyond => (s.fetched dev).judgeGranule dev n := by
  have hq : (s.fetched dev).poisoned dev = false := (State.poisoned_of_cells (s.fetched_cells dev) dev).trans hp
  have hk := (s.fetched_holds dev).trans hh
  rw [State.readGranule_eq, ← State.deckBytes_of_mem (State.mem_of_cells (s.fetched_cells dev))]
  generalize s.fetched dev = t at hq hk ⊢
  cases hv : rsVerdict n <;> simp only [State.judgeGranule, hq, hk, hv, Bool.false_eq_true, if_false]

theorem State.readGranule_clean : s.readGranule dev 0 = (some (s.deckBytes dev 64), s.fetched dev) := by
  rw [State.readGranule_judged hh hp]
  rfl

theorem State.readGranule_corrected {n : Nat} (hn : n = 1 ∨ n = 2) : (s.readGranule dev n).1 = some (s.deckBytes dev 64) ∧
    ((s.readGranule dev n).2.deck (dev / 2 ^ 32)).cecnt = min ((s.deck (dev / 2 ^ 32)).cecnt + 1) (2 ^ 32 - 1) := by
  have hv : rsVerdict n = .corrected := by rcases hn with rfl | rfl <;> rfl
  rw [State.readGranule_judged hh hp, hv]
  refine ⟨rfl, (State.correctedRead_cecnt ..).trans ?_⟩
  have hc : ((s.fetched dev).deck (dev / 2 ^ 32)).cecnt = (s.deck (dev / 2 ^ 32)).cecnt :=
    congrArg Prod.fst (congrFun (State.counts_of_fixed (s.fetched_fixed dev)) (dev / 2 ^ 32))
  rw [hc, satInc]

theorem State.readGranule_failed {n : Nat} (hn : n = 3 ∨ n = 4) : (s.readGranule dev n).1 = none ∧
    (s.readGranule dev n).2.poisoned dev = true ∧
    ((s.readGranule dev n).2.deck (dev / 2 ^ 32)).uecnt = min ((s.deck (dev / 2 ^ 32)).uecnt + 1) (2 ^ 32 - 1) := by
  have hv : rsVerdict n = .uncorrectable := by rcases hn with rfl | rfl <;> rfl
  rw [State.readGranule_judged hh hp, hv]
  refine ⟨rfl, State.failedRead_poisoned .., (State.failedRead_uecnt ..).trans ?_⟩
  have hc : ((s.fetched dev).deck (dev / 2 ^ 32)).uecnt = (s.deck (dev / 2 ^ 32)).uecnt :=
    congrArg Prod.snd (congrFun (State.counts_of_fixed (s.fetched_fixed dev)) (dev / 2 ^ 32))
  rw [hc, satInc]

end

/-! ## A request's turn (R251) -/

/-- A read that is served has its turn. -/
theorem State.turnOf_of_served {s : State} {acc : DeckAcc} {out : Bool} (h : s.entryOf acc out = .served) :
    s.turnOf acc out = true := by
  rw [State.entryOf] at h
  split at h
  · cases h
  · next hn =>
    rw [Bool.or_eq_true, not_or, Bool.not_eq_true', Bool.not_eq_false] at hn
    exact hn.2

theorem State.turnOf_read {s : State} {acc : DeckAcc} (h : s.turnOf acc false = true) :
    (∀ y ∈ s.older acc, y.2.2 / 64 ≠ acc.addr.toNat / 64) ∧ ((s.older acc).filter (fun y => !y.2.1)).length < 40 ∧
      (s.deck acc.span.val).ready acc.addr.toNat acc.cycle = true ∧
      ∀ y ∈ s.older acc, y.2.1 = false → (s.deck acc.span.val).ready y.2.2 acc.cycle = false := by
  simp only [State.turnOf, Bool.false_or, Bool.and_eq_true, Bool.not_eq_true', List.any_eq_false, decide_eq_true_eq, beq_iff_eq,
    List.mem_filter, and_imp, Bool.not_eq_true] at h
  obtain ⟨hg, ⟨hl, hr⟩, ho⟩ := h
  exact ⟨hg, hl, hr, fun y hy hf => ho y hy hf⟩

/-! ## What the command does -/

section
variable (acc : DeckAcc) (wrong : List Nat) (s : State)

theorem exec_deckRead_of {e : Entry} (he : (s.hears acc).entryOf acc false = e) (hn : e ≠ .served) :
    exec (.deckRead acc wrong) s = .next ((s.hears acc).unserved acc e) := by
  rw [exec_deckRead, execDeckRead, he]
  cases e with
  | served => exact absurd rfl hn
  | _ => rfl

theorem exec_deckRead_served (he : (s.hears acc).entryOf acc false = .served) :
    exec (.deckRead acc wrong) s = .next ((s.hears acc).serveRead acc wrong) := by
  rw [exec_deckRead, execDeckRead, he]

end

/-- A channel that is looked at, a request that leaves it and an access of it change no job. -/
theorem State.queued_jobOf (s : State) (acc : DeckAcc) (span ch a cycle : Nat) (who c : Client) :
    (((s.hears acc).takeTurn span ch who).deckTouch span a cycle).jobOf c = s.jobOf c := rfl

/-- What follows a run of granules: one was not delivered, or all were. -/
def readOutcome (x : Except Nat (List Byte) × State) (bad : State → Nat → State) (good : State → List Byte → State) : State :=
  match x with
  | (.error g, s) => bad s g
  | (.ok bs, s) => good s bs

section
variable {x : Except Nat (List Byte) × State} {bad : State → Nat → State} {good : State → List Byte → State}

theorem readOutcome_error {g : Nat} (h : x.1 = .error g) : readOutcome x bad good = bad x.2 g := by
  obtain ⟨e, s⟩ := x
  cases h
  rfl

theorem readOutcome_ok {bs : List Byte} (h : x.1 = .ok bs) : readOutcome x bad good = good x.2 bs := by
  obtain ⟨e, s⟩ := x
  cases h
  rfl

end

/-- A read that may have a job, by whether it has one. -/
theorem readOutcome_of_job (o : Option Job) (y : Except Nat (List Byte) × State) (x : Job → Except Nat (List Byte) × State)
    (bad : State → Nat → State) (good : Job → State → List Byte → State) :
    (match o with
      | some j =>
        match x j with
        | (.error g, s) => bad s g
        | (.ok bs, s) => good j s bs
      | none =>
        match y with
        | (.error g, s) => bad s g
        | (.ok _, s) => s) =
      o.elim (readOutcome y bad (fun s _ => s)) (fun j => readOutcome (x j) bad (good j)) := by
  cases o <;> rfl

section
variable {t q u : State} {acc : DeckAcc} {wrong : List Nat}
  (hq : (t.takeTurn acc.span.val ((t.deck acc.span.val).channel acc.addr.toNat) acc.who).deckTouch acc.span.val acc.addr.toNat
    acc.cycle = q)
include hq

theorem State.serveRead_eq : t.serveRead acc wrong = (q.jobOf acc.who).elim
    (readOutcome (q.readGranules (granules (devOf acc) (64 * wrong.length - devOf acc % 64)) wrong) (fun s g => s.memerr acc g)
      (fun s _ => s))
    (fun j => readOutcome (q.readGranules (granules (devOf acc) (readLen acc wrong.length j)) wrong) (fun s g => s.memerr acc g)
      (fun s bs => s.setJob acc.who (j.took ((bs.drop (devOf acc % 64)).take (readLen acc wrong.length j))))) := by
  obtain ⟨read, hread⟩ : ∃ read, read = State.readGranules := ⟨_, rfl⟩
  unfold State.serveRead
  rw [hq, ← hread]
  exact readOutcome_of_job (q.jobOf acc.who) (read q (granules (devOf acc) (64 * wrong.length - devOf acc % 64)) wrong)
    (fun j => read q (granules (devOf acc) (readLen acc wrong.length j)) wrong) (fun s g => s.memerr acc g)
    (fun j s bs => s.setJob acc.who (j.took ((bs.drop (devOf acc % 64)).take (readLen acc wrong.length j))))

variable {x : Except Nat (List Byte) × State}

/-- A job takes the bytes of its granules. -/
theorem State.serveRead_job {j : Job} (hj : q.jobOf acc.who = some j)
    (hx : q.readGranules (granules (devOf acc) (readLen acc wrong.length j)) wrong = x) :
    (∀ bs, x.1 = .ok bs →
      t.serveRead acc wrong = x.2.setJob acc.who (j.took ((bs.drop (devOf acc % 64)).take (readLen acc wrong.length j)))) ∧
    (∀ g, x.1 = .error g → t.serveRead acc wrong = x.2.memerr acc g) := by
  rw [State.serveRead_eq hq, hj, Option.elim_some, hx]
  exact ⟨fun _ => readOutcome_ok, fun _ => readOutcome_error⟩

/-- A client that keeps no job has its bytes delivered. -/
theorem State.serveRead_jobless (hj : q.jobOf acc.who = none)
    (hx : q.readGranules (granules (devOf acc) (64 * wrong.length - devOf acc % 64)) wrong = x) :
    (∀ bs, x.1 = .ok bs → t.serveRead acc wrong = x.2) ∧
    (∀ g, x.1 = .error g → t.serveRead acc wrong = x.2.memerr acc g) := by
  rw [State.serveRead_eq hq, hj, Option.elim_none, hx]
  exact ⟨fun _ => readOutcome_ok, fun _ => readOutcome_error⟩

end

/-- Settles O34: a served read by what its granules give, every other request by what becomes of it, and a granule by its erroneous
bytes. -/
theorem deckReads : Obligations.DeckReads := by
  unfold Obligations.DeckReads
  intro acc wrong s
  dsimp only
  refine ⟨fun he => State.turnOf_read (State.turnOf_of_served he), fun he j hj => ?_, fun he hj => ?_,
    fun he => exec_deckRead_of acc wrong s he (by simp), fun he => exec_deckRead_of acc wrong s he (by simp),
    fun he => exec_deckRead_of acc wrong s he (by simp), fun dev hh => ?_⟩
  · have hq := (s.queued_jobOf acc acc.span (((s.hears acc).deck acc.span).channel acc.addr.toNat) acc.addr.toNat acc.cycle acc.who
      acc.who).trans hj
    obtain ⟨hok, herr⟩ := State.serveRead_job (t := s.hears acc) (wrong := wrong) rfl hq rfl
    exact ⟨fun bs hx => (exec_deckRead_served acc wrong s he).trans (congrArg Host.Outcome.next (hok bs hx)),
      fun g hx => (exec_deckRead_served acc wrong s he).trans (congrArg Host.Outcome.next (herr g hx))⟩
  · have hq := (s.queued_jobOf acc acc.span (((s.hears acc).deck acc.span).channel acc.addr.toNat) acc.addr.toNat acc.cycle acc.who
      acc.who).trans hj
    obtain ⟨hok, herr⟩ := State.serveRead_jobless (t := s.hears acc) (wrong := wrong) rfl hq rfl
    exact ⟨fun bs hx => (exec_deckRead_served acc wrong s he).trans (congrArg Host.Outcome.next (hok bs hx)),
      fun g hx => (exec_deckRead_served acc wrong s he).trans (congrArg Host.Outcome.next (herr g hx))⟩
  · rw [← State.fetched_of_unheld hh]
    exact ⟨fun hp n => s.readGranule_poisoned dev n hp, fun hp => ⟨State.readGranule_clean hh hp,
      fun n hn => State.readGranule_corrected hh hp hn, fun n hn => State.readGranule_failed hh hp hn⟩⟩

end Sys2Proof.Machine

/-! # The deck window (O56)

A run within one 4 KiB piece is one request. What a request of the window reads and writes of the decks is that of their granules;
the fabric that it wakes changes neither what partitions map nor what functions hold. -/

namespace Sys2Proof.Machine

/-! ## The fabric comes on (R395) -/

/-- A deck that is granted leaves self-refresh. -/
def State.wakeDeck (s : State) (k : Nat) : State :=
  if (s.deck k).pow = .selfRefresh ∧ s.granted k then s.setDeck k { s.deck k with pow := .on } else s

/-- An edge that a die has comes up with all its lanes. -/
def State.raiseEdge (s : State) (die side : Nat) : State :=
  if (farDie die side).isSome && (s.edge die side).st == .absent then
    s.setEdge die side { s.edge die side with st := .active, lanes := (edgeLanes die side).1, spares := (edgeLanes die side).2 }
  else s

/-- The uncore has power. -/
def State.withUnc (s : State) : State := { s with power := { s.power with unc := true } }

theorem State.fabricOn_eq (s : State) : s.fabricOn = if s.power.unc then s else
    (List.range 23).foldl (fun s die => (List.range 7).foldl (fun s side => s.raiseEdge die side) s)
      ((List.range 16).foldl State.wakeDeck s.withUnc) := rfl

/-- What neither a deck that wakes nor an edge that comes up changes, the fabric leaves. -/
theorem State.fabricOn_keeps {β : Type} (g : State → β) (hu : ∀ s : State, g s.withUnc = g s)
    (hd : ∀ s k, g (State.wakeDeck s k) = g s) (he : ∀ s die side, g (State.raiseEdge s die side) = g s) (s : State) :
    g s.fabricOn = g s := by
  rw [State.fabricOn_eq]
  split
  · rfl
  · exact (foldl_keeps g _ (fun t die => foldl_keeps g _ (fun u side => he u die side) _ t) _ _).trans
      ((foldl_keeps g _ (fun t k => hd t k) _ _).trans (hu s))

/-- A state with other functions and outputs. -/
def State.withFns (s : State) (fns : Tab Fn) (out : List Output) : State := { s with fns := fns, outbox := out }

section
variable (s : State) (fns : Tab Fn) (out : List Output)

theorem State.wakeDeck_withFns (k : Nat) : (s.withFns fns out).wakeDeck k = (s.wakeDeck k).withFns fns out := by
  rw [State.wakeDeck, State.wakeDeck, apply_ite (State.withFns · fns out)]
  rfl

theorem State.raiseEdge_withFns (die side : Nat) :
    (s.withFns fns out).raiseEdge die side = (s.raiseEdge die side).withFns fns out := by
  rw [State.raiseEdge, State.raiseEdge, apply_ite (State.withFns · fns out)]
  rfl

/-- The fabric comes on alike, whatever the functions and the outputs are. -/
theorem State.fabricOn_withFns : (s.withFns fns out).fabricOn = s.fabricOn.withFns fns out := by
  rw [State.fabricOn_eq, State.fabricOn_eq, apply_ite (State.withFns · fns out)]
  refine if_congr Iff.rfl rfl ?_
  rw [show (s.withFns fns out).withUnc = s.withUnc.withFns fns out from rfl,
    List.foldl_hom (State.withFns · fns out) (fun t k => t.wakeDeck_withFns fns out k)]
  refine List.foldl_hom (State.withFns · fns out) (fun t die => ?_)
  exact List.foldl_hom (State.withFns · fns out) (fun u side => u.raiseEdge_withFns fns out die side)

theorem State.fabricOn_fns : s.fabricOn.fns = s.fns :=
  State.fabricOn_keeps State.fns (fun _ => rfl) (fun t k => by rw [State.wakeDeck]; split <;> rfl)
    (fun t die side => by rw [State.raiseEdge]; split <;> rfl) s

theorem State.fabricOn_parts : s.fabricOn.parts = s.parts :=
  State.fabricOn_keeps State.parts (fun _ => rfl) (fun t k => by rw [State.wakeDeck]; split <;> rfl)
    (fun t die side => by rw [State.raiseEdge]; split <;> rfl) s

theorem State.fabricOn_cells : s.fabricOn.cells = s.cells := by
  refine State.fabricOn_keeps State.cells (fun _ => rfl) (fun t k => ?_) (fun t die side => ?_) s
  · rw [State.wakeDeck]
    split
    · exact t.setDeck_cells k _ rfl
    · rfl
  · rw [State.raiseEdge]
    split <;> rfl

/-- The regions that are withdrawn from a deck. -/
def State.withdrawns (k : Nat) : List Nat := (s.deck k).withdrawn

theorem State.fabricOn_withdrawns : s.fabricOn.withdrawns = s.withdrawns := by
  refine State.fabricOn_keeps State.withdrawns (fun _ => rfl) (fun t k => ?_) (fun t die side => ?_) s
  · rw [State.wakeDeck]
    split
    · funext j
      by_cases hj : j = k
      · subst hj
        exact (congrArg Deck.withdrawn (t.deck_setDeck j _)).trans rfl
      · exact congrArg Deck.withdrawn (t.deck_setDeck_ne k j _ hj)
    · rfl
  · rw [State.raiseEdge]
    split <;> rfl

theorem State.fabricOn_translate (part pa : Nat) : s.fabricOn.translate part pa = s.translate part pa := by
  have hp := State.part_congr s.fabricOn_parts part
  have hw (dev : Nat) : s.fabricOn.withdrawnAt dev = s.withdrawnAt dev :=
    congrArg (fun l : List Nat => l.contains (bits dev 24 8)) (congrFun s.fabricOn_withdrawns (dev / 2 ^ 32))
  simp only [State.translate, State.tableAddr, hp, hw]

end

/-! ## The link's errors (R420) -/

/-- What the errors of a function's link and requests, its notices and its interrupts leave of its error status. -/
def State.aers (s : State) (f : Nat) : Nat := (s.fn f).aer

theorem State.aers_of_fns {s t : State} (h : t.fns = s.fns) : t.aers = s.aers :=
  funext fun f => congrArg (fun l => (Tab.get Fn.reset l f).aer) h

theorem State.setFn_aers (s : State) (f : Nat) (x : Fn) (h : x.aer = (s.fn f).aer) : (s.setFn f x).aers = s.aers := by
  funext j
  by_cases hj : j = f
  · subst hj
    exact (congrArg Fn.aer (s.fn_setFn j x)).trans h
  · exact congrArg Fn.aer (s.fn_setFn_ne f j x hj)

section
variable (s : State) (f b : Nat)

/-- An error that is reported leaves everything but a function and the outputs, -/
theorem State.aerError_withFns : ∃ fns out, s.aerError f b = s.withFns fns out := ⟨_, _, rfl⟩

/-- and of the function everything but its error status. -/
theorem State.aerError_fn (g : Nat) : ∃ n, (s.aerError f b).fn g = { s.fn g with aer := n } := by
  by_cases h : g = f
  · subst h
    exact ⟨_, s.fn_setFn g _⟩
  · exact ⟨(s.fn g).aer, s.fn_setFn_ne f g _ h⟩

theorem State.aerError_aer : (s.aerError f b).aers f = (s.fn f).aer ||| 2 ^ b := congrArg Fn.aer (s.fn_setFn f _)

/-- The link's error changes at most functions and outputs, of which what requests are admitted by stays. -/
theorem State.linkError_withFns (fault : TlpFault) : ∃ fns out, s.linkError f fault = s.withFns fns out := by
  rw [State.linkError]
  split
  · exact s.aerError_withFns f _
  · exact ⟨_, _, rfl⟩

theorem State.linkError_fn (fault : TlpFault) (g : Nat) : ∃ n, (s.linkError f fault).fn g = { s.fn g with aer := n } := by
  rw [State.linkError]
  split
  · exact s.aerError_fn f _ g
  · exact ⟨_, rfl⟩

theorem State.linkError_aer : (s.linkError f .link).aers f = (s.fn f).aer ||| 2 ^ 38 := s.aerError_aer f 38

theorem State.linkError_parts (fault : TlpFault) : (s.linkError f fault).parts = s.parts := by
  rw [State.linkError]
  split <;> rfl

theorem State.linkError_mem (fault : TlpFault) : (s.linkError f fault).mem = s.mem := by
  rw [State.linkError]
  split <;> rfl

end

/-! ## What reads leave of the error status -/

section
variable (s : State) (k : Nat)

theorem State.msix_aers (f v : Nat) : (s.msix f v).aers = s.aers := by
  simp only [State.msix]
  split
  · rfl
  · split
    · exact s.setFn_aers f _ rfl
    · rfl

theorem State.notify_aers (part kind arg : Nat) : (s.notify part kind arg).aers = s.aers := by
  simp only [State.notify]
  split
  · rfl
  · exact (State.msix_aers ..).trans (s.setFn_aers _ _ rfl)

theorem State.withdraw_aers (r page cause : Nat) : (s.withdraw k r page cause).aers = s.aers := by
  simp only [State.withdraw]
  split
  · exact (State.notify_aers ..).trans (State.aers_of_fns rfl)
  · rfl

theorem State.retirePage_aers (a cause : Nat) : (s.retirePage k a cause).aers = s.aers := by
  simp only [State.retirePage]
  split
  · exact s.withdraw_aers ..
  · split
    · split
      · exact (State.notify_aers ..).trans (State.aers_of_fns rfl)
      · rfl
    · rfl

theorem State.fixRow_aers (a : Nat) : (s.fixRow k a).aers = s.aers := by
  simp only [State.fixRow]
  split
  · rfl
  · exact (State.retirePage_aers ..).trans (State.aers_of_fns rfl)
  · exact (State.retirePage_aers ..).trans (State.aers_of_fns rfl)

theorem State.correctedRead_aers (a : Nat) : (s.correctedRead k a).aers = s.aers := by
  simp only [State.correctedRead]
  split
  · exact (State.fixRow_aers ..).trans (State.aers_of_fns rfl)
  · rfl

theorem State.failedRead_aers (a : Nat) : (s.failedRead k a).aers = s.aers :=
  (State.fixRow_aers ..).trans (State.aers_of_fns rfl)

theorem State.judgeGranule_aers (dev wrong : Nat) : (s.judgeGranule dev wrong).2.aers = s.aers := by
  simp only [State.judgeGranule]
  split
  · rfl
  · split
    · rfl
    · split
      · rfl
      · exact s.correctedRead_aers ..
      · exact s.failedRead_aers ..
      · split
        · exact (State.failedRead_aers ..).trans (State.aers_of_fns rfl)
        · exact (State.correctedRead_aers ..).trans (State.aers_of_fns rfl)

theorem State.fetched_fns (dev : Nat) : (s.fetched dev).fns = s.fns := by
  simp only [State.fetched]
  split <;> rfl

theorem State.readGranule_aers (dev wrong : Nat) : (s.readGranule dev wrong).2.aers = s.aers := by
  rw [State.readGranule_eq]
  exact (State.judgeGranule_aers ..).trans (State.aers_of_fns (s.fetched_fns dev))

end

/-! ## One write request (R251, R257, R414) -/

theorem State.mergesOk_aers (ws : List GranuleWrite) (wrong : List Nat) (s : State) : (s.mergesOk wrong ws).2.aers = s.aers := by
  induction ws generalizing s wrong with
  | nil => rfl
  | cons w ws ih =>
    have hr := s.readGranule_aers w.1 (wrong.headD 0)
    rw [State.mergesOk]
    split
    · exact ih _ s
    · split <;> rename_i hx <;> rw [hx] at hr
      · exact hr
      · exact (ih _ _).trans hr

/-- The reads of the merges change no byte of another granule. -/
theorem State.mergesOk_in (ws : List GranuleWrite) (wrong : List Nat) (s : State) (hs : s.memWf = true) :
    State.ChangesIn (ws.map (·.1)) s (s.mergesOk wrong ws).2 := by
  induction ws generalizing s wrong with
  | nil => exact .of_stored hs rfl
  | cons w ws ih =>
    have hr := (s.readGranule_in w.1 (wrong.headD 0) hs).mono (l' := (w :: ws).map (·.1))
      (fun g hg => List.mem_singleton.mp hg ▸ List.mem_cons_self)
    have hcons {u : State} (h : State.ChangesIn (ws.map (·.1)) u (u.mergesOk wrong.tail ws).2) :=
      h.mono (l' := (w :: ws).map (·.1)) (fun g hg => List.mem_cons_of_mem _ hg)
    rw [State.mergesOk]
    split
    · exact hcons (ih _ s hs)
    · split <;> rename_i hx <;> rw [hx] at hr
      · exact hr
      · exact hr.trans (hcons (ih _ _ hr.wf))

/-- Granules that are covered whole, or can be read, can take their writes. -/
theorem State.mergesOk_of (ws : List GranuleWrite) (wrong : List Nat) (s : State) (hs : s.memWf = true)
    (h : (∀ w ∈ ws, w.2.2.all id = true) ∨ ((∀ n ∈ wrong, n = 0) ∧ ∀ w ∈ ws, s.poisoned w.1 = false)) :
    ∃ t, s.mergesOk wrong ws = (true, t) ∧ t.memWf = true := by
  induction ws generalizing s wrong with
  | nil => exact ⟨s, rfl, hs⟩
  | cons w ws ih =>
    rw [State.mergesOk]
    have htail : ∀ n ∈ wrong.tail, n ∈ wrong := fun n hn => List.mem_of_mem_tail hn
    split
    · refine ih _ s hs (h.imp (fun h v hv => h v (List.mem_cons_of_mem _ hv)) (fun ⟨h0, hp⟩ => ⟨fun n hn => h0 n (htail n hn),
        fun v hv => hp v (List.mem_cons_of_mem _ hv)⟩))
    · next hw =>
      obtain ⟨h0, hp⟩ := h.resolve_left (fun h => hw (h w List.mem_cons_self))
      have hn : wrong.headD 0 = 0 := by
        cases wrong with
        | nil => rfl
        | cons n l => exact h0 n List.mem_cons_self
      obtain ⟨t, ht, hc⟩ := s.readGranule_delivered w.1 (wrong.headD 0) (hp w List.mem_cons_self) (by rw [hn]; decide)
      rw [ht]
      exact ih _ t (by rw [State.memWf, State.mem_of_cells hc]; exact hs) (.inr ⟨fun n hn => h0 n (htail n hn),
        fun v hv => (State.poisoned_of_cells hc v.1).trans (hp v (List.mem_cons_of_mem _ hv))⟩)

theorem overGranules_fst (dev : Nat) (data : List Byte) (mask : List Bool) :
    (overGranules dev data mask).map (·.1) = granules dev data.length := by
  rw [overGranules, List.map_map]
  exact List.map_id' _

/-- A write of whole granules covers them. -/
theorem overGranules_whole {dev : Nat} {data : List Byte} (hd : dev % 64 = 0) (hl : data.length % 64 = 0) :
    ∀ w ∈ overGranules dev data [], w.2.2.all id = true := by
  intro w hw
  obtain ⟨g, hg, rfl⟩ := List.mem_map.mp hw
  rw [granules] at hg
  split at hg
  · cases hg
  · obtain ⟨i, hi, rfl⟩ := List.mem_map.mp hg
    have := List.mem_range.mp hi
    simp only [List.all_map, List.all_eq_true, List.mem_range]
    intro k hk
    simp only [Function.comp_apply, id_eq, List.getD_nil, Bool.and_true, decide_eq_true_eq]
    omega

/-- A byte of a range lies in one of its granules. -/
theorem exists_granule {dev n x : Nat} (h : dev ≤ x) (hx : x < dev + n) : ∃ g ∈ granules dev n, g ≤ x ∧ x < g + 64 := by
  refine ⟨x / 64 * 64, ?_, by omega, by omega⟩
  rw [granules, if_neg (by omega)]
  exact List.mem_map.mpr ⟨x / 64 - dev / 64, List.mem_range.mpr (by omega), by omega⟩

theorem State.buffer_cells (s : State) (dev n : Nat) : (s.buffer dev n).cells = s.cells :=
  s.setDeck_cells _ _ (foldl_keeps Deck.poison _ (fun d _ => d.put_poison _) _ _)

section
variable (s : State) (dev : Nat) (data : List Byte) (hs : s.memWf = true)
include hs

theorem State.clearPoison_memWf (n : Nat) : (s.clearPoison dev n).memWf = true := by
  rw [State.memWf, State.mem_of_stored (s.clearPoison_stored dev n)]
  exact hs

/-- Bytes that land are stored, and no byte of another granule changes. -/
theorem State.land_stores : (s.land dev data).deckBytes dev data.length = data := by
  rw [State.land, State.deckBytes_of_mem (State.mem_of_cells (State.buffer_cells ..))]
  exact State.deckBytes_putBytes _ dev _ data (s.clearPoison_memWf dev hs _) rfl

theorem State.land_in : State.ChangesIn (granules dev data.length) s (s.land dev data) := by
  have hc := s.clearPoison_memWf dev hs data.length
  have hput : State.ChangesIn (granules dev data.length) (s.clearPoison dev data.length)
      ((s.clearPoison dev data.length).putBytes dev data) := by
    refine ⟨State.memWf_putBytes _ dev data hc, fun x hx => State.byte_putBytes_ne _ dev x data hc ?_, rfl⟩
    by_contra hn
    obtain ⟨g, hg, h1, h2⟩ := exists_granule (dev := dev) (n := data.length) (x := x) (by omega) (by omega)
    have := hx g hg
    omega
  have hclear : State.ChangesIn (granules dev data.length) s (s.clearPoison dev data.length) :=
    .of_stored hs (s.clearPoison_stored ..)
  exact (hclear.trans hput).trans (.of_cells hput.wf (State.buffer_cells ..))

end

theorem State.land_fns (s : State) (dev : Nat) (data : List Byte) : (s.land dev data).fns = s.fns := by
  have hc : (s.clearPoison dev data.length).fns = s.fns := by
    simp only [State.clearPoison]
    split <;> rfl
  exact hc

section
variable {u : State} {part a dev : Nat} {data : List Byte} (wrong : List Nat) (ht : u.translate part a = some (dev, true))
include ht

theorem State.writeTlp_eq : u.writeTlp part a data wrong =
    if !u.homeReaches (some boxDie) dev then u.dropTlp part
    else if (u.mergesOk wrong (overGranules dev data [])).1 then (u.mergesOk wrong (overGranules dev data [])).2.land dev data
    else (u.mergesOk wrong (overGranules dev data [])).2.dropTlp part := by
  simp only [State.writeTlp, ht]
  generalize u.mergesOk wrong (overGranules dev data []) = m
  obtain ⟨_ | _, t⟩ := m <;> rfl

/-- However a write ends, the error status of functions stays. -/
theorem State.writeTlp_aers : (u.writeTlp part a data wrong).aers = u.aers := by
  have hm := State.mergesOk_aers (overGranules dev data []) wrong u
  rw [State.writeTlp_eq wrong ht]
  split
  · rfl
  · split
    · exact (State.aers_of_fns (State.land_fns ..)).trans hm
    · exact hm

variable (hu : u.memWf = true)
include hu

/-- A write changes no byte outside its granules. -/
theorem State.writeTlp_in : State.ChangesIn (granules dev data.length) u (u.writeTlp part a data wrong) := by
  have hm := State.mergesOk_in (overGranules dev data []) wrong u hu
  rw [overGranules_fst] at hm
  rw [State.writeTlp_eq wrong ht]
  split
  · exact .of_stored hu rfl
  · split
    · exact hm.trans (State.land_in _ dev data hm.wf)
    · exact hm.trans (.of_stored hm.wf rfl)

/-- A write whose granules are whole, or can be read, is made. -/
theorem State.writeTlp_stores (hr : u.homeReaches (some boxDie) dev = true)
    (h : (dev % 64 = 0 ∧ data.length % 64 = 0) ∨ ((∀ n ∈ wrong, n = 0) ∧ ∀ g ∈ granules dev data.length, u.poisoned g = false)) :
    (u.writeTlp part a data wrong).deckBytes dev data.length = data := by
  have hfst {w : GranuleWrite} (hw : w ∈ overGranules dev data []) : w.1 ∈ granules dev data.length := by
    rw [← overGranules_fst dev data []]
    exact List.mem_map_of_mem hw
  obtain ⟨t, hm, hw⟩ := State.mergesOk_of (overGranules dev data []) wrong u hu
    (h.imp (fun ⟨hd, hl⟩ => overGranules_whole hd hl) (fun ⟨h0, hp⟩ => ⟨h0, fun w hw => hp _ (hfst hw)⟩))
  rw [State.writeTlp_eq wrong ht, hr, hm]
  exact t.land_stores dev data hw

end

/-! ## Runs within one piece are one request (R414) -/

theorem cutTlps_one {a len : Nat} (h0 : 0 < len) (h : a % 4096 + len ≤ 4096) : cutTlps a len = [(a, len)] := by
  have hn : (a % 4096 + len + 4095) / 4096 = 1 := by omega
  have hlo : max a ((a / 4096 + 0) * 4096) = a := by omega
  have hhi : min (a + len) ((a / 4096 + 0 + 1) * 4096) - a = len := by omega
  rw [cutTlps, hn]
  show [(max a ((a / 4096 + 0) * 4096), _)] = _
  rw [hlo, hhi]

theorem tlpWrong_self (a : Nat) (wrong : List Nat) (n : Nat) : tlpWrong a wrong (a, n) = wrong := by
  rw [tlpWrong, Nat.sub_self, List.drop_zero]

theorem slice_all (l : List Byte) (a : Nat) : slice l (a - a) l.length = l := by
  simp [slice]

/-! ## One read request -/

section
variable (s : State) (f part : Nat) (wrong : List Nat)

theorem State.via_of_fns {s t : State} (h : t.fns = s.fns) (f : Nat) : t.via f = s.via f := by
  have hfn (g : Nat) : t.fn g = s.fn g := congrArg (fun l => Tab.get Fn.reset l g) h
  rw [State.via, State.via, hfn, hfn]

theorem State.readTlp_unmapped {x : Nat × Nat} (h : s.translate part x.1 = none) :
    s.readTlp f part wrong x = s.unsupported f part x.1 := by
  simp only [State.readTlp, h]

theorem State.readTlp_unreached {x : Nat × Nat} {dev : Nat} {w : Bool} (h : s.translate part x.1 = some (dev, w))
    (hr : s.homeReaches (some boxDie) dev = false) : s.readTlp f part wrong x = s.unsupported f part x.1 := by
  simp only [State.readTlp, h, hr, Bool.not_false, if_true]

theorem State.readTlp_of {x : Nat × Nat} {dev : Nat} {w : Bool} (h : s.translate part x.1 = some (dev, w))
    (hr : s.homeReaches (some boxDie) dev = true) {q : Except Nat (List Byte) × State}
    (hq : s.readGranules (granules dev x.2) wrong = q) {l : List Byte} (hl : q.1 = .ok l) :
    s.readTlp f part wrong x = q.2.emit (.data f x.1 (slice l (dev % 64) x.2) (q.2.via f)) := by
  obtain ⟨e, t⟩ := q
  cases hl
  simp only [State.readTlp, h, hr, hq, Bool.not_true, Bool.false_eq_true, if_false]

end

theorem State.unsupported_mem (s : State) (f part a : Nat) : (s.unsupported f part a).mem = s.mem := rfl

/-- A write that is discarded changes no byte. -/
theorem State.drop_mem (s : State) (f part : Nat) (c : Bool) : ((if c then s.aerError f 12 else s).dropTlp part).mem = s.mem := by
  split <;> rfl

/-! ## A request whose link failed it -/

section
variable (s : State) (f : Nat) (fault : TlpFault)

theorem State.linkError_boundPart (g : Nat) : (s.linkError f fault).boundPart g = s.boundPart g := by
  rw [State.boundPart, s.linkError_parts, State.boundPart]

theorem State.linkError_d3hot (g : Nat) : ((s.linkError f fault).fn g).d3hot = (s.fn g).d3hot := by
  obtain ⟨n, hn⟩ := s.linkError_fn f fault g
  rw [hn]

theorem State.linkError_ideNeeds (g part : Nat) : (s.linkError f fault).ideNeeds g part = s.ideNeeds g part := by
  obtain ⟨n, hn⟩ := s.linkError_fn f fault g
  rw [State.ideNeeds, hn, State.part_congr (s.linkError_parts f fault), State.ideNeeds]

theorem State.linkError_rangeServes (part pa len : Nat) :
    (s.linkError f fault).rangeServes part pa len = s.rangeServes part pa len := by
  obtain ⟨fns, out, h⟩ := s.linkError_withFns f fault
  rw [h]
  rfl

theorem State.linkError_fabricOn : ∃ out, (s.linkError f fault).fabricOn = s.fabricOn.withFns (s.linkError f fault).fns out := by
  obtain ⟨fns, out, h⟩ := s.linkError_withFns f fault
  rw [h, State.fabricOn_withFns]
  exact ⟨out, rfl⟩

end

/-! ## A read of the window -/

section
variable {s : State} {f : Fin 64} (hb : s.il.boot = .booted) (he : s.fnExists f = true) (hf : f.val ≠ 0) (a : Word)
include hb he hf

theorem not_barred : ¬(s.il.boot ≠ .booted ∨ (!s.fnExists f) = true ∨ f.val = 0) := by
  simp [hb, he, hf]

section
variable (len : Nat) (wrong : List Nat)

/-- A function that is not bound, or in D3hot, has no byte of the decks changed. -/
theorem exec_bar2Read_quiet (h : s.boundPart f = none ∨ (s.fn f).d3hot = true) :
    ∃ t, exec (.bar2Read f a len wrong) s = .next t ∧ t.mem = s.mem := by
  refine ⟨(cutTlps a.toNat len).foldl (fun s x => s.unsupported f 0xFF x.1) s, ?_,
    foldl_keeps State.mem (fun s (x : Nat × Nat) => s.unsupported f 0xFF x.1) (fun t x => t.unsupported_mem f 0xFF x.1) _ s⟩
  rw [exec_bar2Read, execBar2Read, if_neg (not_barred hb he hf)]
  cases hd : (s.fn f).d3hot with
  | true => rfl
  | false =>
    rw [hd] at h
    simp only [h.resolve_right Bool.false_ne_true, Bool.false_eq_true, if_false]

variable {part : Nat} (hp : s.boundPart f = some part) (hd : (s.fn f).d3hot = false)
include hp hd

theorem exec_bar2Read_waits (hs : s.rangeServes part a.toNat len = false) : exec (.bar2Read f a len wrong) s = .next s := by
  rw [exec_bar2Read, execBar2Read, if_neg (not_barred hb he hf), hd, if_neg Bool.false_ne_true]
  simp only [hp, hs, Bool.not_false, if_true]

/-- A run within one piece is one read request. -/
theorem exec_bar2Read_one (hs : s.rangeServes part a.toNat len = true) (h0 : 0 < len) (hl : a.toNat % 4096 + len ≤ 4096) :
    exec (.bar2Read f a len wrong) s = .next (s.fabricOn.readTlp f part wrong (a.toNat, len)) := by
  rw [exec_bar2Read, execBar2Read, if_neg (not_barred hb he hf), hd, if_neg Bool.false_ne_true]
  simp only [hp, hs, Bool.not_true, Bool.false_eq_true, if_false, cutTlps_one h0 hl, List.foldl_cons, List.foldl_nil, tlpWrong_self]

end

/-! ## A write of the window -/

section
variable (data : List Byte) (fault : TlpFault) (strm : Bool) (wrong : List Nat)

theorem exec_bar2Write_quiet (h : s.boundPart f = none ∨ (s.fn f).d3hot = true) :
    ∃ t, exec (.bar2Write f a data fault strm wrong) s = .next t ∧ t.mem = s.mem := by
  rw [exec_bar2Write, execBar2Write, if_neg (not_barred hb he hf)]
  cases hd : (s.fn f).d3hot with
  | true =>
    simp only [State.linkError_d3hot, hd, if_true]
    exact ⟨_, rfl, (foldl_keeps State.mem (fun s (_ : Nat × Nat) => (s.aerError f 20).dropTlp 0xFF) (fun _ _ => rfl) _ _).trans
      (s.linkError_mem f fault)⟩
  | false =>
    rw [hd] at h
    simp only [State.linkError_d3hot, State.linkError_boundPart, hd, h.resolve_right Bool.false_ne_true, Bool.false_eq_true, if_false]
    exact ⟨_, rfl, (foldl_keeps State.mem _ (fun t (_ : Nat × Nat) => t.drop_mem f _ _) _ _).trans (s.linkError_mem f fault)⟩

variable {part : Nat} (hp : s.boundPart f = some part) (hd : (s.fn f).d3hot = false)
include hp hd

/-- A poisoned write changes no byte. -/
theorem exec_bar2Write_poisoned : ∃ t, exec (.bar2Write f a data .poisoned strm wrong) s = .next t ∧ t.mem = s.mem := by
  rw [exec_bar2Write, execBar2Write, if_neg (not_barred hb he hf)]
  simp only [State.linkError_d3hot, State.linkError_boundPart, hd, hp, decide_true, Bool.false_eq_true, if_false, if_true]
  exact ⟨_, rfl, (foldl_keeps State.mem (fun s (_ : Nat × Nat) => (s.aerError f 12).dropTlp part) (fun _ _ => rfl) _ _).trans
    (s.linkError_mem f .poisoned)⟩

variable {fault} (hn : fault ≠ .poisoned)
include hn

theorem exec_bar2Write_outside (h0 : 0 < data.length) (hl : a.toNat % 4096 + data.length ≤ 4096) (hi : s.ideNeeds f part = true) :
    exec (.bar2Write f a data fault false wrong) s = .next ((s.linkError f fault).dropOutside f part) := by
  rw [exec_bar2Write, execBar2Write, if_neg (not_barred hb he hf)]
  simp only [State.linkError_d3hot, State.linkError_boundPart, State.linkError_ideNeeds, hd, hp, hn, hi, decide_false,
    Bool.false_eq_true, if_false, Bool.not_false, Bool.and_true, if_true, cutTlps_one h0 hl, List.foldl_cons, List.foldl_nil]

variable (hi : s.ideNeeds f part = false ∨ strm = true)
include hi

theorem exec_bar2Write_waits (hs : s.rangeServes part a.toNat data.length = false) :
    exec (.bar2Write f a data fault strm wrong) s = .next s := by
  have hin : (s.ideNeeds f part && !strm) = false := by
    rcases hi with h | h <;> simp [h]
  rw [exec_bar2Write, execBar2Write, if_neg (not_barred hb he hf)]
  simp only [State.linkError_d3hot, State.linkError_boundPart, State.linkError_ideNeeds, State.linkError_rangeServes, hd, hp, hn, hin,
    hs, decide_false, Bool.false_eq_true, if_false, Bool.not_false, if_true]

/-- A run within one piece is one write request. -/
theorem exec_bar2Write_one (hs : s.rangeServes part a.toNat data.length = true) (h0 : 0 < data.length)
    (hl : a.toNat % 4096 + data.length ≤ 4096) : exec (.bar2Write f a data fault strm wrong) s =
      .next ((s.linkError f fault).fabricOn.writeTlp part a.toNat data wrong) := by
  have hin : (s.ideNeeds f part && !strm) = false := by
    rcases hi with h | h <;> simp [h]
  rw [exec_bar2Write, execBar2Write, if_neg (not_barred hb he hf)]
  simp only [State.linkError_d3hot, State.linkError_boundPart, State.linkError_ideNeeds, State.linkError_rangeServes, hd, hp, hn, hin,
    hs, decide_false, Bool.false_eq_true, if_false, Bool.not_true, cutTlps_one h0 hl, List.foldl_cons, List.foldl_nil, tlpWrong_self,
    slice_all]

end

end

/-! ## What DeckWindow states -/

/-- An answer of the window as unsupported. -/
theorem State.fabricOn_unsupported (s : State) (f part a : Nat) : s.fabricOn.unsupported f part a =
    (((s.fabricOn.setFn f { s.fabricOn.fn f with aer := (s.fabricOn.fn f).aer ||| 2 ^ 20 }).emit (.aer f)).emit
      (.unsupported f a (s.via f))).note part nodeSb 414 0 := by
  rw [State.unsupported, State.via_of_fns s.fabricOn_fns]
  rfl

theorem State.linkError_eq (s : State) (f : Nat) (fault : TlpFault) :
    s.linkError f fault = if fault = .link then s.aerError f 38 else s := rfl

/-- What a write request of the window leaves: it is reported, it is stored, and other bytes stay. -/
theorem State.window_write {s : State} (hs : s.memWf = true) {f part a dev : Nat} {data : List Byte} (wrong : List Nat)
    (fault : TlpFault) (ht : s.translate part a = some (dev, true)) {t : State}
    (heq : t = (s.linkError f fault).fabricOn.writeTlp part a data wrong) :
    (fault = .link → ((t.fn f).aer).testBit 38 = true) ∧
    (s.fabricOn.homeReaches (some boxDie) dev = true →
      (dev % 64 = 0 ∧ data.length % 64 = 0) ∨ ((∀ n ∈ wrong, n = 0) ∧ ∀ g ∈ granules dev data.length, s.poisoned g = false) →
      t.deckBytes dev data.length = data) ∧
    State.ChangesIn (granules dev data.length) s t := by
  obtain ⟨out, hu⟩ := s.linkError_fabricOn f fault
  have hft : (s.linkError f fault).fabricOn.translate part a = some (dev, true) := by
    rw [hu, ← ht, ← s.fabricOn_translate]
    rfl
  have hfw : (s.linkError f fault).fabricOn.memWf = true := by
    rw [State.memWf, State.fabricOn_mem, s.linkError_mem]
    exact hs
  have hcells : (s.linkError f fault).fabricOn.cells = s.cells := by
    rw [hu, ← s.fabricOn_cells]
    rfl
  have hreach : (s.linkError f fault).fabricOn.homeReaches (some boxDie) dev = s.fabricOn.homeReaches (some boxDie) dev := by
    rw [hu]
    rfl
  have haers : t.aers = (s.linkError f fault).aers := by
    rw [heq, State.writeTlp_aers wrong hft]
    exact State.aers_of_fns (State.fabricOn_fns _)
  refine ⟨fun hl => ?_, fun hr h => ?_, ?_⟩
  · show (t.aers f).testBit 38 = true
    rw [haers, hl, State.linkError_aer, Nat.testBit_or, Nat.testBit_two_pow_self, Bool.or_true]
  · rw [heq]
    exact State.writeTlp_stores wrong hft hfw (hreach.trans hr) (h.imp_right (fun ⟨h0, hp⟩ =>
      ⟨h0, fun g hg => (State.poisoned_of_cells hcells g).trans (hp g hg)⟩))
  · rw [heq]
    exact (State.ChangesIn.of_cells hs hcells).trans (State.writeTlp_in wrong hft hfw)

/-- Settles O56: an access of the window waits, is one request, or changes no byte. -/
theorem deckWindow : Obligations.DeckWindow := by
  unfold Obligations.DeckWindow
  intro f a len data wrong fault strm part s hs hb he hf
  dsimp only
  have quiet (h : s.boundPart f = none ∨ (s.fn f).d3hot = true) :=
    And.intro (exec_bar2Read_quiet hb he hf a len wrong h) (exec_bar2Write_quiet hb he hf a data fault strm wrong h)
  refine ⟨fun hp hd => ⟨fun hn => exec_bar2Read_waits hb he hf a len wrong hp hd hn, fun hr h0 hl => ?_, fun h0 hl hn => ?_,
    exec_bar2Write_poisoned hb he hf a data strm wrong hp hd⟩, fun h => quiet (.inl h), fun h => quiet (.inr h)⟩
  · rw [exec_bar2Read_one hb he hf a len wrong hp hd hr h0 hl, ← State.fabricOn_unsupported]
    refine ⟨fun dev w l ht hre hx => congrArg Host.Outcome.next ?_, fun ht => congrArg Host.Outcome.next ?_,
      fun dev w ht hre => congrArg Host.Outcome.next ?_⟩
    · exact s.fabricOn.readTlp_of f part wrong ((s.fabricOn_translate ..).trans ht) hre rfl hx
    · exact s.fabricOn.readTlp_unmapped f part wrong ((s.fabricOn_translate ..).trans ht)
    · exact s.fabricOn.readTlp_unreached f part wrong ((s.fabricOn_translate ..).trans ht) hre
  · refine ⟨fun hi => ?_, fun hi => ⟨fun hw => exec_bar2Write_waits hb he hf a data strm wrong hp hd hn hi hw, fun hr dev ht => ?_⟩⟩
    · rw [exec_bar2Write_outside hb he hf a data wrong hp hd hn h0 hl hi, State.linkError_eq]
      rfl
    · obtain ⟨haer, hstores, hin⟩ := State.window_write hs wrong fault ht rfl
      exact ⟨_, exec_bar2Write_one hb he hf a data strm wrong hp hd hn hi hr h0 hl, haer, fun hr hd hl => hstores hr (.inl ⟨hd, hl⟩),
        fun hr h0 hp => hstores hr (.inr ⟨h0, hp⟩), hin.out⟩

end Sys2Proof.Machine

/-! # Upkeep of the decks (O36)

What a drain, a refresh and a trigger change is said of a deck. A scrub and a channel that goes offline clear the memory; what
follows them leaves it so. -/

namespace Sys2Proof.Machine

/-! ## Channels -/

@[simp] theorem Deck.chan_setChan (d : Deck) (k : Nat) (c : Chan) : (d.setChan k c).chan k = c := Tab.get_ins_same ..

theorem Deck.chan_setChan_ne (d : Deck) (k j : Nat) (c : Chan) (h : j ≠ k) : (d.setChan k c).chan j = d.chan j :=
  Tab.get_ins_ne _ _ _ _ _ h

section
variable (d : Deck) (ch cycle : Nat)

/-- A drained buffer is empty. -/
theorem Deck.drain_touch_wbuf : (((d.drain ch).touch ch cycle).chan ch).wbuf = [] := by
  have h : ((d.drain ch).chan ch).wbuf = [] := congrArg Chan.wbuf (d.chan_setChan ch _)
  exact (congrArg Chan.wbuf ((d.drain ch).chan_setChan ch _)).trans h

theorem Deck.drain_touch_chan_ne {k : Nat} (h : k ≠ ch) : ((d.drain ch).touch ch cycle).chan k = d.chan k :=
  ((d.drain ch).chan_setChan_ne ch k _ h).trans (d.chan_setChan_ne ch k _ h)

/-- A channel that starts retraining has drained its buffer. -/
theorem Deck.retrain_wbuf : ((d.retrain ch).chan ch).wbuf = [] := by
  have h : ((d.drain ch).chan ch).wbuf = [] := congrArg Chan.wbuf (d.chan_setChan ch _)
  exact (congrArg Chan.wbuf ((d.drain ch).chan_setChan ch _)).trans h

/-- The trigger of a channel, on a deck that is on: it retrains now, or next. -/
theorem Deck.trigger_now (hp : d.pow = .on) (ho : d.offline ≠ some ch) (hr : d.retraining = none) : d.trigger ch = d.retrain ch := by
  rw [Deck.trigger, if_neg (by simp [hp, ho]), hr]

theorem Deck.trigger_later (hp : d.pow = .on) (ho : d.offline ≠ some ch) {k : Nat} (hr : d.retraining = some k) (hk : k ≠ ch) :
    d.trigger ch = d.setChan ch { d.chan ch with trigger := true } := by
  rw [Deck.trigger, if_neg (by simp [hp, ho]), hr]
  exact if_neg hk

/-- A waiting trigger starts the next retraining. -/
theorem Deck.nextRetrain_retraining : d.nextRetrain.retraining = (List.range 64).find? (fun k => (d.chan k).trigger) := by
  have hc (k : Nat) : ({ d with retraining := none } : Deck).chan k = d.chan k := rfl
  simp only [Deck.nextRetrain, hc]
  split <;> rename_i h <;> rw [h]
  rfl

theorem Deck.nextRetrain_poison : d.nextRetrain.poison = d.poison := by
  simp only [Deck.nextRetrain]
  split <;> rfl

end

/-- What a deck keeps but for its channels, what is in retraining, its bus cycles. -/
def Deck.beside (d : Deck) : Deck := { d with chans := [], retraining := none, busy := 0 }

theorem Deck.nextRetrain_beside (d : Deck) : d.nextRetrain.beside = d.beside := by
  simp only [Deck.nextRetrain]
  split <;> rfl

/-! ## Drains (R251) -/

theorem exec_writeBufferDrain_of {s : State} {span : Fin 16} {ch : Fin 64} {cycle : Nat} (hp : (s.deck span).pow = .on)
    (h : 64 ≤ ((s.deck span).chan ch).wbuf.length ∨ s.readQueue span ch = [] ∨
      ∃ p ∈ ((s.deck span).chan ch).wbuf, p.2 + 2000 ≤ cycle) :
    exec (.writeBufferDrain span ch cycle) s = .next (s.setDeck span (((s.deck span).drain ch).touch ch cycle)) := by
  have hdue : (decide (64 ≤ ((s.deck span).chan ch).wbuf.length) || (s.readQueue span ch).isEmpty ||
      ((s.deck span).chan ch).wbuf.any (fun p => decide (p.2 + 2000 ≤ cycle))) = true := by
    simpa [Bool.or_eq_true, List.isEmpty_iff, or_assoc] using h
  exact congrArg Host.Outcome.next (if_pos ⟨hp, hdue⟩)

/-! ## Refreshes (R254) -/

/-- A channel after an interval, and whether its refresh was forced. -/
theorem Chan.refresh_eq (c : Chan) (w : Bool) :
    ((c.refresh w).1 = true ↔ (w = true ∨ 64 ≤ c.wbuf.length) ∧ 8 ≤ c.owed) ∧
      (c.refresh w).2.owed = if ¬(w = true ∨ 64 ≤ c.wbuf.length) then 0 else if 8 ≤ c.owed then c.owed else c.owed + 1 := by
  by_cases hl : w = true ∨ 64 ≤ c.wbuf.length
  · have hb : (!(w || decide (64 ≤ c.wbuf.length))) = false := by
      rcases hl with h | h <;> simp [h]
    by_cases h8 : 8 ≤ c.owed <;> simp [Chan.refresh, hb, hl, h8]
  · have hb : (!(w || decide (64 ≤ c.wbuf.length))) = true := by simpa using hl
    simp [Chan.refresh, hb, hl]

/-- Whether an interval finds a channel loaded. -/
theorem refresh_loaded (s : State) (k ch : Nat) (waiting : Bool) :
    ((waiting || !(s.waitingAt k ch).isEmpty) && (s.deck k).retraining != some ch) = true ↔
      (waiting = true ∨ s.waitingAt k ch ≠ []) ∧ (s.deck k).retraining ≠ some ch := by
  simp

/-! ## Scrubs (R263) -/

/-- A granule of a region under scrub is written once. -/
theorem exec_scrubWrite_of {s : State} {span : Fin 16} {addr : BitVec 32} (h : (s.deck span).scrub.contains (addr.toNat / 2 ^ 24) = true)
    (hs : (s.deck span).serves (addr.toNat / 64 * 64) = true)
    (hw : s.waitingAt span ((s.deck span).channel (addr.toNat / 64 * 64)) = []) :
    ((s.deck span).scrubbed.contains (addr.toNat / 64) = true → exec (.scrubWrite span addr) s = .next s) ∧
    ((s.deck span).scrubbed.contains (addr.toNat / 64) = false → ∃ t, exec (.scrubWrite span addr) s = .next t ∧
      t.mem = ((s.clearPoison (span * 2 ^ 32 + addr.toNat / 64 * 64) 64).putBytes (span * 2 ^ 32 + addr.toNat / 64 * 64)
        (List.replicate 64 0)).mem) := by
  have ha : addr.toNat / 64 * 64 / 2 ^ 24 = addr.toNat / 2 ^ 24 := by omega
  have hg : addr.toNat / 64 * 64 / 64 = addr.toNat / 64 := by omega
  rw [exec_scrubWrite, execScrubWrite]
  simp only [ha, hg, h, hs, hw, List.isEmpty_nil, Bool.true_and, Bool.and_true]
  refine ⟨fun hd => ?_, fun hd => ?_⟩
  · simp only [hd, Bool.not_true, Bool.false_eq_true, if_false]
  · simp only [hd, Bool.not_false, if_true]
    exact ⟨_, rfl, by rw [State.setDeck_mem, State.busyCycles_mem]⟩

theorem byte_zeroGranule (s : State) (hs : s.memWf = true) (g a : Nat) :
    Tab.get deckFill ((s.clearPoison g 64).putBytes g (List.replicate 64 0)).mem a =
      if g ≤ a ∧ a < g + 64 then 0 else Tab.get deckFill s.mem a := by
  have hm := State.mem_of_stored (s.clearPoison_stored g 64)
  have hw : (s.clearPoison g 64).memWf = true := by
    rw [State.memWf, hm]
    exact hs
  split
  · next h =>
    have hk := State.byte_putBytes_in (s.clearPoison g 64) g (a - g) (List.replicate 64 0) hw (by simp; omega)
    rw [show g + (a - g) = a by omega] at hk
    rw [hk, List.getElem_replicate]
  · rw [State.byte_putBytes_ne _ g a _ hw (by simp; omega), hm]

/-- What is cleared of a canonical table reads as the default, and the rest as before. -/
theorem Tab.get_clear {α : Type} [DecidableEq α] (d : α) (m : Tab α) (lo n i : Nat) {k : Nat} (h : Tab.wfFrom d k m = true) :
    Tab.get d (Tab.clear m lo n) i = if lo ≤ i ∧ i < lo + n then d else Tab.get d m i := by
  induction m generalizing k with
  | nil => simp [Tab.clear, Tab.get]
  | cons p m ih =>
    obtain ⟨j, v⟩ := p
    simp only [Tab.wfFrom, Bool.and_eq_true, decide_eq_true_eq] at h
    have hi := ih h.2
    have hlt (hji : i < j + 1) : Tab.get d m i = d := Tab.get_of_lt d m (j + 1) i h.2 hji
    rw [Tab.clear] at hi ⊢
    rw [List.filter_cons]
    by_cases hj : lo ≤ j ∧ j < lo + n
    · rw [if_neg (by simpa using hj), hi, Tab.get]
      split
      · rfl
      · by_cases hij : i = j
        · omega
        · by_cases hlj : i < j
          · rw [if_neg (by omega), if_pos hlj, hlt (by omega)]
          · rw [if_neg (by omega), if_neg hlj]
    · rw [if_pos (by simp; omega)]
      by_cases hij : i = j
      · subst hij
        simp only [Tab.get, if_true, if_neg hj]
      · by_cases hlj : i < j
        · simp only [Tab.get, if_neg hij, if_pos hlj, ite_self]
        · simp only [Tab.get, if_neg hij, if_neg hlj, hi]

/-! ## What scrubs and ends leave of the memory -/

/-- What no end of a tenancy changes: the memory, the edges and the regions under scrub. -/
def State.lasting (s : State) : (Tab Byte × Tab Edge) × (Nat → List Nat) := ((s.mem, s.edges), fun k => (s.deck k).scrub)

theorem State.lasting_of_inner {s t : State} (h : t.inner = s.inner) : t.lasting = s.lasting :=
  Prod.ext (Prod.ext (State.mem_of_inner h) (State.edges_of_inner h))
    (funext fun k => congrArg (fun l => (Tab.get Span.reset l k).deck.scrub) (State.spans_of_inner h))

theorem State.setDeck_lasting (s : State) (k : Nat) (d : Deck) (h : d.scrub = (s.deck k).scrub) : (s.setDeck k d).lasting = s.lasting := by
  refine Prod.ext rfl (funext fun j => ?_)
  by_cases hj : j = k
  · subst hj
    exact (congrArg Deck.scrub (s.deck_setDeck j d)).trans h
  · exact congrArg Deck.scrub (s.deck_setDeck_ne k j d hj)

section
variable (s : State) (part : Nat)

theorem State.settleVfs_lasting : s.settleVfs.lasting = s.lasting := by
  unfold State.settleVfs
  split <;> rfl

theorem State.zeroStreams_lasting (l : List Nat) : (s.zeroStreams l).lasting = s.lasting :=
  foldl_keeps State.lasting _ (fun _ _ => by rfl) l s

theorem State.meterEvent_lasting (ev : PEvent) (l : List Nat) : (s.meterEvent ev part l).lasting = s.lasting := rfl

theorem State.beginTenancy_lasting (vf : Nat) : (s.beginTenancy part vf).lasting = s.lasting := rfl

theorem State.clearTenancy_lasting : (s.clearTenancy part).lasting = s.lasting := by
  have hz : (((s.freeGroups part).freeSiding part).zeroStreams (s.part part).rings).lasting = s.lasting :=
    (State.zeroStreams_lasting ..).trans rfl
  unfold State.clearTenancy
  dsimp only
  rw [State.settleVfs_lasting]
  refine Eq.trans ?_ hz
  split <;> rfl

theorem State.restFree_lasting : s.restFree.lasting = s.lasting := by
  unfold State.restFree
  split
  · refine foldl_keeps State.lasting _ (fun t k => ?_) _ s
    dsimp only
    split
    · exact t.setDeck_lasting k _ rfl
    · rfl
  · rfl

theorem State.release_lasting : (s.release part).lasting = s.lasting := by
  have hf := foldl_keeps State.lasting (fun (s : State) (x : Nat × Nat) =>
    s.setDeck x.1 { s.deck x.1 with owner := Tab.del x.2 (s.deck x.1).owner, clean := [] }) (fun t x => t.setDeck_lasting x.1 _ rfl)
    (s.part part).regionPairs s
  exact (State.meterEvent_lasting ..).trans ((State.restFree_lasting _).trans hf)

/-- The last steps of an end write no deck, and start or end no scrub. -/
theorem State.finishEnd_lasting : (s.finishEnd part).lasting = s.lasting := by
  unfold State.finishEnd
  split
  · split
    · rfl
    · exact (State.lasting_of_inner (State.reply_inner ..)).trans ((State.release_lasting ..).trans (s.clearTenancy_lasting part))
  · split
    · rfl
    · extract_lets -underBinder t u
      have ht : t.lasting = s.lasting := (State.meterEvent_lasting ..).trans (s.clearTenancy_lasting part)
      have hu : u.lasting = s.lasting := by
        unfold u
        split
        · exact (State.beginTenancy_lasting ..).trans ht
        · exact ht
      split
      · exact (State.lasting_of_inner (State.complete_inner ..)).trans hu
      · exact hu
  · rfl

theorem State.finishEnds_lasting : s.finishEnds.lasting = s.lasting := foldl_keeps State.lasting _ (fun t p => t.finishEnd_lasting p) _ s

/-- A region that is zeroed reads as zeros, and other bytes as before. -/
theorem State.byte_zeroRegion (hs : s.memWf = true) (k r a : Nat) : (s.zeroRegion k r).memWf = true ∧
    Tab.get deckFill (s.zeroRegion k r).mem a =
      if k * 2 ^ 32 + r * 2 ^ 24 ≤ a ∧ a < k * 2 ^ 32 + r * 2 ^ 24 + 2 ^ 24 then 0 else Tab.get deckFill s.mem a :=
  ⟨Tab.wf_clear deckFill s.mem _ _ hs, Tab.get_clear deckFill s.mem _ _ a hs⟩

/-- Every region of a list that is zeroed reads as zeros. -/
theorem State.byte_zeroRegions (k : Nat) (rs : List Nat) (s : State) (hs : s.memWf = true) (a : Nat)
    (h : (∃ r ∈ rs, k * 2 ^ 32 + r * 2 ^ 24 ≤ a ∧ a < k * 2 ^ 32 + r * 2 ^ 24 + 2 ^ 24) ∨ Tab.get deckFill s.mem a = 0) :
    Tab.get deckFill (rs.foldl (fun s r => s.zeroRegion k r) s).mem a = 0 := by
  induction rs generalizing s with
  | nil => exact h.resolve_left (fun ⟨r, hr, _⟩ => List.not_mem_nil hr)
  | cons r rs ih =>
    obtain ⟨hw, hb⟩ := s.byte_zeroRegion hs k r a
    refine ih _ hw ?_
    rw [hb]
    rcases h with ⟨q, hq, hin⟩ | h
    · rcases List.mem_cons.mp hq with rfl | hq
      · exact .inr (if_pos hin)
      · exact .inl ⟨q, hq, hin⟩
    · exact .inr (by rw [h, ite_self])

end

/-- A scrub that is done leaves its regions zero, and none under scrub. -/
theorem State.scrubDone_of {s : State} (hs : s.memWf = true) (k : Nat) : ((s.scrubDone k).deck k).scrub = [] ∧
    ∀ r ∈ (s.deck k).scrub, ∀ i, i < 2 ^ 24 → Tab.get deckFill (s.scrubDone k).mem (k * 2 ^ 32 + r * 2 ^ 24 + i) = 0 := by
  obtain ⟨hme, hd⟩ := Prod.mk.inj (State.finishEnds_lasting (((s.deck k).scrub.foldl (fun s r => s.zeroRegion k r) s).setDeck k
    { ((s.deck k).scrub.foldl (fun s r => s.zeroRegion k r) s).deck k with
      scrub := [], clean := (s.deck k).scrub.foldl (fun l r => setIns r l)
        (((s.deck k).scrub.foldl (fun s r => s.zeroRegion k r) s).deck k).clean }))
  refine ⟨(congrFun hd k).trans (congrArg Deck.scrub (State.deck_setDeck ..)), fun r hr i hi => ?_⟩
  have hz := State.byte_zeroRegions k (s.deck k).scrub s hs (k * 2 ^ 32 + r * 2 ^ 24 + i)
    (.inl ⟨r, hr, by omega, by omega⟩)
  exact (congrArg (fun m => Tab.get deckFill m (k * 2 ^ 32 + r * 2 ^ 24 + i)) (Prod.mk.inj hme).1).trans hz

/-! ## What waited for a channel is written (R260) -/

theorem State.journalNow_mem (s : State) (part dev : Nat) : (s.journalNow part dev).2.mem = s.mem := by
  unfold State.journalNow
  extract_lets -underBinder k sd
  split
  · rfl
  · split
    · exact s.journalFull_mem part k
    · rfl
    · rfl

/-- Bytes that land change no other byte. -/
theorem State.land_out (s : State) (hs : s.memWf = true) (dev : Nat) (bs : List Byte) : (s.land dev bs).memWf = true ∧
    (∀ k (h : k < bs.length), Tab.get deckFill (s.land dev bs).mem (dev + k) = bs[k]) ∧
    ∀ a, a < dev ∨ dev + bs.length ≤ a → Tab.get deckFill (s.land dev bs).mem a = Tab.get deckFill s.mem a := by
  have hc := State.mem_of_stored (s.clearPoison_stored dev bs.length)
  have hw : (s.clearPoison dev bs.length).memWf = true := by
    rw [State.memWf, hc]
    exact hs
  have hm : (s.land dev bs).mem = ((s.clearPoison dev bs.length).putBytes dev bs).mem := rfl
  rw [State.memWf, hm]
  exact ⟨State.memWf_putBytes _ dev bs hw, fun k hk => State.byte_putBytes_in _ dev k bs hw hk,
    fun a ha => by rw [State.byte_putBytes_ne _ dev a bs hw ha, hc]⟩

/-- A piece that is placed, or waits, changes no byte outside it. -/
theorem State.place_out (s : State) (hs : s.memWf = true) (x : Nat × List Byte) : (s.place x).memWf = true ∧
    ∀ a, a < x.1 ∨ x.1 + x.2.length ≤ a → Tab.get deckFill (s.place x).mem a = Tab.get deckFill s.mem a := by
  have keeps {t : State} (h : t.mem = s.mem) : t.memWf = true ∧
      ∀ a, a < x.1 ∨ x.1 + x.2.length ≤ a → Tab.get deckFill t.mem a = Tab.get deckFill s.mem a :=
    ⟨by rw [State.memWf, h]; exact hs, fun a _ => by rw [h]⟩
  have lands {t : State} (h : t.mem = s.mem) : (t.land x.1 x.2).memWf = true ∧
      ∀ a, a < x.1 ∨ x.1 + x.2.length ≤ a → Tab.get deckFill (t.land x.1 x.2).mem a = Tab.get deckFill s.mem a := by
    obtain ⟨hw, -, ho⟩ := t.land_out (keeps h).1 x.1 x.2
    exact ⟨hw, fun a ha => (ho a ha).trans (by rw [h])⟩
  simp only [State.place]
  split
  · exact keeps rfl
  · split
    · exact keeps rfl
    · split
      · exact lands rfl
      · next part _ =>
        have hj := s.journalNow_mem part (x.1 / 64 * 64)
        split <;> rename_i hq <;> rw [hq] at hj
        · exact lands hj
        · exact keeps hj
        · exact keeps hj

/-- The pieces that waited, none for a deck, change no byte of that deck. -/
theorem State.places_out (k : Nat) (l : List (Nat × List Byte)) (s : State) (hs : s.memWf = true)
    (hl : ∀ x ∈ l, x.1 / 2 ^ 32 ≠ k) (a : Nat) (ha : a / 2 ^ 32 = k) :
    Tab.get deckFill (l.foldl (fun s x => s.place (x.1, x.2.take (64 - x.1 % 64))) s).mem a = Tab.get deckFill s.mem a := by
  induction l generalizing s with
  | nil => rfl
  | cons x l ih =>
    obtain ⟨hw, ho⟩ := s.place_out hs (x.1, x.2.take (64 - x.1 % 64))
    have hx := hl x List.mem_cons_self
    refine (ih _ hw (fun y hy => hl y (List.mem_cons_of_mem _ hy))).trans (ho a ?_)
    have hlen : (x.2.take (64 - x.1 % 64)).length ≤ 64 - x.1 % 64 := List.length_take_le _ _
    dsimp only
    generalize (x.2.take (64 - x.1 % 64)).length = n at hlen ⊢
    omega

theorem State.unstall_out (s : State) (hs : s.memWf = true) (k : Nat) (hl : ∀ x ∈ s.stalled, x.1 / 2 ^ 32 ≠ k) (a : Nat)
    (ha : a / 2 ^ 32 = k) : Tab.get deckFill s.unstall.mem a = Tab.get deckFill s.mem a :=
  State.places_out k s.stalled { s with stalled := [] } hs hl a ha

/-- Where nothing waited, nothing is written. -/
theorem State.unstall_nil {s : State} (h : s.stalled = []) : s.unstall.mem = s.mem := by
  rw [State.unstall, h]
  rfl

section
variable {s : State} {dev : Nat} {bs : List Byte} (h : s.stalled = [(dev, bs)]) (hl : dev % 64 + bs.length ≤ 64)
include h hl

/-- One piece that waited is placed. -/
theorem State.unstall_one : s.unstall = ({ s with stalled := [] } : State).place (dev, bs) := by
  rw [State.unstall, h, List.foldl_cons, List.foldl_nil, List.take_of_length_le (by show bs.length ≤ 64 - dev % 64; omega)]

/-- It waits on where its channel is retraining, -/
theorem State.unstall_one_waits
    (hr : (s.deck (dev / 2 ^ 32)).retraining = some ((s.deck (dev / 2 ^ 32)).channel (dev % 2 ^ 32))) :
    s.unstall.mem = s.mem ∧ s.unstall.stalled = s.stalled := by
  have hst : ({ s with stalled := [] } : State).stalls dev = true := by
    have hd : ({ s with stalled := [] } : State).deck (dev / 2 ^ 32) = s.deck (dev / 2 ^ 32) := rfl
    rw [State.stalls, hd, hr]
    simp
  rw [State.unstall_one h hl, State.place, if_pos hst, h]
  exact ⟨rfl, rfl⟩

/-- and else, where it merges into no poisoned granule and no partition holds its region, it is written. -/
theorem State.unstall_one_lands
    (hr : (s.deck (dev / 2 ^ 32)).retraining ≠ some ((s.deck (dev / 2 ^ 32)).channel (dev % 2 ^ 32)))
    (hm : s.mergesPoison dev bs.length = false) (hn : s.regionHolder (dev / 2 ^ 32) (bits dev 24 8) = none) :
    s.unstall = ({ s with stalled := [] } : State).land dev bs := by
  have hst : ({ s with stalled := [] } : State).stalls dev = false := by
    have hd : ({ s with stalled := [] } : State).deck (dev / 2 ^ 32) = s.deck (dev / 2 ^ 32) := rfl
    rw [State.stalls, hd]
    simpa using hr
  have hm' : ({ s with stalled := [] } : State).mergesPoison dev bs.length = false := hm
  have hn' : ({ s with stalled := [] } : State).regionHolder (dev / 2 ^ 32) (bits dev 24 8) = none := hn
  rw [State.unstall_one h hl]
  simp only [State.place, hst, hm', hn', Bool.false_eq_true, if_false, Option.filter_none]

end

theorem State.land_byte {s : State} (hs : s.memWf = true) (dev : Nat) (bs : List Byte) (a : Nat) :
    Tab.get deckFill (s.land dev bs).mem a =
      if dev ≤ a ∧ a < dev + bs.length then bs.getD (a - dev) 0 else Tab.get deckFill s.mem a := by
  obtain ⟨-, hi, ho⟩ := s.land_out hs dev bs
  split
  · next h =>
    have hk : a - dev < bs.length := by omega
    have hb := hi (a - dev) hk
    rw [show dev + (a - dev) = a by omega] at hb
    rw [hb, List.getD_eq_getElem _ _ hk]
  · exact ho a (by omega)

/-! ## A retraining ends (R260) -/

theorem bits_region (dev : Nat) : bits dev 24 8 = dev / 2 ^ 24 % 256 := bits_eq_div_mod dev 24 8

theorem exec_channelRetrainDone_of {s : State} {span : Fin 16} {k : Nat} (hr : (s.deck span).retraining = some k)
    (hf : (s.deck span).failing = none) :
    exec (.channelRetrainDone span) s = .next (s.setDeck span (s.deck span).nextRetrain).unstall := by
  rw [exec_channelRetrainDone, execChannelRetrainDone]
  simp only [hr, hf, Option.isSome_some, Option.isNone_none, Bool.and_self, if_true]

theorem State.unstall_retraining (s : State) (k : Nat) : (s.unstall.deck k).retraining = (s.deck k).retraining :=
  (congrArg (fun d : Deck => d.retraining) (congrFun s.unstall_fixed k) :)

theorem State.nextRetrain_cells (s : State) (k : Nat) : (s.setDeck k (s.deck k).nextRetrain).cells = s.cells :=
  s.setDeck_cells k _ (Deck.nextRetrain_poison _)

/-! ## A channel goes offline (R261) -/

/-- A deck's channel is gone, and what the deck keeps says so. -/
def State.channelGone (s : State) (k ch : Nat) : State :=
  (s.zeroDeck k).setDeck k
    (({ (s.zeroDeck k).deck k with failing := none, offline := some ch } : Deck).setChan ch .reset).nextRetrain

theorem State.zeroDeck_deck (s : State) (k : Nat) : (s.zeroDeck k).deck k = { s.deck k with
    poison := [], scrubbed := [], clean := List.range 256, busy := ((s.deck k).busy + 2 ^ 26) % 2 ^ 64 } := State.deck_setDeck ..

section
variable (s : State) (k ch : Nat)

theorem State.channelGone_offline : ((s.channelGone k ch).deck k).offline = some ch := by
  rw [State.channelGone, State.deck_setDeck]
  exact (congrArg Deck.offline (Deck.nextRetrain_beside _) :)

theorem State.channelGone_retraining : ((s.channelGone k ch).deck k).retraining =
    (List.range 64).find? (fun x => x != ch && ((s.deck k).chan x).trigger) := by
  rw [State.channelGone, State.deck_setDeck, Deck.nextRetrain_retraining]
  refine congrArg (fun p => (List.range 64).find? p) (funext fun x => ?_)
  by_cases hx : x = ch
  · subst hx
    rw [Deck.chan_setChan]
    simp [Chan.reset]
  · rw [Deck.chan_setChan_ne _ _ _ _ hx, State.zeroDeck_deck]
    simp [hx, Deck.chan]

theorem State.channelGone_mem : (s.channelGone k ch).mem = Tab.clear s.mem (k * 2 ^ 32) (2 ^ 32) := rfl

theorem State.channelGone_stalled : (s.channelGone k ch).stalled = s.stalled.filter (fun x => x.1 / 2 ^ 32 ≠ k) := rfl

end

/-- The regions that a deck of 63 channels lacks are withdrawn, and that is logged. -/
def State.withdrawLast (s : State) (k ch : Nat) : State :=
  ([252, 253, 254, 255].foldl (fun s r => s.withdraw k r (r * 4096) 4) s).note 0xFF (256 + k) 261 ch

/-- The partitions of the span are told. -/
def State.tellSpan (s : State) (k : Nat) : State := (s.partsOn k).foldl (fun s p => s.notify p 3 k) s

theorem State.channelOff_eq (s : State) (k ch : Nat) :
    s.channelOff k ch = (((s.channelGone k ch).withdrawLast k ch).tellSpan k).unstall := rfl

section
variable (s : State) (k ch : Nat)

theorem State.withdraw_deck (r page cause : Nat) : ∃ x, (s.withdraw k r page cause).deck k =
    { s.deck k with withdrawn := setIns r (s.deck k).withdrawn, retlog := x } := by
  have hd (l : Nat) (d : Deck) : ((s.setDeck k d).notifyOperator l 259 r).deck k = d := State.deck_setDeck ..
  refine ⟨retlogOf ((s.regionHolder k r).getD 0xFF) cause page, ?_⟩
  simp only [State.withdraw]
  split
  · exact (congrArg (fun l => (Tab.get Span.reset l k).deck) (State.spans_of_inner (State.notify_inner ..))).trans
      (hd ((s.regionHolder k r).getD 0xFF) _)
  · exact hd _ _

theorem State.notify_stalled (part kind arg : Nat) : (s.notify part kind arg).stalled = s.stalled :=
  (congrArg State.stalled (s.notify_inner part kind arg) :)

theorem State.withdraw_stalled (r page cause : Nat) : (s.withdraw k r page cause).stalled = s.stalled := by
  simp only [State.withdraw]
  split
  · exact (State.notify_stalled ..).trans rfl
  · rfl

/-- Regions that are withdrawn stay so, and what is offline or in retraining stays. -/
theorem State.withdraws_deck (l : List Nat) (s : State) :
    ((l.foldl (fun s r => s.withdraw k r (r * 4096) 4) s).deck k).offline = (s.deck k).offline ∧
      ((l.foldl (fun s r => s.withdraw k r (r * 4096) 4) s).deck k).retraining = (s.deck k).retraining ∧
      ∀ r, r ∈ l ∨ r ∈ (s.deck k).withdrawn → r ∈ ((l.foldl (fun s r => s.withdraw k r (r * 4096) 4) s).deck k).withdrawn := by
  induction l generalizing s with
  | nil => exact ⟨rfl, rfl, fun r hr => hr.resolve_left List.not_mem_nil⟩
  | cons q l ih =>
    obtain ⟨x, hx⟩ := s.withdraw_deck k q (q * 4096) 4
    obtain ⟨ho, hr, hw⟩ := ih (s.withdraw k q (q * 4096) 4)
    rw [hx] at ho hr hw
    refine ⟨ho, hr, fun r hm => hw r ?_⟩
    rcases hm with hm | hm
    · rcases List.mem_cons.mp hm with rfl | hm
      · exact .inr ((mem_setIns ..).mpr (.inl rfl))
      · exact .inl hm
    · exact .inr ((mem_setIns ..).mpr (.inr hm))

theorem State.withdrawLast_mem : (s.withdrawLast k ch).mem = s.mem := by
  rw [State.withdrawLast, State.note_mem]
  exact foldl_keeps State.mem (fun s r => s.withdraw k r (r * 4096) 4) (fun t r => t.withdraw_mem k r (r * 4096) 4) _ s

theorem State.withdrawLast_stalled : (s.withdrawLast k ch).stalled = s.stalled := by
  rw [State.withdrawLast, State.note_stalled]
  exact foldl_keeps State.stalled (fun s r => s.withdraw k r (r * 4096) 4) (fun t r => t.withdraw_stalled k r (r * 4096) 4) _ s

theorem State.tellSpan_inner : (s.tellSpan k).inner = s.inner :=
  foldl_keeps State.inner (fun s p => s.notify p 3 k) (fun t p => t.notify_inner p 3 k) _ s

theorem State.stalled_of_inner {s t : State} (h : t.inner = s.inner) : t.stalled = s.stalled :=
  show t.inner.stalled = s.inner.stalled from congrArg _ h

/-- Telling the span, and what then goes on, changes nothing of a deck that no piece waited for. -/
theorem State.tellSpan_unstall (hs : s.memWf = true) (hl : ∀ x ∈ s.stalled, x.1 / 2 ^ 32 ≠ k) :
    (s.tellSpan k).unstall.fixed k = s.fixed k ∧
      ∀ a, a / 2 ^ 32 = k → Tab.get deckFill (s.tellSpan k).unstall.mem a = Tab.get deckFill s.mem a := by
  have hin := s.tellSpan_inner k
  have hmem := State.mem_of_inner hin
  have hsp := State.fixed_of_spans (State.spans_of_inner hin)
  have hst := State.stalled_of_inner hin
  generalize s.tellSpan k = u at hmem hsp hst ⊢
  refine ⟨congrFun (u.unstall_fixed.trans hsp) k, fun a ha => ?_⟩
  rw [u.unstall_out (by rw [State.memWf, hmem]; exact hs) k (fun x hx => hl x (hst ▸ hx)) a ha, hmem]

theorem Deck.of_fixed {d e : Deck} (h : d.fixed = e.fixed) :
    d.offline = e.offline ∧ d.retraining = e.retraining ∧ d.withdrawn = e.withdrawn :=
  ⟨(congrArg Deck.offline h :), (congrArg Deck.retraining h :), (congrArg Deck.withdrawn h :)⟩

theorem State.withdrawLast_deck : ((s.withdrawLast k ch).deck k).offline = (s.deck k).offline ∧
    ((s.withdrawLast k ch).deck k).retraining = (s.deck k).retraining ∧
    ∀ r ∈ [252, 253, 254, 255], r ∈ ((s.withdrawLast k ch).deck k).withdrawn := by
  have hw := State.withdraws_deck k [252, 253, 254, 255] s
  rw [State.withdrawLast]
  generalize [252, 253, 254, 255].foldl (fun s r => s.withdraw k r (r * 4096) 4) s = t at hw ⊢
  obtain ⟨ho, hr, hw⟩ := hw
  exact ⟨ho, hr, fun r hm => hw r (.inl hm)⟩

/-- A channel that goes offline leaves its deck without it, the contents and the last regions gone. -/
theorem State.channelOff_of (hs : s.memWf = true) : ((s.channelOff k ch).deck k).offline = some ch ∧
    ((s.channelOff k ch).deck k).retraining = (List.range 64).find? (fun x => x != ch && ((s.deck k).chan x).trigger) ∧
    (∀ r ∈ [252, 253, 254, 255], r ∈ ((s.channelOff k ch).deck k).withdrawn) ∧
    ∀ a, a < 2 ^ 32 → Tab.get deckFill (s.channelOff k ch).mem (k * 2 ^ 32 + a) = 0 := by
  obtain ⟨ho, hr, hw⟩ := (s.channelGone k ch).withdrawLast_deck k ch
  have hmem := ((s.channelGone k ch).withdrawLast_mem k ch).trans (s.channelGone_mem k ch)
  have hst := ((s.channelGone k ch).withdrawLast_stalled k ch).trans (s.channelGone_stalled k ch)
  rw [s.channelGone_offline] at ho
  rw [s.channelGone_retraining] at hr
  rw [s.channelOff_eq]
  generalize (s.channelGone k ch).withdrawLast k ch = v at ho hr hw hmem hst ⊢
  obtain ⟨hfix, hbyte⟩ := v.tellSpan_unstall k (by rw [State.memWf, hmem]; exact Tab.wf_clear deckFill s.mem _ _ hs)
    (fun x hx => by rw [hst] at hx; simpa using (List.mem_filter.mp hx).2)
  obtain ⟨h1, h2, h3⟩ := Deck.of_fixed hfix
  refine ⟨h1.trans ho, h2.trans hr, fun r hm => by rw [h3]; exact hw r hm, fun a ha => ?_⟩
  rw [hbyte _ (by omega), hmem, Tab.get_clear deckFill s.mem _ _ _ hs, if_pos (by omega)]
  rfl

end

/-! ## Steps on the span of a channel that is to go offline (R261) -/

/-- Whether a partition's step is still to end. -/
def Partition.running (p : Partition) : Bool := p.stepJob.any (fun j => j.done.isNone)

theorem Partition.course_running (p : Partition) : p.course.running = p.running := by
  have h : p.course.job = p.job.course := rfl
  unfold Partition.running Partition.stepJob
  rw [h]
  cases p.job <;> rfl

section
variable (s : State) (k ch : Nat)

theorem State.channelHalt_courses : (s.channelHalt k ch).courses = s.courses :=
  foldl_keeps State.courses (fun s p => s.faultStep p true) (fun t p => t.faultStep_courses p true) _ s

theorem State.channelHalt_mem : (s.channelHalt k ch).mem = s.mem :=
  foldl_keeps State.mem (fun s p => s.faultStep p true) (fun t p => State.mem_of_stored (t.faultStep_stored p true)) _ s

theorem State.channelHalt_deck : (s.channelHalt k ch).deck k = { s.deck k with failing := some ch } := by
  have hsp := foldl_keeps State.spans (fun s p => s.faultStep p true) (fun t p => t.faultStep_spans p true) (s.partsOn k) s
  have hd : ((s.partsOn k).foldl (fun s p => s.faultStep p true) s).deck k = s.deck k :=
    congrArg (fun l => (Tab.get Span.reset l k).deck) hsp
  rw [State.channelHalt, State.deck_setDeck, hd]

theorem State.channelHalt_running : (s.channelHalt k ch).partsOn k = s.partsOn k ∧
    ∀ p, ((s.channelHalt k ch).part p).running = (s.part p).running :=
  ⟨State.partsOn_of_courses (s.channelHalt_courses k ch) k,
    State.of_courses (s.channelHalt_courses k ch) Partition.running Partition.course_running⟩

end

/-- A step that is faulted, and not to be repeated. -/
def Partition.stopped (p : Partition) : Prop := ∃ j, p.stepJob = some j ∧ j.faulted = true ∧ j.prog = true

/-- A partition's step that has not committed. -/
def Partition.open_ (p : Partition) : Prop := ∃ j, p.stepJob = some j ∧ j.committed = false

section
variable {s : State} {p : Nat}

theorem State.faultStep_stops (h : (s.part p).open_) : ((s.faultStep p true).part p).stopped := by
  obtain ⟨j, hj, hc⟩ := h
  exact ⟨_, s.faultStep_stepJob p true hj hc, rfl, Bool.or_true _⟩

theorem State.faultStep_open (q : Nat) (h : (s.part p).open_) : ((s.faultStep q true).part p).open_ := by
  obtain ⟨j, hj, hc⟩ := h
  obtain ⟨i, hi, hij⟩ := Partition.stepJob_of_course (State.course_of_courses (s.faultStep_courses q true) p) hj
  exact ⟨i, hi, (congrArg StepJob.committed hij :).trans hc⟩

theorem State.faultStep_part_ne {q : Nat} (h : p ≠ q) : (s.faultStep q true).part p = s.part p := by
  rw [State.faultStep]
  split
  · rw [State.part_congr (State.reportAll_parts ..), State.onStep]
    split
    · exact s.part_setPart_ne q p _ h
    · rfl
  · rfl

theorem State.faultStep_stopped (q : Nat) (h : (s.part p).stopped) : ((s.faultStep q true).part p).stopped := by
  by_cases hq : p = q
  · subst hq
    obtain ⟨j, hj, hf, hp⟩ := h
    cases hc : j.committed with
    | false => exact State.faultStep_stops ⟨j, hj, hc⟩
    | true =>
      have hn : s.stepOpen p = false := by simp [State.stepOpen, hj, hc]
      rw [State.faultStep, if_neg (by rw [hn]; exact Bool.false_ne_true)]
      exact ⟨j, hj, hf, hp⟩
  · rw [State.faultStep_part_ne hq]
    exact h

/-- The faults of several partitions' steps, each with what follows it, stop each one that is open. -/
theorem State.faultSteps_stop (g : State → Nat → State) (hg : ∀ t q r, (g t q).part r = (t.faultStep q true).part r) {l : List Nat}
    (hm : p ∈ l) (h : (s.part p).open_) : ((l.foldl g s).part p).stopped := by
  induction l generalizing s with
  | nil => exact absurd hm List.not_mem_nil
  | cons q l ih =>
    rw [List.foldl_cons]
    by_cases hq : p = q
    · subst hq
      refine List.foldlRecOn l _ (motive := fun t : State => (t.part p).stopped) ?_ (fun t ht r _ => ?_)
      · rw [hg]
        exact State.faultStep_stops h
      · rw [hg]
        exact State.faultStep_stopped r ht
    · refine ih ((List.mem_cons.mp hm).resolve_left hq) ?_
      rw [hg]
      exact State.faultStep_open q h

end

section
variable {s : State} {span : Fin 16} {k : Nat} (hr : (s.deck span).retraining = some k) (ho : (s.deck span).offline = none)
include hr ho

theorem exec_channelOffline_of : exec (.channelOffline span) s = .next
    (if (s.partsOn span).any (fun p => (s.part p).running) then s.channelHalt span k
      else (s.channelHalt span k).channelOff span k) := by
  obtain ⟨hp, hrun⟩ := s.channelHalt_running span k
  have hset : (s.channelHalt span k).settleChannel span =
      if ((s.channelHalt span k).partsOn span).any (fun p => ((s.channelHalt span k).part p).running) then s.channelHalt span k
      else (s.channelHalt span k).channelOff span k := by
    rw [State.settleChannel, State.channelHalt_deck]
    rfl
  rw [hp] at hset
  simp only [hrun] at hset
  rw [exec_channelOffline, execChannelOffline]
  simp only [hr, ho, hset]

end

/-! ## Calibration and triggers (R255, R260) -/

/-- Where a calibration step may run, and what it leaves. -/
theorem exec_calibrationStep_of {s : State} {span : Fin 16} {ch : Fin 64} {cycle : Nat} (ok : Bool) :
    ((s.deck span).pow = .on ∧ (s.deck span).retraining ≠ some ch.val ∧ s.waitingAt span ch = [] ∧
        (((s.deck span).chan ch).last + 1000 ≤ cycle ∨ s.spanQuiet span = true) →
      exec (.calibrationStep span ⟨ch, cycle⟩ ok) s = .next (s.setDeck span
        (if ok then { s.deck span with now := max (s.deck span).now cycle }
          else ({ s.deck span with now := max (s.deck span).now cycle } : Deck).trigger ch))) ∧
    (¬((s.deck span).pow = .on ∧ (s.deck span).retraining ≠ some ch.val ∧ s.waitingAt span ch = [] ∧
        (((s.deck span).chan ch).last + 1000 ≤ cycle ∨ s.spanQuiet span = true)) →
      exec (.calibrationStep span ⟨ch, cycle⟩ ok) s = .next s) := by
  have hmay : ((s.deck span).pow == .on && (s.deck span).retraining != some ch.val && (s.waitingAt span ch).isEmpty &&
      (decide (((s.deck span).chan ch).last + 1000 ≤ cycle) || s.spanQuiet span)) = true ↔
      (s.deck span).pow = .on ∧ (s.deck span).retraining ≠ some ch.val ∧ s.waitingAt span ch = [] ∧
        (((s.deck span).chan ch).last + 1000 ≤ cycle ∨ s.spanQuiet span = true) := by
    simp [and_assoc]
  rw [← hmay]
  exact ⟨fun h => congrArg Host.Outcome.next (if_pos h), fun h => congrArg Host.Outcome.next (if_neg h)⟩

theorem exec_channelRetrain_of {s : State} {span : Fin 16} {ch : Fin 64} {errors : Nat} (h : (s.deck span).rtthr < errors) :
    exec (.channelRetrain span ch errors) s = .next (s.setDeck span ((s.deck span).trigger ch)) :=
  congrArg Host.Outcome.next (if_pos h)

/-- An interval of a channel of a deck that is on. -/
theorem exec_refresh_of {s : State} {span : Fin 16} (ch : Fin 64) (temp : Byte) (waiting : Bool) (hp : (s.deck span).pow = .on)
    {x : Bool × Chan} (hx : ((s.deck span).chan ch).refresh
      ((waiting || !(s.waitingAt span ch).isEmpty) && (s.deck span).retraining != some ch.val) = x) :
    exec (.refresh span ch temp waiting) s = .next (s.setDeck span { (s.deck span).setChan ch x.2 with
      temp := temp.toNat, hot := decide (85 < temp.toNat)
      forced := (if x.1 then satInc 24 (s.deck span).forced else (s.deck span).forced)
      maxowed := max (s.deck span).maxowed x.2.owed }) := by
  rw [exec_refresh, execRefresh]
  simp only [hp, ne_eq, not_true_eq_false, if_false, hx]

theorem exec_scrubComplete_of {s : State} {span : Fin 16} (hn : (s.deck span).scrub ≠ []) (hr : (s.deck span).retraining = none) :
    exec (.scrubComplete span) s = .next (s.scrubDone span) := by
  refine congrArg Host.Outcome.next (if_neg ?_)
  rw [hr, List.isEmpty_eq_false_iff.mpr hn]
  exact Bool.false_ne_true

/-- What an interval leaves of its deck. -/
theorem State.refresh_shows (s : State) (span : Fin 16) (ch : Fin 64) (waiting : Bool) {x : Bool × Chan}
    (hx : ((s.deck span).chan ch).refresh
      ((waiting || !(s.waitingAt span ch).isEmpty) && (s.deck span).retraining != some ch.val) = x) :
    (x.1 = true ↔ (((waiting = true ∨ s.waitingAt span ch ≠ []) ∧ (s.deck span).retraining ≠ some ch.val) ∨
      64 ≤ ((s.deck span).chan ch).wbuf.length) ∧ 8 ≤ ((s.deck span).chan ch).owed) ∧
    x.2.owed = if ¬(((waiting = true ∨ s.waitingAt span ch ≠ []) ∧ (s.deck span).retraining ≠ some ch.val) ∨
      64 ≤ ((s.deck span).chan ch).wbuf.length) then 0 else if 8 ≤ ((s.deck span).chan ch).owed then ((s.deck span).chan ch).owed
        else ((s.deck span).chan ch).owed + 1 := by
  obtain ⟨h1, h2⟩ := Chan.refresh_eq ((s.deck span).chan ch)
    ((waiting || !(s.waitingAt span ch).isEmpty) && (s.deck span).retraining != some ch.val)
  simp only [refresh_loaded] at h1 h2
  rw [hx] at h1 h2
  exact ⟨h1, h2⟩

theorem State.land_stalled (s : State) (dev : Nat) (bs : List Byte) : (s.land dev bs).stalled = s.stalled := by
  have hc : (s.clearPoison dev bs.length).stalled = s.stalled := by
    simp only [State.clearPoison]
    split <;> rfl
  exact hc

theorem State.mergesPoison_of_cells {s t : State} (h : t.cells = s.cells) (dev n : Nat) :
    t.mergesPoison dev n = s.mergesPoison dev n := by
  simp only [State.mergesPoison, State.poisoned_of_cells h]

/-- A piece that waited for the channel is written where nothing else stops it. -/
theorem State.nextRetrain_lands {s : State} (hs : s.memWf = true) (k : Nat) {dev : Nat} {bs : List Byte}
    (h : s.stalled = [(dev, bs)]) (hl : dev % 64 + bs.length ≤ 64) {t : State} (ht : t = s.setDeck k (s.deck k).nextRetrain)
    (hr : (t.deck (dev / 2 ^ 32)).retraining ≠ some ((t.deck (dev / 2 ^ 32)).channel (dev % 2 ^ 32)))
    (hm : s.mergesPoison dev bs.length = false) (hn : s.regionHolder (dev / 2 ^ 32) (dev / 2 ^ 24 % 256) = none) :
    t.unstall.stalled = [] ∧ ∀ a, Tab.get deckFill t.unstall.mem a =
      if dev ≤ a ∧ a < dev + bs.length then bs.getD (a - dev) 0 else Tab.get deckFill s.mem a := by
  have hst : t.stalled = [(dev, bs)] := by
    rw [ht]
    exact h
  have hmt : t.mergesPoison dev bs.length = false := by
    rw [ht, State.mergesPoison_of_cells (s.nextRetrain_cells k)]
    exact hm
  have hnt : t.regionHolder (dev / 2 ^ 32) (bits dev 24 8) = none := by
    rw [ht, bits_region]
    exact hn
  have hmem : t.mem = s.mem := by
    rw [ht]
    rfl
  rw [State.unstall_one_lands hst hl hr hmt hnt]
  refine ⟨State.land_stalled .., fun a => ?_⟩
  have hw : ({ t with stalled := [] } : State).memWf = true := by
    rw [State.memWf]
    exact hmem ▸ hs
  rw [State.land_byte hw]
  exact if_congr Iff.rfl rfl (congrArg (fun m => Tab.get deckFill m a) hmem)

/-- Settles O36: each command by what it leaves of its deck, the memory by what is cleared or lands. -/
theorem deckUpkeep : Obligations.DeckUpkeep := by
  unfold Obligations.DeckUpkeep
  intro span ch cycle errors temp waiting addr s hs
  dsimp only
  refine ⟨fun hp => ⟨fun h => ⟨_, exec_writeBufferDrain_of hp h, rfl, ?_, ?_, fun k hk => ?_⟩,
    ⟨_, exec_refresh_of ch temp waiting hp rfl, rfl, ?_⟩⟩, fun h hv hw => ?_, fun hn hr => ?_, ⟨fun h => ?_, fun ok h => ?_⟩,
    exec_channelRetrain_of, fun hp ho => ⟨fun hr => ?_, fun k hr hk => ?_⟩, fun k hr hf => ?_, fun k hr ho hstill => ?_,
    fun k hr ho hrun => ?_⟩
  · rw [State.deck_setDeck, Deck.drain_touch_wbuf]
  · rw [State.deck_setDeck]
    rfl
  · rw [State.deck_setDeck, Deck.drain_touch_chan_ne _ _ _ hk]
  · obtain ⟨h1, h2⟩ := s.refresh_shows span ch waiting rfl
    rw [State.deck_setDeck]
    exact ⟨rfl, rfl, (congrArg Chan.owed (Deck.chan_setChan ..)).trans h2, if_congr h1 rfl rfl⟩
  · obtain ⟨hdone, hnew⟩ := exec_scrubWrite_of h hv hw
    refine ⟨hdone, fun hd => ?_⟩
    obtain ⟨t, ht, hm⟩ := hnew hd
    exact ⟨t, ht, fun a => by rw [hm]; exact byte_zeroGranule s hs _ a⟩
  · obtain ⟨h1, h2⟩ := State.scrubDone_of hs span
    exact ⟨_, exec_scrubComplete_of hn hr, h1, h2⟩
  · exact ⟨(exec_calibrationStep_of true).1 h, (exec_calibrationStep_of false).1 h⟩
  · exact (exec_calibrationStep_of ok).2 h
  · rw [Deck.trigger_now _ _ hp ho hr]
    exact ⟨rfl, Deck.retrain_wbuf ..⟩
  · rw [Deck.trigger_later _ _ hp ho hr hk]
    exact ⟨hr, congrArg Chan.trigger (Deck.chan_setChan ..)⟩
  · refine ⟨_, exec_channelRetrainDone_of hr hf, ?_, fun hn => State.unstall_nil hn, fun dev bs hst hl => ⟨fun hx => ?_,
      fun hx hm hh => ?_⟩⟩
    · rw [State.unstall_retraining, State.deck_setDeck, Deck.nextRetrain_retraining]
    · exact State.unstall_one_waits (s := s.setDeck span (s.deck span).nextRetrain) hst hl hx
    · exact State.nextRetrain_lands hs span hst hl rfl hx hm hh
  · have hno : (s.partsOn span).any (fun p => (s.part p).running) = false := by
      rw [List.any_eq_false]
      exact fun p hp => by rw [Partition.running, hstill p hp]; exact Bool.false_ne_true
    obtain ⟨h1, h2, h3, h4⟩ := (s.channelHalt span k).channelOff_of span k (by
      rw [State.memWf, State.channelHalt_mem]
      exact hs)
    rw [State.channelHalt_deck] at h2
    exact ⟨_, (exec_channelOffline_of hr ho).trans (congrArg Host.Outcome.next (if_neg (by rw [hno]; exact Bool.false_ne_true))),
      h1, h2, h3, h4⟩
  · have hany : (s.partsOn span).any (fun p => (s.part p).running) = true := List.any_eq_true.mpr hrun
    refine ⟨_, (exec_channelOffline_of hr ho).trans (congrArg Host.Outcome.next (if_pos hany)), s.channelHalt_mem span k, ?_,
      fun p hp j hj hc => State.faultSteps_stop _ (fun _ _ _ => rfl) hp ⟨j, hj, hc⟩⟩
    rw [State.channelHalt_deck]

end Sys2Proof.Machine

/-! # Flits and edges (O38)

An arrival is asked for again, dropped, left or accepted, by its checks and by what the edge has sent; what is accepted is delivered,
passed on or refused. A failed edge changes only edges and the steps that it faults. -/

namespace Sys2Proof.Machine

/-! ## What becomes of an arrival (R266, R268) -/

/-- A flit with its errors corrected, which names it and its order as before. -/
def cleaned (f : Flit) : Flit := { f with wrong := 0 }

theorem flitId_cleaned (f : Flit) : flitId (cleaned f) = flitId f := rfl
theorem orderKey_cleaned (f : Flit) : orderKey (cleaned f) = orderKey f := rfl

theorem Edge.judge_cleaned (e : Edge) (f : Flit) : e.judge (cleaned f) = e.judge f := by
  rw [Edge.judge, flitId_cleaned, orderKey_cleaned, Edge.judge]

section
variable {e : Edge} {f : Flit}

theorem Edge.judge_dup (h : flitId f ∈ e.dups) : e.judge f = .duplicate := by
  rw [Edge.judge, if_pos (List.contains_iff_mem.mpr h)]

variable (hd : flitId f ∉ e.dups)
include hd

/-- One that is in the buffer and not lacking had been accepted. -/
theorem Edge.judge_had (hl : ∀ y ∈ e.lacking, flitId y ≠ flitId f) (hb : ∃ x ∈ e.buf, flitId x.1 = flitId f) :
    e.judge f = .duplicate := by
  have hbuf : e.buf.any (fun x => flitId x.1 == flitId f) = true := by simpa using hb
  have hlack : e.lacking.any (fun g => flitId g == flitId f) = false := by simpa using hl
  rw [Edge.judge, if_neg (by simpa using hd)]
  split
  · next g hg =>
    rw [if_neg (hl g (List.mem_of_find?_eq_some hg)), hlack, if_neg Bool.false_ne_true, if_pos hbuf]
  · rw [if_pos hbuf]

/-- One whose order an older one keeps is left. -/
theorem Edge.judge_early {y : Flit} (hy : e.lacking.find? (fun g => orderKey g == orderKey f) = some y) (hn : flitId y ≠ flitId f)
    (hz : ∃ z ∈ e.lacking, flitId z = flitId f) : e.judge f = .early := by
  rw [Edge.judge, if_neg (by simpa using hd), hy]
  dsimp only
  rw [if_neg hn, if_pos (by simpa using hz)]

/-- The oldest of its order, and one that the edge did not send, is accepted. -/
theorem Edge.judge_accepted (h : (∃ y, e.lacking.find? (fun g => orderKey g == orderKey f) = some y ∧ flitId y = flitId f) ∨
    ∀ x ∈ e.buf, flitId x.1 ≠ flitId f) : e.judge f = .accepted := by
  rw [Edge.judge, if_neg (by simpa using hd)]
  rcases h with ⟨y, hy, hi⟩ | hb
  · rw [hy]
    exact if_pos hi
  · have hbuf : e.buf.any (fun x => flitId x.1 == flitId f) = false := by simpa using hb
    have hlack : e.lacking.any (fun g => flitId g == flitId f) = false := by
      rw [List.any_eq_false]
      intro g hg
      obtain ⟨x, hx, rfl⟩ := List.mem_map.mp hg
      simpa using hb x (List.mem_filter.mp hx).1
    split
    · rw [hlack, hbuf]
      split <;> rfl
    · rw [hbuf]
      rfl

end

section
variable {at_ : Fin 23} {inEdge : Fin 7} {die side : Nat} (hin : incoming at_ inEdge = some (die, side)) (f : Flit) (s : State)
include hin

/-- A flit whose checks fail is asked for again. -/
theorem exec_flitReceive_asks (h : flitOk f = false ∨ rsVerdict f.wrong = .uncorrectable) :
    exec (.flitReceive at_ inEdge f) s =
      .next (s.setEdge die side ((s.edge die side).askReplay ((s.edge die side).failKey f))) := by
  rw [exec_flitReceive, execFlitReceive]
  cases hok : flitOk f with
  | false => simp only [hin, Bool.not_false, if_true]
  | true =>
    have hv := h.resolve_left (by rw [hok]; decide)
    simp only [hin, State.decodeFlit, hv, Bool.not_true, Bool.false_eq_true, if_false]

variable (hok : flitOk f = true) (hw : f.wrong ≤ 2)

omit hin in
include hw in
theorem State.decodeFlit_of : s.decodeFlit f = (some (cleaned f), decide (f.wrong ≠ 0), s) := by
  by_cases h0 : f.wrong = 0
  · have hv : rsVerdict f.wrong = .clean := if_pos h0
    have hc : decide (f.wrong ≠ 0) = false := by simp [h0]
    have hf : (cleaned f) = f := by
      rw [cleaned, ← h0]
    simp only [State.decodeFlit, hv, hf, hc]
  · have hv : rsVerdict f.wrong = .corrected := (if_neg h0).trans (if_pos hw)
    simp only [State.decodeFlit, hv, ne_eq, h0, not_false_eq_true, decide_true]
    rfl

include hok hw

theorem exec_flitReceive_early (hj : (s.edge die side).judge f = .early) : exec (.flitReceive at_ inEdge f) s = .next s := by
  rw [exec_flitReceive, execFlitReceive]
  simp only [hin, hok, State.decodeFlit_of f s hw, Edge.judge_cleaned, hj, Bool.not_true, Bool.false_eq_true, if_false]

theorem exec_flitReceive_duplicate (hj : (s.edge die side).judge f = .duplicate) :
    exec (.flitReceive at_ inEdge f) s = .next (s.setEdge die side { (s.edge die side).arrived (cleaned f) (decide (f.wrong ≠ 0)) with
      dups := (s.edge die side).dups.erase (flitId f) }) := by
  rw [exec_flitReceive, execFlitReceive]
  simp only [hin, hok, State.decodeFlit_of f s hw, Edge.judge_cleaned, flitId_cleaned, hj, Bool.not_true, Bool.false_eq_true, if_false]

theorem exec_flitReceive_accepted (hj : (s.edge die side).judge f = .accepted) :
    exec (.flitReceive at_ inEdge f) s =
      .next (((s.setEdge die side ((s.edge die side).arrived (cleaned f) (decide (f.wrong ≠ 0)))).acceptFlit die side (cleaned f)).routeFlit
        inEdge at_ (cleaned f)) := by
  rw [exec_flitReceive, execFlitReceive]
  simp only [hin, hok, State.decodeFlit_of f s hw, Edge.judge_cleaned, hj, Bool.not_true, Bool.false_eq_true, if_false]

end

/-- A good arrival ends the row of its failures, and a correction is counted. -/
theorem Edge.arrived_eq (e : Edge) (f : Flit) : e.arrived (cleaned f) (decide (f.wrong ≠ 0)) = { e with
    fails := if e.buf.any (fun x => flitId x.1 == flitId f) then Tab.set 0 e.fails (flitId f + 1) 0
      else Tab.set 0 (Tab.set 0 e.fails (flitId f + 1) 0) 0 0
    corr := if f.wrong = 0 then e.corr else e.corr + 1 } := by
  have hc : e.corr + b2n (decide (f.wrong ≠ 0)) = if f.wrong = 0 then e.corr else e.corr + 1 := by
    by_cases h : f.wrong = 0 <;> simp [h, b2n]
  rw [← hc]
  rfl

/-! ## Delivery (R267, R269) -/

section
variable (s : State) {inp die : Nat} {f : Flit}

section
variable (hd : f.dst.toNat = die)
include hd

theorem State.routeFlit_here : s.routeFlit inp die f = s.deliverFlit die f := by
  rw [State.routeFlit, if_pos hd]

/-- A flit of the lower types is delivered where the place accepts its partition, -/
theorem State.routeFlit_accepts (ht : f.type.toNat < 7) (ha : s.acceptsPart die f = true) :
    s.routeFlit inp die f = (s.trackWrite die f).emit (s.delivered die f) := by
  rw [s.routeFlit_here hd, State.deliverFlit]
  split
  · omega
  · omega
  · rw [if_neg (by omega), if_pos ha]

/-- and else logged, and answered or, being a response, faulted. -/
theorem State.routeFlit_refuses (ht : f.type.toNat < 7) (ha : s.acceptsPart die f = false) : s.routeFlit inp die f =
    if f.type.toNat = 3 ∨ f.type.toNat = 4 then (s.note f.part.toNat (256 + die) 269 0).nakArrives die f
    else (s.note f.part.toNat (256 + die) 269 0).inject die (nakOf die f) := by
  rw [s.routeFlit_here hd, State.deliverFlit]
  split
  · omega
  · omega
  · rw [if_neg (by omega), ha, if_neg Bool.false_ne_true]

theorem State.routeFlit_nak (ht : f.type.toNat = 7) : s.routeFlit inp die f = (s.emit (.deliver die f)).nakArrives die f := by
  rw [s.routeFlit_here hd]
  simp only [State.deliverFlit, ht]

/-- A control write of another die than the signal box is dropped and counted. -/
theorem State.routeFlit_control (ht : f.type.toNat = 8) : s.routeFlit inp die f =
    if f.srcd.toNat = 22 then s.emit (.deliver die f)
    else { s with ctlDrops := Tab.ins die (satInc 32 (Tab.get 0 s.ctlDrops die)) s.ctlDrops } := by
  rw [s.routeFlit_here hd]
  simp only [State.deliverFlit, ht]

end

variable (hd : f.dst.toNat ≠ die) (hf : forwards die f = true)
include hd hf

/-- A flit whose route is not installed is logged and answered. -/
theorem State.routeFlit_unrouted (hn : s.nextSide die f = none) : s.routeFlit inp die f =
    (s.note f.part.toNat (256 + die) 271 0).inject die (nakOf die f) := by
  simp only [State.routeFlit, if_neg hd, hf, hn, Bool.not_true, Bool.false_eq_true, if_false]

/-- One of the default route leaves by its side. -/
theorem State.routeFlit_default (hdef : f.deflt = true) {k : Nat} {rest : List Nat} (hr : defaultRoute die f.dst.toNat = k :: rest) :
    s.routeFlit inp die f = s.sendFlit inp die k f := by
  have hn : s.nextSide die f = some (k, f) := by
    rw [State.nextSide, hdef, Bool.true_or, Bool.true_or, if_pos rfl, hr]
    rfl
  simp only [State.routeFlit, if_neg hd, hf, hn, Bool.not_true, Bool.false_eq_true, if_false]

end

/-! ## An edge fails (R273) -/

theorem Tab.mem_keys_of_get_ne {α : Type} (d : α) (m : Tab α) (i : Nat) (h : Tab.get d m i ≠ d) : i ∈ m.map (·.1) := by
  induction m with
  | nil => exact absurd rfl h
  | cons p m ih =>
    obtain ⟨k, v⟩ := p
    rw [Tab.get] at h
    rw [List.map_cons]
    split at h
    · next hk => exact hk ▸ List.mem_cons_self
    · split at h
      · exact absurd rfl h
      · exact List.mem_cons_of_mem _ (ih h)

/-- An edge is out of use, with all that it held. -/
def State.killEdge (s : State) (p : Nat × Nat) : State :=
  s.setEdge p.1 p.2 { s.edge p.1 p.2 with st := .failed, held := [], buf := [], dups := [], used := [] }

section
variable {s : State} (p : Nat × Nat)

theorem State.killEdge_st : ((s.killEdge p).edge p.1 p.2).st = .failed := congrArg Edge.st (s.edge_setEdge ..)

/-- An edge that has failed stays so. -/
theorem State.killEdge_keeps {die side : Nat} (h : (s.edge die side).st = .failed) :
    ((s.killEdge p).edge die side).st = .failed := by
  by_cases hk : die * 8 + side = p.1 * 8 + p.2
  · have he : (s.killEdge p).edge die side = (s.killEdge p).edge p.1 p.2 := by rw [State.edge, hk, ← State.edge]
    rw [he, State.killEdge_st]
  · exact (congrArg Edge.st (Tab.get_ins_ne _ _ _ _ _ hk)).trans h

end

/-! ## What an end that goes on leaves (R133) -/

section
variable (s : State) (q : Nat) {p : Nat}

theorem State.settleVfs_parts : s.settleVfs.parts = s.parts := by
  unfold State.settleVfs
  split <;> rfl

section
variable (h : p ≠ q)
include h

theorem State.clearTenancy_part_ne : (s.clearTenancy q).part p = s.part p := by
  have hz : (((s.freeGroups q).freeSiding q).zeroStreams (s.part q).rings).parts = s.parts :=
    foldl_keeps State.parts (fun (s : State) i => { s with srCopy := Tab.clear s.srCopy (i * 16) 16 }) (fun _ _ => rfl) _ _
  unfold State.clearTenancy
  dsimp only
  rw [State.part_congr (State.settleVfs_parts _), State.part_setPart_ne _ _ _ _ h]
  split
  · exact (State.part_congr (State.setFn_parts ..) p).trans (State.part_congr hz p)
  · exact State.part_congr hz p

theorem State.release_part_ne : (s.release q).part p = s.part p := by
  have hf := foldl_keeps State.parts (fun (s : State) (x : Nat × Nat) =>
    s.setDeck x.1 { s.deck x.1 with owner := Tab.del x.2 (s.deck x.1).owner, clean := [] }) (fun _ _ => rfl)
    (s.part q).regionPairs s
  refine (State.part_congr (State.meterEvent_parts ..) p).trans ((State.part_congr (State.restFree_keeps _).2 p).trans ?_)
  exact (State.part_setPart_ne _ _ _ _ h).trans (State.part_congr hf p)

theorem State.beginTenancy_part_ne (vf : Nat) : (s.beginTenancy q vf).part p = s.part p := State.part_setPart_ne _ _ _ _ h

/-- The end of a partition leaves the others. -/
theorem State.finishEnd_part_ne : (s.finishEnd q).part p = s.part p := by
  have hc := s.clearTenancy_part_ne q h
  unfold State.finishEnd
  split
  · split
    · rfl
    · rw [State.part_congr (State.parts_of_inner (State.reply_inner ..)), State.release_part_ne _ _ h, hc]
  · split
    · rfl
    · extract_lets -underBinder t u
      have ht : t.part p = s.part p := (State.part_congr (State.meterEvent_parts ..) p).trans hc
      have hu : u.part p = s.part p := by
        unfold u
        split
        · rw [State.beginTenancy_part_ne _ _ h, ht]
        · exact ht
      split
      · rw [State.part_congr (State.parts_of_inner (State.complete_inner ..)), hu]
      · exact hu
  · rfl

end

/-- A partition in a step has no end that goes on. -/
theorem State.finishEnd_part {j : StepJob} (hj : (s.part p).stepJob = some j) : (s.finishEnd q).part p = s.part p := by
  by_cases h : p = q
  · subst h
    simp only [State.finishEnd, Partition.job_of_stepJob hj]
  · exact s.finishEnd_part_ne q h

theorem State.finishEnds_part {j : StepJob} (hj : (s.part p).stepJob = some j) : s.finishEnds.part p = s.part p :=
  List.foldlRecOn (List.range 64) State.finishEnd (motive := fun t => t.part p = s.part p) rfl
    (fun t ht q _ => (t.finishEnd_part q (by rw [ht]; exact hj)).trans ht)

end

/-! ## What an edge that fails leaves (R273) -/

/-- The step of a partition is faulted, not to be repeated, and it is told of the edge. -/
def State.edgeFault (s : State) (name p : Nat) : State := (s.faultStep p true).notify p 6 name

section
variable (s : State) (name : Nat)

theorem State.edgeFault_part (p q : Nat) : (s.edgeFault name q).part p = (s.faultStep q true).part p :=
  State.part_congr (State.parts_of_inner (State.notify_inner ..)) p

theorem State.edgeFault_lasting (q : Nat) : (s.edgeFault name q).mem = s.mem ∧ (s.edgeFault name q).edges = s.edges := by
  have hin := (s.faultStep q true).notify_inner q 6 name
  have hf : (s.faultStep q true).edges = s.edges := by
    rw [State.faultStep]
    split
    · rw [State.reportAll_edges]
      simp only [State.onStep]
      split <;> rfl
    · rfl
  exact ⟨(State.mem_of_inner hin).trans (State.mem_of_stored (s.faultStep_stored q true)), (State.edges_of_inner hin).trans hf⟩

end

/-- Both directions of an edge are out of use. -/
def State.killBoth (s : State) (die side : Nat) : State :=
  match backEdge die side with
  | some p => (s.killEdge (die, side)).killEdge p
  | none => s.killEdge (die, side)

/-- Every partition's step is faulted for an edge. -/
def State.edgeFaults (s : State) (name : Nat) : State := (s.parts.map (·.1)).foldl (fun s p => s.edgeFault name p) s

theorem State.edgeFail_eq (s : State) (die side : Nat) : s.edgeFail die side =
    ((((s.killBoth die side).note 0xFF (256 + die) 273 side).edgeFaults (edgeName die side)).finishEnds).freeColls := by
  unfold State.killBoth State.edgeFail
  generalize backEdge die side = o
  cases o <;> rfl

section
variable (s : State) (die side : Nat)

theorem State.killBoth_keeps : (s.killBoth die side).parts = s.parts ∧ (s.killBoth die side).mem = s.mem := by
  rw [State.killBoth]
  split <;> exact ⟨rfl, rfl⟩

theorem State.killBoth_st : ((s.killBoth die side).edge die side).st = .failed ∧
    ∀ d k, backEdge die side = some (d, k) → ((s.killBoth die side).edge d k).st = .failed := by
  have h := s.killEdge_st (die, side)
  rw [State.killBoth]
  split
  · next p hp => exact ⟨State.killEdge_keeps p h, fun d k hb => by cases hp.symm.trans hb; exact State.killEdge_st ..⟩
  · next hp => exact ⟨h, fun d k hb => by cases hp.symm.trans hb⟩

end

/-- The faults for an edge, and the ends that then go on, write no deck, change no edge, and stop each step that is open. -/
theorem State.edgeFaults_of (s : State) (name : Nat) : (s.edgeFaults name).finishEnds.mem = s.mem ∧
    (s.edgeFaults name).finishEnds.edges = s.edges ∧ ∀ p, (s.part p).open_ → ((s.edgeFaults name).finishEnds.part p).stopped := by
  have hm : (s.edgeFaults name).mem = s.mem := foldl_keeps State.mem _ (fun t p => (t.edgeFault_lasting name p).1) _ s
  have he : (s.edgeFaults name).edges = s.edges := foldl_keeps State.edges _ (fun t p => (t.edgeFault_lasting name p).2) _ s
  obtain ⟨hlast, -⟩ := Prod.mk.inj (s.edgeFaults name).finishEnds_lasting
  obtain ⟨hem, hee⟩ := Prod.mk.inj hlast
  refine ⟨hem.trans hm, hee.trans he, fun p hp => ?_⟩
  have hkey : p ∈ s.parts.map (·.1) := by
    obtain ⟨j, hj, -⟩ := hp
    exact Tab.mem_keys_of_get_ne Partition.reset s.parts p (Partition.ne_reset_of_stepJob hj)
  obtain ⟨i, hi, hf, hg⟩ := State.faultSteps_stop (fun s p => s.edgeFault name p) (fun t q r => t.edgeFault_part name r q) hkey hp
  exact ⟨i, (congrArg Partition.stepJob ((s.edgeFaults name).finishEnds_part hi)).trans hi, hf, hg⟩

/-- A failed edge, but for the frames that go on then. -/
theorem State.edgeFail_of (s : State) (die side : Nat) : ∃ t : State, s.edgeFail die side = t.freeColls ∧ t.mem = s.mem ∧
    (t.edge die side).st = .failed ∧ (∀ d k, backEdge die side = some (d, k) → (t.edge d k).st = .failed) ∧
    ∀ p, (s.part p).open_ → (t.part p).stopped := by
  obtain ⟨hparts, hmem⟩ := s.killBoth_keeps die side
  obtain ⟨h1, h2⟩ := s.killBoth_st die side
  obtain ⟨hm, he, hp⟩ := ((s.killBoth die side).note 0xFF (256 + die) 273 side).edgeFaults_of (edgeName die side)
  rw [State.note_mem] at hm
  rw [State.note_edges] at he
  rw [s.edgeFail_eq]
  generalize (((s.killBoth die side).note 0xFF (256 + die) 273 side).edgeFaults (edgeName die side)).finishEnds = t at hm he hp ⊢
  have hedge (d k : Nat) : t.edge d k = (s.killBoth die side).edge d k := by rw [State.edge, he, ← State.edge]
  refine ⟨t, rfl, hm.trans hmem, by rw [hedge]; exact h1, fun d k hb => by rw [hedge]; exact h2 d k hb, fun p ho => hp p ?_⟩
  rw [State.part_congr (State.note_parts ..), State.part_congr hparts]
  exact ho

/-! ## What Flits states -/

theorem exec_flitReplay_of {s : State} {die : Fin 23} {side : Fin 7} (n fc : Nat) (h : (s.edge die side).st = .active) :
    exec (.flitReplay ⟨die, side⟩ n fc) s =
      .next ((s.setEdge die side { (s.edge die side).resent ((s.edge die side).buf.drop ((s.edge die side).buf.length - n)) with
        replays := satInc 16 (s.edge die side).replays
        recent := fc :: (s.edge die side).recent.filter (fun t => decide (fc < t + fabricMs)) }).emits
          (((s.edge die side).buf.drop ((s.edge die side).buf.length - n)).map (fun x => .flit die side (wireBytes x.1)))) :=
  if_pos h

/-- An edge that retrains sends nothing while its replays exceed the threshold. -/
theorem exec_edgeRetrain_of {s : State} {die : Fin 23} {side : Fin 7} (fc : Nat) :
    ((s.edge die side).st = .active → (s.edge die side).thresh <
        ((s.edge die side).recent.filter (fun t => decide (fc < t + fabricMs))).length →
      exec (.edgeRetrain ⟨die, side⟩ fc) s = .next (s.setEdge die side { s.edge die side with st := .retraining })) ∧
    (((s.edge die side).recent.filter (fun t => decide (fc < t + fabricMs))).length ≤ (s.edge die side).thresh →
      exec (.edgeRetrain ⟨die, side⟩ fc) s = .next s) :=
  ⟨fun ha ht => congrArg Host.Outcome.next (if_pos ⟨ha, decide_eq_true ht⟩),
    fun ht => congrArg Host.Outcome.next (if_neg (fun h => absurd (of_decide_eq_true h.2) (Nat.not_lt.mpr ht)))⟩

section
variable {s : State} {die : Fin 23} {side : Fin 7} {failing lanes spares : Nat} (hr : (s.edge die side).st = .retraining)
  (hl : lanesLeft (s.edge die side) failing = (lanes, spares))
include hr hl

/-- An edge that resumes, -/
theorem exec_edgeRetrainDone_resumes (h : ¬((s.edge die side).spares < failing ∧ lanes < 25)) :
    exec (.edgeRetrainDone die side failing) s =
      .next ((((s.setEdge die side { (s.edge die side).resent (s.edge die side).inFlight with
        st := .active, lanes := lanes, spares := spares, fails := [], recent := [] }).emits
          ((s.edge die side).inFlight.map (fun x => .flit die side (wireBytes x.1)))).serveEdge die side).freeColls) := by
  rw [exec_edgeRetrainDone, execEdgeRetrainDone]
  simp only [hr, ne_eq, not_true_eq_false, if_false, hl, if_neg h]

/-- and one that has too few lanes left. -/
theorem exec_edgeRetrainDone_fails (h : (s.edge die side).spares < failing ∧ lanes < 25) :
    exec (.edgeRetrainDone die side failing) s =
      .next ((s.setEdge die side { (s.edge die side).resent (s.edge die side).inFlight with
        st := .active, lanes := lanes, spares := spares, fails := [], recent := [] }).edgeFail die side) := by
  rw [exec_edgeRetrainDone, execEdgeRetrainDone]
  simp only [hr, ne_eq, not_true_eq_false, if_false, hl, if_pos h]

end

theorem lanesLeft_spared {e : Edge} {failing : Nat} (h : failing ≤ e.spares) : lanesLeft e failing = (e.lanes, e.spares - failing) :=
  if_pos h

theorem lanesLeft_narrowed {e : Edge} {failing : Nat} (h : e.spares < failing) :
    lanesLeft e failing = (e.lanes + e.spares - failing, 0) := if_neg (Nat.not_le.mpr h)

/-- Settles O38: an arrival by what the edge judges of it, and an edge by what its retraining leaves. -/
theorem flits : Obligations.Flits := by
  unfold Obligations.Flits
  dsimp only
  refine ⟨fun at_ inEdge f die side s hin => ⟨fun h => exec_flitReceive_asks hin f s (.inl h), fun h => ?_, fun hok hw => ?_⟩,
    fun die side n fc s h => exec_flitReplay_of n fc h, fun die side fc s => exec_edgeRetrain_of fc, fun die side failing s =>
      ⟨fun hr hf => ?_, fun hr hf hl => ?_, fun hr hf hl => ?_⟩⟩
  · refine exec_flitReceive_asks hin f s (.inr ?_)
    rcases h with h | h <;> rw [h] <;> rfl
  · rw [show ({ f with wrong := 0 } : Flit) = cleaned f from rfl]
    refine ⟨fun hd => ?_, fun hd hl hb => ?_, fun hd y hy hn hz => ?_, fun hd ha => ?_⟩
    · rw [exec_flitReceive_duplicate hin f s hok hw (Edge.judge_dup hd), Edge.arrived_eq]
    · rw [exec_flitReceive_duplicate hin f s hok hw (Edge.judge_had hd hl hb), Edge.arrived_eq, List.erase_of_not_mem hd]
    · exact exec_flitReceive_early hin f s hok hw (Edge.judge_early hd hy hn hz)
    · have hex := exec_flitReceive_accepted hin f s hok hw (Edge.judge_accepted hd ha)
      rw [Edge.arrived_eq] at hex
      refine ⟨hex, fun ht => ⟨fun h7 hp => ?_, fun h7 hp => ?_, fun h7 => ?_, fun h8 => ?_⟩, fun ht hf hn => ?_,
        fun k rest ht hf hdef hr => ?_⟩
      · exact hex.trans (congrArg Host.Outcome.next (State.routeFlit_accepts (f := cleaned f) _ ht h7 hp))
      · exact hex.trans (congrArg Host.Outcome.next (State.routeFlit_refuses (f := cleaned f) _ ht h7 hp))
      · exact hex.trans (congrArg Host.Outcome.next (State.routeFlit_nak (f := cleaned f) _ ht h7))
      · exact hex.trans (congrArg Host.Outcome.next (State.routeFlit_control (f := cleaned f) _ ht h8))
      · exact hex.trans (congrArg Host.Outcome.next (State.routeFlit_unrouted (f := cleaned f) _ ht hf hn))
      · exact hex.trans (congrArg Host.Outcome.next (State.routeFlit_default (f := cleaned f) _ ht hf hdef hr))
  · exact exec_edgeRetrainDone_resumes hr (lanesLeft_spared hf) (fun h => absurd h.1 (Nat.not_lt.mpr hf))
  · exact exec_edgeRetrainDone_resumes hr (lanesLeft_narrowed hf) (fun h => absurd h.2 (Nat.not_lt.mpr hl))
  · obtain ⟨t, ht, hm, h1, h2, h3⟩ := State.edgeFail_of (s.setEdge die side { (s.edge die side).resent (s.edge die side).inFlight with
      st := .active, lanes := (s.edge die side).lanes + (s.edge die side).spares - failing, spares := 0, fails := []
      recent := [] }) die side
    exact ⟨t, (exec_edgeRetrainDone_fails hr (lanesLeft_narrowed hf) ⟨hf, hl⟩).trans (congrArg Host.Outcome.next ht), hm, h1, h2,
      fun p j hj hc => h3 p ⟨j, hj, hc⟩⟩

end Sys2Proof.Machine
